-- ==== Sys2Proof/Word.lean ====
section
/-! DEFINITION. The word types of the machine and their plainest arithmetic. -/

namespace Sys2Proof

/-- One byte of memory or of a command. -/
abbrev Byte := BitVec 8

/-- A 32-bit register (10_state.md R60). -/
abbrev Word := BitVec 32

/-- A 64-bit register, an address while it is computed, a descriptor. -/
abbrev DWord := BitVec 64

/-- The bits of one command (30_encoding.md R1800): bit 0 is the least significant bit of its first byte. -/
abbrev CmdWord := BitVec 128

end Sys2Proof
end

