-- ==== Sys2Proof/Syntax.lean ====
section
/-! DEFINITION. The syntax of the 40 commands (spec/opcode_table.json; 30_encoding.md R1801). A field has the width its
command's rule gives it; fields that a rule does not list are RES0 (R1802) and are no part of the term. -/

namespace Sys2Proof

/-- The range and level-hint fields common to the address-based TLBI commands (42_cmd_tlbi.md R1902). -/
structure TlbiRange where
  /-- NUM, bits [16:12]. -/
  num : BitVec 5
  /-- SCALE, bits [25:20]. -/
  scale : BitVec 6
  /-- TTL128, bit [71]. -/
  ttl128 : Bool
  /-- TTL, bits [73:72]. -/
  ttl : BitVec 2
  /-- TG, bits [75:74]. -/
  tg : BitVec 2
  deriving DecidableEq, Repr

/-- The commands: one constructor for each row of spec/opcode_table.json. -/
inductive Instr where
  /-- CMD_PREFETCH_CONFIG, 40_cmd_prefetch.md R1852. -/
  | prefetchConfig (ssec ssv : Bool) (ssid : BitVec 20) (sid : BitVec 32)
  /-- CMD_PREFETCH_ADDR, 40_cmd_prefetch.md R1853. -/
  | prefetchAddr (ssec ssv : Bool) (ssid : BitVec 20) (sid : BitVec 32) (size stride : BitVec 5) (ns : Bool)
      (addr : BitVec 52)
  /-- CMD_CFGI_STE, 41_cmd_cfgi.md R1872. -/
  | cfgiSte (ssec : Bool) (sid : BitVec 32) (leaf : Bool)
  /-- CMD_CFGI_STE_RANGE, 41_cmd_cfgi.md R1873; Range is not 31 (that is CMD_CFGI_ALL). -/
  | cfgiSteRange (ssec : Bool) (sid : BitVec 32) (range : BitVec 5)
  /-- CMD_CFGI_ALL, 41_cmd_cfgi.md R1880; the StreamID field is IGNORED. -/
  | cfgiAll (ssec : Bool) (sid : BitVec 32)
  /-- CMD_CFGI_CD, 41_cmd_cfgi.md R1874. -/
  | cfgiCd (ssec : Bool) (ssid : BitVec 20) (sid : BitVec 32) (leaf : Bool)
  /-- CMD_CFGI_CD_ALL, 41_cmd_cfgi.md R1875. -/
  | cfgiCdAll (ssec : Bool) (sid : BitVec 32)
  /-- CMD_CFGI_VMS_PIDM, 41_cmd_cfgi.md R1876. -/
  | cfgiVmsPidm (ssec : Bool) (vmid : BitVec 16)
  /-- CMD_CFGI_CIT, 41_cmd_cfgi.md R1877. -/
  | cfgiCit (sid : BitVec 32)
  /-- CMD_CFGI_VSTT_VSID, 41_cmd_cfgi.md R1878. -/
  | cfgiVsttVsid (sid : BitVec 32) (vsid : BitVec 16)
  /-- CMD_CFGI_VSTT, 41_cmd_cfgi.md R1879. -/
  | cfgiVstt (sid : BitVec 32)
  /-- CMD_TLBI_NH_ALL, 42_cmd_tlbi.md R1910. -/
  | tlbiNhAll (vmid : BitVec 16)
  /-- CMD_TLBI_NH_ASID, 42_cmd_tlbi.md R1911. -/
  | tlbiNhAsid (vmid asid : BitVec 16)
  /-- CMD_TLBI_NH_VA, 42_cmd_tlbi.md R1912. -/
  | tlbiNhVa (vmid asid : BitVec 16) (rg : TlbiRange) (leaf : Bool) (addr : BitVec 52)
  /-- CMD_TLBI_NH_VAA, 42_cmd_tlbi.md R1913. -/
  | tlbiNhVaa (vmid : BitVec 16) (rg : TlbiRange) (leaf : Bool) (addr : BitVec 52)
  /-- CMD_TLBI_EL3_ALL, 42_cmd_tlbi.md R1914. -/
  | tlbiEl3All
  /-- CMD_TLBI_EL3_VA, 42_cmd_tlbi.md R1915. -/
  | tlbiEl3Va (rg : TlbiRange) (leaf : Bool) (addr : BitVec 52)
  /-- CMD_TLBI_EL2_ALL, 42_cmd_tlbi.md R1916. -/
  | tlbiEl2All
  /-- CMD_TLBI_EL2_ASID, 42_cmd_tlbi.md R1917. -/
  | tlbiEl2Asid (asid : BitVec 16)
  /-- CMD_TLBI_EL2_VA, 42_cmd_tlbi.md R1918. -/
  | tlbiEl2Va (asid : BitVec 16) (rg : TlbiRange) (leaf : Bool) (addr : BitVec 52)
  /-- CMD_TLBI_EL2_VAA, 42_cmd_tlbi.md R1919. -/
  | tlbiEl2Vaa (rg : TlbiRange) (leaf : Bool) (addr : BitVec 52)
  /-- CMD_TLBI_S12_VMALL, 42_cmd_tlbi.md R1926. -/
  | tlbiS12Vmall (vmid : BitVec 16)
  /-- CMD_TLBI_S2_VMALLW, 42_cmd_tlbi.md R1927. -/
  | tlbiS2Vmallw (vmid : BitVec 16)
  /-- CMD_TLBI_S2_IPA, 42_cmd_tlbi.md R1925; the address field is Address[55:12]. -/
  | tlbiS2Ipa (vmid : BitVec 16) (rg : TlbiRange) (leaf : Bool) (addr : BitVec 44)
  /-- CMD_TLBI_NSNH_ALL, 42_cmd_tlbi.md R1931. -/
  | tlbiNsnhAll
  /-- CMD_ATC_INV, 43_cmd_ats_pri_dpt.md R2001. -/
  | atcInv (g ssv : Bool) (ssid : BitVec 20) (sid : BitVec 32) (size : BitVec 6) (addr : BitVec 52)
  /-- CMD_PRI_RESP, 43_cmd_ats_pri_dpt.md R2005. -/
  | priResp (ssv : Bool) (ssid : BitVec 20) (sid : BitVec 32) (prgIndex : BitVec 9) (resp : BitVec 2)
  /-- CMD_RESUME, 44_cmd_fault_sync.md R2050. -/
  | resume (ssec ac ab : Bool) (sid : BitVec 32) (stag : BitVec 16)
  /-- CMD_STALL_TERM, 44_cmd_fault_sync.md R2054. -/
  | stallTerm (ssec : Bool) (sid : BitVec 32)
  /-- CMD_SYNC, 44_cmd_fault_sync.md R2060; the address field is MSIAddress[55:2]. -/
  | sync (cs msh : BitVec 2) (msiAttr : BitVec 4) (msiData : BitVec 32) (msiAddr : BitVec 54) (msiNs : Bool)
  /-- CMD_TLBI_S_EL2_ALL, 42_cmd_tlbi.md R1920. -/
  | tlbiSEl2All
  /-- CMD_TLBI_S_EL2_ASID, 42_cmd_tlbi.md R1921. -/
  | tlbiSEl2Asid (asid : BitVec 16)
  /-- CMD_TLBI_S_EL2_VA, 42_cmd_tlbi.md R1922. -/
  | tlbiSEl2Va (asid : BitVec 16) (rg : TlbiRange) (leaf : Bool) (addr : BitVec 52)
  /-- CMD_TLBI_S_EL2_VAA, 42_cmd_tlbi.md R1923. -/
  | tlbiSEl2Vaa (rg : TlbiRange) (leaf : Bool) (addr : BitVec 52)
  /-- CMD_TLBI_S_S12_VMALL, 42_cmd_tlbi.md R1929. -/
  | tlbiSS12Vmall (vmid : BitVec 16)
  /-- CMD_TLBI_S_S2_VMALLW, 42_cmd_tlbi.md R1930. -/
  | tlbiSS2Vmallw (vmid : BitVec 16)
  /-- CMD_TLBI_S_S2_IPA, 42_cmd_tlbi.md R1928; the address field is Address[55:12]. -/
  | tlbiSS2Ipa (vmid : BitVec 16) (ns : Bool) (rg : TlbiRange) (leaf : Bool) (addr : BitVec 44)
  /-- CMD_TLBI_SNH_ALL, 42_cmd_tlbi.md R1932. -/
  | tlbiSnhAll
  /-- CMD_DPTI_ALL, 43_cmd_ats_pri_dpt.md R2010. -/
  | dptiAll
  /-- CMD_DPTI_PA, 43_cmd_ats_pri_dpt.md R2011; the address field is Address[55:12]. -/
  | dptiPa (leaf : Bool) (size : BitVec 4) (addr : BitVec 44)
  deriving DecidableEq, Repr

end Sys2Proof
end

