-- ==== Sys2Proof/WellFormed.lean ====
section
/-! DEFINITION. Well-formed commands. The field widths of the syntax are those of the encodings, so the one condition that
a term can break is that CMD_CFGI_STE_RANGE with Range 31 is CMD_CFGI_ALL (41_cmd_cfgi.md R1880). -/

namespace Sys2Proof

/-- A command that has an encoding of its own. -/
def Instr.wellFormed (i : Instr) : Bool :=
  match i with
  | .cfgiSteRange _ _ range => range != 31#5
  | _ => true

end Sys2Proof
end

