-- ==== Sys2Proof/Decode.lean ====
section
/-! DEFINITION. The decoder of commands, total on any 16 bytes and rejecting by name, and after it the encoder. Both are
written from the field tables of 30_encoding.md R1800 to R1803 and of the commands' own rules. -/

namespace Sys2Proof

/-- Why 16 bytes are no command of this model. Both are CERROR_ILL for the queue they stand in (30_encoding.md R1806, R1807). -/
inductive DecodeError where
  /-- A Reserved opcode (30_encoding.md R1801). -/
  | reservedOpcode (opcode : BitVec 8)
  /-- An opcode of the IMPLEMENTATION DEFINED range 0x80 to 0x8F (30_encoding.md R1807, 92_eei_decisions.md D30). -/
  | implementationDefined (opcode : BitVec 8)
  deriving DecidableEq, Repr

/-- The range and level-hint fields of an address-based TLBI command (42_cmd_tlbi.md R1902). -/
def rangeOf (w : CmdWord) : TlbiRange where
  num := w.extractLsb' 12 5
  scale := w.extractLsb' 20 6
  ttl128 := w.getLsbD 71
  ttl := w.extractLsb' 72 2
  tg := w.extractLsb' 74 2

/-- The command that 128 bits hold (30_encoding.md R1801); every bit of a RES0 field is dropped here (R1802). -/
def decodeWord (w : CmdWord) : Except DecodeError Instr :=
  match (w.extractLsb' 0 8).toNat with
  | 0x01 => .ok (.prefetchConfig (w.getLsbD 10) (w.getLsbD 11) (w.extractLsb' 12 20) (w.extractLsb' 32 32))
  | 0x02 => .ok (.prefetchAddr (w.getLsbD 10) (w.getLsbD 11) (w.extractLsb' 12 20) (w.extractLsb' 32 32) (w.extractLsb' 64 5) (w.extractLsb' 69 5) (w.getLsbD 75) (w.extractLsb' 76 52))
  | 0x03 => .ok (.cfgiSte (w.getLsbD 10) (w.extractLsb' 32 32) (w.getLsbD 64))
  | 0x04 =>
    if w.extractLsb' 64 5 = 31#5 then .ok (.cfgiAll (w.getLsbD 10) (w.extractLsb' 32 32))
    else .ok (.cfgiSteRange (w.getLsbD 10) (w.extractLsb' 32 32) (w.extractLsb' 64 5))
  | 0x05 => .ok (.cfgiCd (w.getLsbD 10) (w.extractLsb' 12 20) (w.extractLsb' 32 32) (w.getLsbD 64))
  | 0x06 => .ok (.cfgiCdAll (w.getLsbD 10) (w.extractLsb' 32 32))
  | 0x07 => .ok (.cfgiVmsPidm (w.getLsbD 10) (w.extractLsb' 32 16))
  | 0x08 => .ok (.cfgiCit (w.extractLsb' 32 32))
  | 0x09 => .ok (.cfgiVsttVsid (w.extractLsb' 32 32) (w.extractLsb' 64 16))
  | 0x0A => .ok (.cfgiVstt (w.extractLsb' 32 32))
  | 0x10 => .ok (.tlbiNhAll (w.extractLsb' 32 16))
  | 0x11 => .ok (.tlbiNhAsid (w.extractLsb' 32 16) (w.extractLsb' 48 16))
  | 0x12 => .ok (.tlbiNhVa (w.extractLsb' 32 16) (w.extractLsb' 48 16) (rangeOf w) (w.getLsbD 64) (w.extractLsb' 76 52))
  | 0x13 => .ok (.tlbiNhVaa (w.extractLsb' 32 16) (rangeOf w) (w.getLsbD 64) (w.extractLsb' 76 52))
  | 0x18 => .ok (.tlbiEl3All)
  | 0x1A => .ok (.tlbiEl3Va (rangeOf w) (w.getLsbD 64) (w.extractLsb' 76 52))
  | 0x20 => .ok (.tlbiEl2All)
  | 0x21 => .ok (.tlbiEl2Asid (w.extractLsb' 48 16))
  | 0x22 => .ok (.tlbiEl2Va (w.extractLsb' 48 16) (rangeOf w) (w.getLsbD 64) (w.extractLsb' 76 52))
  | 0x23 => .ok (.tlbiEl2Vaa (rangeOf w) (w.getLsbD 64) (w.extractLsb' 76 52))
  | 0x28 => .ok (.tlbiS12Vmall (w.extractLsb' 32 16))
  | 0x29 => .ok (.tlbiS2Vmallw (w.extractLsb' 32 16))
  | 0x2A => .ok (.tlbiS2Ipa (w.extractLsb' 32 16) (rangeOf w) (w.getLsbD 64) (w.extractLsb' 76 44))
  | 0x30 => .ok (.tlbiNsnhAll)
  | 0x40 => .ok (.atcInv (w.getLsbD 9) (w.getLsbD 11) (w.extractLsb' 12 20) (w.extractLsb' 32 32) (w.extractLsb' 64 6) (w.extractLsb' 76 52))
  | 0x41 => .ok (.priResp (w.getLsbD 11) (w.extractLsb' 12 20) (w.extractLsb' 32 32) (w.extractLsb' 64 9) (w.extractLsb' 76 2))
  | 0x44 => .ok (.resume (w.getLsbD 10) (w.getLsbD 12) (w.getLsbD 13) (w.extractLsb' 32 32) (w.extractLsb' 64 16))
  | 0x45 => .ok (.stallTerm (w.getLsbD 10) (w.extractLsb' 32 32))
  | 0x46 => .ok (.sync (w.extractLsb' 12 2) (w.extractLsb' 22 2) (w.extractLsb' 24 4) (w.extractLsb' 32 32) (w.extractLsb' 66 54) (w.getLsbD 127))
  | 0x50 => .ok (.tlbiSEl2All)
  | 0x51 => .ok (.tlbiSEl2Asid (w.extractLsb' 48 16))
  | 0x52 => .ok (.tlbiSEl2Va (w.extractLsb' 48 16) (rangeOf w) (w.getLsbD 64) (w.extractLsb' 76 52))
  | 0x53 => .ok (.tlbiSEl2Vaa (rangeOf w) (w.getLsbD 64) (w.extractLsb' 76 52))
  | 0x58 => .ok (.tlbiSS12Vmall (w.extractLsb' 32 16))
  | 0x59 => .ok (.tlbiSS2Vmallw (w.extractLsb' 32 16))
  | 0x5A => .ok (.tlbiSS2Ipa (w.extractLsb' 32 16) (w.getLsbD 65) (rangeOf w) (w.getLsbD 64) (w.extractLsb' 76 44))
  | 0x60 => .ok (.tlbiSnhAll)
  | 0x70 => .ok (.dptiAll)
  | 0x73 => .ok (.dptiPa (w.getLsbD 64) (w.extractLsb' 72 4) (w.extractLsb' 76 44))
  | op => if 0x80 ≤ op ∧ op ≤ 0x8F then .error (.implementationDefined (w.extractLsb' 0 8))
          else .error (.reservedOpcode (w.extractLsb' 0 8))

/-- A list of bytes as one number, the first byte least significant (20_memory.md R601). -/
def leNat : List Byte → Nat
  | [] => 0
  | b :: bs => b.toNat + 256 * leNat bs

/-- The first `n` bytes of a number, least significant first. -/
def leBytes : Nat → Nat → List Byte
  | 0, _ => []
  | n + 1, x => BitVec.ofNat 8 x :: leBytes n (x / 256)

/-- The 128 bits of a queue entry from its bytes in memory order (30_encoding.md R1800). -/
def wordOfBytes (bs : List Byte) : CmdWord := BitVec.ofNat 128 (leNat bs)

/-- The command in the bytes of a queue entry. -/
def decode (bs : List Byte) : Except DecodeError Instr := decodeWord (wordOfBytes bs)

/-- A field placed with its least significant bit at bit `lo` of a command. -/
def fld {n : Nat} (lo : Nat) (x : BitVec n) : CmdWord := x.setWidth 128 <<< lo

/-- A one-bit field placed at bit `lo`. -/
def flag (lo : Nat) (b : Bool) : CmdWord := fld lo (BitVec.ofBool b)

/-- The range and level-hint fields in their places (42_cmd_tlbi.md R1902). -/
def putRange (rg : TlbiRange) : CmdWord :=
  fld 12 rg.num ||| fld 20 rg.scale ||| flag 71 rg.ttl128 ||| fld 72 rg.ttl ||| fld 74 rg.tg

/-- The 128 bits of a command, RES0 fields zero. -/
def encode (i : Instr) : CmdWord :=
  match i with
  | .prefetchConfig ssec ssv ssid sid => fld 0 0x01#8 ||| flag 10 ssec ||| flag 11 ssv ||| fld 12 ssid |||
      fld 32 sid
  | .prefetchAddr ssec ssv ssid sid size stride ns addr => fld 0 0x02#8 ||| flag 10 ssec ||| flag 11 ssv |||
      fld 12 ssid ||| fld 32 sid ||| fld 64 size ||| fld 69 stride ||| flag 75 ns ||| fld 76 addr
  | .cfgiSte ssec sid leaf => fld 0 0x03#8 ||| flag 10 ssec ||| fld 32 sid ||| flag 64 leaf
  | .cfgiSteRange ssec sid range => fld 0 0x04#8 ||| flag 10 ssec ||| fld 32 sid ||| fld 64 range
  | .cfgiAll ssec sid => fld 0 0x04#8 ||| flag 10 ssec ||| fld 32 sid ||| fld 64 31#5
  | .cfgiCd ssec ssid sid leaf => fld 0 0x05#8 ||| flag 10 ssec ||| fld 12 ssid ||| fld 32 sid ||| flag 64 leaf
  | .cfgiCdAll ssec sid => fld 0 0x06#8 ||| flag 10 ssec ||| fld 32 sid
  | .cfgiVmsPidm ssec vmid => fld 0 0x07#8 ||| flag 10 ssec ||| fld 32 vmid
  | .cfgiCit sid => fld 0 0x08#8 ||| fld 32 sid
  | .cfgiVsttVsid sid vsid => fld 0 0x09#8 ||| fld 32 sid ||| fld 64 vsid
  | .cfgiVstt sid => fld 0 0x0A#8 ||| fld 32 sid
  | .tlbiNhAll vmid => fld 0 0x10#8 ||| fld 32 vmid
  | .tlbiNhAsid vmid asid => fld 0 0x11#8 ||| fld 32 vmid ||| fld 48 asid
  | .tlbiNhVa vmid asid rg leaf addr => fld 0 0x12#8 ||| putRange rg ||| fld 32 vmid ||| fld 48 asid |||
      flag 64 leaf ||| fld 76 addr
  | .tlbiNhVaa vmid rg leaf addr => fld 0 0x13#8 ||| putRange rg ||| fld 32 vmid ||| flag 64 leaf ||| fld 76 addr
  | .tlbiEl3All => fld 0 0x18#8
  | .tlbiEl3Va rg leaf addr => fld 0 0x1A#8 ||| putRange rg ||| flag 64 leaf ||| fld 76 addr
  | .tlbiEl2All => fld 0 0x20#8
  | .tlbiEl2Asid asid => fld 0 0x21#8 ||| fld 48 asid
  | .tlbiEl2Va asid rg leaf addr => fld 0 0x22#8 ||| putRange rg ||| fld 48 asid ||| flag 64 leaf ||| fld 76 addr
  | .tlbiEl2Vaa rg leaf addr => fld 0 0x23#8 ||| putRange rg ||| flag 64 leaf ||| fld 76 addr
  | .tlbiS12Vmall vmid => fld 0 0x28#8 ||| fld 32 vmid
  | .tlbiS2Vmallw vmid => fld 0 0x29#8 ||| fld 32 vmid
  | .tlbiS2Ipa vmid rg leaf addr => fld 0 0x2A#8 ||| putRange rg ||| fld 32 vmid ||| flag 64 leaf ||| fld 76 addr
  | .tlbiNsnhAll => fld 0 0x30#8
  | .atcInv g ssv ssid sid size addr => fld 0 0x40#8 ||| flag 9 g ||| flag 11 ssv ||| fld 12 ssid |||
      fld 32 sid ||| fld 64 size ||| fld 76 addr
  | .priResp ssv ssid sid prgIndex resp => fld 0 0x41#8 ||| flag 11 ssv ||| fld 12 ssid ||| fld 32 sid |||
      fld 64 prgIndex ||| fld 76 resp
  | .resume ssec ac ab sid stag => fld 0 0x44#8 ||| flag 10 ssec ||| flag 12 ac ||| flag 13 ab ||| fld 32 sid |||
      fld 64 stag
  | .stallTerm ssec sid => fld 0 0x45#8 ||| flag 10 ssec ||| fld 32 sid
  | .sync cs msh msiAttr msiData msiAddr msiNs => fld 0 0x46#8 ||| fld 12 cs ||| fld 22 msh |||
      fld 24 msiAttr ||| fld 32 msiData ||| fld 66 msiAddr ||| flag 127 msiNs
  | .tlbiSEl2All => fld 0 0x50#8
  | .tlbiSEl2Asid asid => fld 0 0x51#8 ||| fld 48 asid
  | .tlbiSEl2Va asid rg leaf addr => fld 0 0x52#8 ||| putRange rg ||| fld 48 asid ||| flag 64 leaf ||| fld 76 addr
  | .tlbiSEl2Vaa rg leaf addr => fld 0 0x53#8 ||| putRange rg ||| flag 64 leaf ||| fld 76 addr
  | .tlbiSS12Vmall vmid => fld 0 0x58#8 ||| fld 32 vmid
  | .tlbiSS2Vmallw vmid => fld 0 0x59#8 ||| fld 32 vmid
  | .tlbiSS2Ipa vmid ns rg leaf addr => fld 0 0x5A#8 ||| putRange rg ||| fld 32 vmid ||| flag 64 leaf |||
      flag 65 ns ||| fld 76 addr
  | .tlbiSnhAll => fld 0 0x60#8
  | .dptiAll => fld 0 0x70#8
  | .dptiPa leaf size addr => fld 0 0x73#8 ||| flag 64 leaf ||| fld 72 size ||| fld 76 addr

/-- The bytes of a command as software stores them in a queue entry. -/
def encodeBytes (i : Instr) : List Byte := leBytes 16 (encode i).toNat

/-- The instruction the decoder reads from the low `nbits` bits of `w`, every bit above them zero, laid out in 16 bytes
with bit 0 in the first byte. -/
def decodeTableWord (nbits w : Nat) : Option Instr :=
  match decode (leBytes 16 (w % 2 ^ nbits)) with
  | .ok i => some i
  | .error _ => none

end Sys2Proof
end

