-- ==== Sys2Proof/Config.lean ====
section
/-! DEFINITION. What the spec leaves free and what it leaves to other documents: constants without a body, so that nothing
can be proved of their values. A value that 00_scope.md R26 calls UNKNOWN is `freeValue` of a counter that the machine
reads and advances (log entry 7). -/

namespace Sys2Proof.Config

/-- The n-th UNKNOWN value that an action of the machine produces (00_scope.md R26, 92_eei_decisions.md D8; log entry 7). -/
opaque freeValue : Nat → BitVec 64

/-! The format of VMSAv9-128 descriptors, which the spec does not hold (23_translation.md R2840, 92_eei_decisions.md D65; log
entry 13). The first two arguments of a decoder are the log2 of the granule and the number of levels below the
descriptor's. -/

/-- The fields of a VMSAv9-128 descriptor, in the places that R2846 gives those of a VMSAv8-64 descriptor. -/
opaque d128View : Nat → Nat → BitVec 128 → BitVec 64

/-- The next-level table address, or the output address, of a VMSAv9-128 descriptor. -/
opaque d128Addr : Nat → Nat → BitVec 128 → DWord

/-- The levels that a VMSAv9-128 Table descriptor skips. -/
opaque d128Skip : BitVec 128 → BitVec 2

/-- The Protected attribute of a VMSAv9-128 descriptor (25_dpt_gpc.md R1632). -/
opaque d128Protected : BitVec 128 → Bool

/-- A VMSAv9-128 descriptor whose Access flag and dirty state become those of its changed fields. -/
opaque d128Update : BitVec 128 → BitVec 64 → BitVec 128

/-- The GPT lookup of FEAT_RME, FEAT_RME_GPC2, FEAT_RME_GPC3 and FEAT_RME_GDI (25_dpt_gpc.md part B,
92_eei_decisions.md D67; log entry 14): from SMMU_ROOT_GPT_BASE, SMMU_ROOT_GPT_BASE_CFG, the digest of memory and the
physical address, the GPI value of the location (inl) or the CFG_ERR code of the GPT lookup error (inr). -/
opaque gptLookup : DWord → DWord → List (Nat × BitVec 8) → DWord → BitVec 4 ⊕ BitVec 4

/-- The Root PA space addresses of the 8-byte GPT entries that such a lookup reads, in their order (log entry 14). -/
opaque gptFetches : DWord → DWord → List (Nat × BitVec 8) → DWord → List DWord

/-- The 8-byte HDBSS entry for an IPA and a level (28_httu.md, 91_not_in_source.md; log entry 16). -/
opaque hdbssEntry : DWord → Nat → Bool → BitVec 64

/-- The IPA, the level and the Non-secure IPA space flag that a HACDBS entry names, none for an entry that names no descriptor
to clean (28_httu.md R1348; log entry 16). -/
opaque hacdbsEntry : BitVec 64 → Option (DWord × Nat × Bool)

/-- The memory type, as an STE.MemAttr value, that a Reserved stage 2 MemAttr behaves as with S2FWB set (24_attributes.md
R1427; log entry 7). -/
opaque reservedFwb : BitVec 4 → BitVec 4

/-- The Shareability, as an SH value, that the reserved descriptor SH 0b01 behaves as (24_attributes.md R1443; log entry 7). -/
opaque reservedSh : BitVec 2

end Sys2Proof.Config
end

