-- ==== Sys2Proof/Machine/State.lean ====
section
/-! DEFINITION. The state of the SMMU as plain data (10_state.md R50, R51), what its steps exchange with the world, and the
state after reset. INVENTORY.md lists every field with its rule and its reset value. -/

namespace Sys2Proof.Machine

/-- A programming interface, and the Security state of the streams and queues it governs (65_security_states.md R2400). -/
inductive Sec where
  | ns | s | rl
  deriving DecidableEq, Repr

/-- A physical address space (20_memory.md R600; the last two with Granular Data Isolation, 25_dpt_gpc.md R1622). -/
inductive Pas where
  | ns | s | rl | root | nsp | sa
  deriving DecidableEq, Repr

/-- A Command queue: the one of an interface, or the n-th ECMDQ of it, in regular mode or through its DCMDQ (27_queues.md
R720, R730). -/
inductive QueueId where
  | main (i : Sec)
  | ecmdq (i : Sec) (n : Nat)
  | dcmdq (i : Sec) (n : Nat)
  deriving DecidableEq, Repr

/-- The translation regime of a stream, StreamWorld (31_tlb_tagging.md R1260). -/
inductive World where
  | nsEl1 | nsEl2 | nsEl2E2h | secure | sEl2 | sEl2E2h | el3 | realmEl1 | realmEl2 | realmEl2E2h
  deriving DecidableEq, Repr

/-! ## Attributes (24_attributes.md R1400) -/

/-- A cacheability level of Normal memory. -/
inductive CachePol where
  | wb | wt | nc
  deriving DecidableEq, Repr

/-- A memory type, weakest to strongest within each kind (R1421). -/
inductive MemType where
  | normal (inner outer : CachePol)
  | gre | nGRE | nGnRE | nGnRnE
  deriving DecidableEq, Repr

/-- Shareability. -/
inductive Shr where
  | nsh | ish | osh
  deriving DecidableEq, Repr

/-- Allocation and transient hints of one cacheability level. -/
structure Hints where
  ra : Bool
  wa : Bool
  tr : Bool
  deriving DecidableEq, Repr

/-- The memory attributes of a transaction inside the SMMU and at its output. -/
structure Attrs where
  mt : MemType
  sh : Shr
  inner : Hints
  outer : Hints
  deriving DecidableEq, Repr

/-! ## What clients and software do (92_eei_decisions.md D2) -/

/-- The class of a client transaction (32_special_transactions.md R1500, R1521, R1526; 24_attributes.md R1403). -/
inductive TxnKind where
  | read | write | atomic
  /-- read with clean and invalidate -/
  | rci
  /-- destructive read -/
  | dr
  /-- write with directed cache prefetch -/
  | wdcp
  /-- directed cache prefetch without write data -/
  | nwdcp
  | clean | invalidate | cleanInvalidate | cleanToPersistence
  /-- Destructive hint -/
  | dh
  /-- DVM operations, barriers and CMOs that are not address-based (R1520, R1521) -/
  | dvm
  deriving DecidableEq, Repr

/-- A client transaction; an attribute that the interconnect does not carry is none (24_attributes.md R1401, R1410). -/
structure Txn where
  /-- the client's own identification of the transaction -/
  tag : Nat
  sec : Sec
  sid : BitVec 32
  ssid : Option (BitVec 20)
  addr : DWord
  kind : TxnKind
  instr : Option Bool
  priv : Option Bool
  /-- the NS attribute: true is Non-secure -/
  nsAttr : Option Bool
  /-- a Realm client that names its target space, XT (26_ats_pri.md R1725) -/
  xt : Bool
  mt : Option MemType
  sh : Option Shr
  hints : Option (Hints × Hints)
  /-- ATS Translated transaction (26_ats_pri.md) -/
  translated : Bool
  /-- the stream is a PCIe stream -/
  pcie : Bool
  /-- the transaction has the No_snoop attribute (24_attributes.md R1460) -/
  noSnoop : Bool
  /-- an AMBA Exclusive access (32_special_transactions.md R1527) -/
  exclusive : Bool := false
  /-- the client's bus protocol carries physical addresses only (26_ats_pri.md R1670) -/
  paOnly : Bool := false
  speculative : Bool
  /-- Protected Mode attribute (25_dpt_gpc.md R1623) -/
  pm : Bool
  /-- the MECID the client supplies (62_ras_mpam_mec.md R2672) -/
  mecid : BitVec 16
  /-- the bytes a write stores -/
  data : List Byte
  /-- the number of bytes a read asks for -/
  len : Nat
  deriving DecidableEq, Repr

/-- An access of a client without a StreamID (25_dpt_gpc.md R1602). -/
structure NoSidTxn where
  tag : Nat
  pas : Pas
  addr : DWord
  write : Bool
  attrs : Attrs
  mecid : BitVec 16
  partid : BitVec 16
  pmg : BitVec 8
  /-- the PARTID space the device gives: 0b00 Secure, 0b01 Non-secure, 0b10 Root, 0b11 Realm (62_ras_mpam_mec.md R2668) -/
  mpamSp : BitVec 2
  data : List Byte
  len : Nat
  deriving DecidableEq, Repr

/-- A PCIe ATS Translation Request (26_ats_pri.md R1650 on). -/
structure AtsReq where
  tag : Nat
  sec : Sec
  sid : BitVec 32
  ssid : Option (BitVec 20)
  addr : DWord
  /-- No Write -/
  nw : Bool
  exe : Bool
  priv : Bool
  /-- the NS attribute: true is Non-secure -/
  nsAttr : Option Bool
  /-- a Realm client that names its target space, XT (R1725) -/
  xt : Bool
  pm : Bool
  /-- the Source-CXL bit (R1686) -/
  srcCxl : Bool := false
  /-- the number of smallest translation units asked for (61_event_records.md R2259) -/
  stus : BitVec 4 := 1
  /-- a request marked speculative, by an implementation's own translation service, never by PCIe ATS
  (29_speculation_coherency_embedded.md R652) -/
  speculative : Bool := false
  deriving DecidableEq, Repr

/-- A PCIe PRI Page Request Message (26_ats_pri.md R1730 on). -/
structure PriReq where
  sec : Sec
  sid : BitVec 32
  ssid : Option (BitVec 20)
  addr : DWord
  prgIndex : BitVec 9
  last : Bool
  uR : Bool
  uW : Bool
  uX : Bool
  priv : Bool
  deriving DecidableEq, Repr

/-- An implementation-defined page request hint of a device: the permissions asked for, privileged and unprivileged
(61_event_records.md R2272). -/
structure PageHint where
  sec : Sec
  sid : BitVec 32
  ssid : Option (BitVec 20)
  addr : DWord
  /-- the number of 4KB pages -/
  span : BitVec 8
  pR : Bool
  pW : Bool
  pX : Bool
  uR : Bool
  uW : Bool
  uX : Bool
  /-- Protected Mode attribute (25_dpt_gpc.md R1623) -/
  pm : Bool
  deriving DecidableEq, Repr

/-- The regime and match of a broadcast TLB maintenance message (31_tlb_tagging.md R1265). -/
inductive TlbScope where
  /-- all stage 1 entries of an EL1 regime for a VMID -/
  | vmall (w : World) (vmid : Option (BitVec 16))
  | asid (w : World) (vmid : Option (BitVec 16)) (asid : BitVec 16)
  | va (w : World) (vmid : Option (BitVec 16)) (asid : Option (BitVec 16)) (addr : DWord) (len : Nat) (leaf : Bool)
  /-- all stages of an EL1 regime for a VMID -/
  | vmallS12 (w : World) (vmid : Option (BitVec 16))
  /-- all entries of a regime, all stages -/
  | all (w : World)
  | ipa (w : World) (vmid : Option (BitVec 16)) (nsIpa : Bool) (addr : DWord) (len : Nat) (leaf : Bool)
  /-- stage 2 dirty state of a VMID -/
  | vmallW (w : World) (vmid : Option (BitVec 16))
  /-- granule protection information by physical address; none is all (31_tlb_tagging.md R1275) -/
  | pa (range : Option (DWord × Nat)) (leaf : Bool)
  deriving DecidableEq, Repr

/-- What a performance event is about (17_regs_pmcg.md R510 to R515). -/
inductive PmuSrc where
  /-- a stream; `pm` is the Protected Mode attribute -/
  | stream (sec : Sec) (sid : BitVec 32) (pm : Bool)
  /-- a client's access without a StreamID to a PA space -/
  | noSid (pas : Pas)
  /-- an access that the SMMU makes for no stream, of the Security state that goes with a PA space -/
  | own (pas : Pas)
  /-- no stream, as event 0 -/
  | none
  deriving DecidableEq, Repr

/-- PARTID, PMG and PARTID space (62_ras_mpam_mec.md R2660 on; 0b00 Secure, 0b01 Non-secure, 0b10 Root, 0b11 Realm, R2668). -/
abbrev Mpam := BitVec 16 × BitVec 8 × BitVec 2

/-- One occurrence of a performance event (17_regs_pmcg.md R508), with the PARTID, PMG and PARTID space of its access where
they are known (R516). -/
structure PmuOcc where
  event : Nat
  src : PmuSrc
  mpam : Option Mpam
  /-- it happened, and counts; false: the walk or the fetch that would have made accesses of this event began, which tells that
  the caches missed, whether or not an access was made -/
  made : Bool := true
  deriving DecidableEq, Repr

/-- What a step may take from the world (92_eei_decisions.md D2). -/
inductive Input where
  /-- a register access of `size` bytes by an access in PA space `pas` at byte offset `off` of the register file -/
  | regRead (pas : Pas) (off : Nat) (size : Nat)
  | regWrite (pas : Pas) (off : Nat) (size : Nat) (val : DWord)
  /-- an access to the Root Control Page, whose base is a platform parameter (10_state.md R55) -/
  | rootRead (pas : Pas) (off : Nat) (size : Nat)
  | rootWrite (pas : Pas) (off : Nat) (size : Nat) (val : DWord)
  /-- an access to page 0 or 1 of performance monitor group n (17_regs_pmcg.md R530) -/
  | pmcgRead (n page : Nat) (pas : Pas) (off : Nat) (size : Nat)
  | pmcgWrite (n page : Nat) (pas : Pas) (off : Nat) (size : Nat) (val : DWord)
  | txn (t : Txn)
  | noSid (t : NoSidTxn)
  | atsReq (r : AtsReq)
  | priReq (r : PriReq)
  /-- an Invalidate Completion (or an Unsupported Request response) for an outstanding CMD_ATC_INV -/
  | atsInvDone (itag : Nat)
  | atsInvTimeout (itag : Nat)
  | broadcastTlbi (op : TlbScope)
  /-- another agent writes memory -/
  | memWrite (pas : Pas) (addr : DWord) (data : List Byte)
  /-- the interconnect begins or ceases to abort the accesses of a region -/
  | setAborts (regions : List (Nat × Nat))
  /-- an implementation-defined page request hint of a device (61_event_records.md R2274) -/
  | pageHint (r : PageHint)
  /-- a performance event that the SMMU does not originate: a clock tick, an implementation-defined event (17_regs_pmcg.md
  R508; 92_eei_decisions.md D4) -/
  | pmuEvent (o : PmuOcc)
  | pmcgCapture (n : Nat)
  | enterSfm
  | reset
  deriving DecidableEq, Repr

/-! ## What the SMMU sends out (92_eei_decisions.md D5, D6) -/

/-- A wired interrupt output (60_exceptions.md R2156). -/
inductive Wire where
  | eventq (i : Sec) | priq (i : Sec) | cmdq (i : Sec) | gerror (i : Sec) | hdbss (i : Sec) | hacdbs (i : Sec)
  | gpfFar | gptCfgFar
  | pmcg (n : Nat)
  deriving DecidableEq, Repr

/-- How a client transaction ends (64_fault_model.md R2308). -/
inductive Response where
  | done (data : List Byte)
  /-- EXOK: an Exclusive access that succeeded (32_special_transactions.md R1527) -/
  | exOkay (data : List Byte)
  | razWi
  | abort
  deriving DecidableEq, Repr

/-- Where a DeviceID comes from, three sources without overlap: a client's StreamID, which goes out with its transactions; the
SMMU's own MSIs, one DeviceID set by the system; the MSIs of a DCMDQ, from its qSID (60_exceptions.md R2153;
70_reset_and_hazards.md R2560; 27_queues.md R745). A device that is Non-secure or Realm has one DeviceID in both modes
(70_reset_and_hazards.md R2568); a Secure StreamID has its own (DESIGN CHOICE, log entry 2). -/
inductive DeviceId where
  | client (secure : Bool) (sid : BitVec 32)
  | own
  | dcmdq (sec : Sec) (qsid : BitVec 32)
  deriving DecidableEq, Repr

/-- A transaction as it leaves the SMMU (24_attributes.md R1450). -/
structure Forward where
  tag : Nat
  /-- none: the access has no StreamID -/
  device : Option DeviceId
  pas : Pas
  addr : DWord
  kind : TxnKind
  instr : Bool
  priv : Bool
  attrs : Attrs
  partid : BitVec 16
  pmg : BitVec 8
  /-- the PARTID space: 0b00 Secure, 0b01 Non-secure, 0b10 Root, 0b11 Realm (62_ras_mpam_mec.md R2668) -/
  mpamSp : BitVec 2
  mecid : BitVec 16
  /-- PBHA: bits 62 to 59 of the stage 1 and of the stage 2 leaf descriptor, those not in hardware use zero
  (21_streams_ste.md R869; 22_cd_vms.md R1082) -/
  pbha1 : BitVec 4 := 0
  pbha2 : BitVec 4 := 0
  /-- the access stays Exclusive (32_special_transactions.md R1527) -/
  exclusive : Bool := false
  deriving DecidableEq, Repr

/-- The status of an ATS Translation Completion (26_ats_pri.md). -/
inductive AtsStatus where
  | success | ur | ca
  deriving DecidableEq, Repr

/-- An ATS Translation Completion. -/
structure AtsCompletion where
  tag : Nat
  status : AtsStatus
  addr : DWord
  /-- log2 of the size of the translated region -/
  sizeLog2 : Nat
  r : Bool
  w : Bool
  exe : Bool
  priv : Bool
  global : Bool
  nonSnooped : Bool
  untranslatedOnly : Bool
  /-- the memory attributes that the completion encodes, as in the AMA field, whose encoding the spec does not hold; none where
  the implementation encodes none (26_ats_pri.md R1710) -/
  attrs : Option Attrs
  /-- the TE field -/
  te : Bool
  /-- the T and XT bits, those of the request (26_ats_pri.md R1720, R1727) -/
  t : Bool
  xt : Bool
  /-- the CXL.io bit (R1686) -/
  cxlIo : Bool
  /-- the answer to a speculative request for write whose translation is valid but writable-clean
  (29_speculation_coherency_embedded.md R652) -/
  writableClean : Bool
  deriving DecidableEq, Repr

/-- One thing the SMMU sends to the world. -/
inductive Output where
  | regValue (v : DWord)
  | wire (w : Wire)
  | msi (pas : Pas) (addr : DWord) (data : BitVec 32) (attrs : Attrs) (device : DeviceId)
  /-- WFE wake-up event to the PEs -/
  | sev
  | forward (f : Forward)
  | response (tag : Nat) (r : Response)
  | atsInvReq (itag : Nat) (sec : Sec) (sid : BitVec 32) (pasid : Option (BitVec 20)) (global : Bool) (addr : DWord) (size : Nat)
  | prgResponse (sec : Sec) (sid : BitVec 32) (pasid : Option (BitVec 20)) (prgIndex : BitVec 9) (code : BitVec 4)
  | atsCompletion (c : AtsCompletion)
  deriving DecidableEq, Repr

/-! ## Registers -/

/-- An MSI configuration register set SMMU_(*_)x_IRQ_CFG0, 1, 2 (12_regs_control.md R191). -/
structure IrqCfg where
  cfg0 : BitVec 64
  cfg1 : BitVec 32
  cfg2 : BitVec 32
  deriving DecidableEq, Repr

/-- The base and index registers of a queue (13_regs_tables_queues.md R255 on). -/
structure QueueRegs where
  base : BitVec 64
  prod : BitVec 32
  cons : BitVec 32
  deriving DecidableEq, Repr

/-- An ECMDQ and its DCMDQ: the fields that are aliases while the DCMDQ is active are stored once (27_queues.md R733;
15_regs_ecmdq_dcmdq.md R403 to R410). -/
structure Ecmdq where
  base : BitVec 64
  prod : BitVec 32
  cons : BitVec 32
  /-- SMMU_(*_)DCMDQ_PRODn.EN -/
  dcEn : Bool
  /-- SMMU_(*_)DCMDQ_CONSn.ENACK -/
  dcEnAck : Bool
  /-- an aborted MSI of the DCMDQ that the next CMD_SYNC reports (R745) -/
  msiAborted : Bool
  deriving DecidableEq, Repr

/-- The interrupt sources of an interface that SMMU_(*_)IRQ_CTRL enables (60_exceptions.md R2156). -/
inductive IrqSrc where
  | gerror | priq | eventq | hdbss | hacdbs
  deriving DecidableEq, Repr

/-- The registers that SMMUEN, the enable of a queue or that of an interrupt guards with a CONSTRAINED UNPREDICTABLE outcome of
a write, and UNKNOWN reads after it, in SMMUv3.1 and earlier (13_regs_tables_queues.md R251, R256; 12_regs_control.md R192, for
SMMU_(*_)x_IRQ_CFGk). -/
inductive GuardedReg where
  | strtabBase | strtabCfg | cmdqBase | cmdqCons | eventqBase | eventqProd | priqBase | priqProd
  | irqCfg (x : IrqSrc) (k : Nat)
  deriving DecidableEq, Repr

/-- The registers of a programming interface (12 to 16_regs_*.md). -/
structure Iface where
  cr0 : BitVec 32
  cr0ack : BitVec 32
  cr1 : BitVec 32
  cr2 : BitVec 32
  s2pii : BitVec 64
  gbpa : BitVec 32
  /-- the GBPA attributes in effect until an Update completes (R181) -/
  gbpaEff : BitVec 32
  agbpa : BitVec 32
  irqCtrl : BitVec 32
  irqCtrlAck : BitVec 32
  gerror : BitVec 32
  gerrorn : BitVec 32
  gerrorIrq : IrqCfg
  strtabBase : BitVec 64
  strtabCfg : BitVec 32
  cmdq : QueueRegs
  eventq : QueueRegs
  eventqIrq : IrqCfg
  priq : QueueRegs
  priqIrq : IrqCfg
  gmpam : BitVec 32
  gmpamEff : BitVec 32
  gbpmpam : BitVec 32
  gbpmpamEff : BitVec 32
  dptBase : BitVec 64
  dptCfg : BitVec 32
  dptFar : BitVec 64
  hdbssBase0 : BitVec 64
  hdbssProd0 : BitVec 64
  hdbssBase1 : BitVec 64
  hdbssProd1 : BitVec 64
  hdbssIrq : IrqCfg
  hdbssMpam : BitVec 32
  hdbssMecid : BitVec 32
  hacdbsBase : BitVec 64
  hacdbsCons : BitVec 64
  hacdbsIrq : IrqCfg
  hacdbsMpam : BitVec 32
  hacdbsMecid : BitVec 32
  gmecid : BitVec 32
  citabBase : BitVec 64
  citabCfg : BitVec 32
  ecmdqs : List Ecmdq
  dcmdqpErr : List (BitVec 64)
  dcmdqpErrn : List (BitVec 64)
  /-- the model's own: the registers that read UNKNOWN since a write while their enable was set (R251, R256; R192) -/
  unknownReads : List GuardedReg
  /-- SMMU_(*_)CR2.E2H was changed since SMMUEN was last Updated to one: which E2H is in effect is UNKNOWN (R171, R172) -/
  e2hUnknown : Bool
  deriving DecidableEq, Repr

/-- The Root Control Page (16_regs_root_realm.md R453 to R460). -/
structure RootRegs where
  cr0 : BitVec 32
  cr0ack : BitVec 32
  gptBase : BitVec 64
  gptCfg : BitVec 64
  gpfFar : BitVec 64
  gptCfgFar : BitVec 64
  tlbi : BitVec 64
  tlbiCtrl : BitVec 32
  gptBase2 : BitVec 64
  gptUpdate : BitVec 32
  gpcbw : BitVec 64
  deriving DecidableEq, Repr

/-- A group of ATOS registers (45_atos.md R2100 to R2111). -/
structure AtosRegs where
  ctrl : BitVec 32
  sid : BitVec 64
  addr : BitVec 64
  par : BitVec 64
  deriving DecidableEq, Repr

/-- One counter of a performance monitor group (17_regs_pmcg.md R531 to R534). -/
structure PmCounter where
  value : BitVec 64
  evtyper : BitVec 32
  shadow : BitVec 64
  smr : BitVec 32
  deriving DecidableEq, Repr

/-- A performance monitor counter group (17_regs_pmcg.md). -/
structure Pmcg where
  counters : List PmCounter
  cnten : BitVec 64
  inten : BitVec 64
  ovs : BitVec 64
  cr : BitVec 32
  scr : BitVec 32
  rootcr : BitVec 32
  irqCtrl : BitVec 32
  irqCtrlAck : BitVec 32
  irq : IrqCfg
  irqStatus : BitVec 32
  gmpam : BitVec 32
  gmpamEff : BitVec 32
  cfgr : BitVec 32
  ceid0 : BitVec 64
  ceid1 : BitVec 64
  iidr : BitVec 32
  aidr : BitVec 32
  mpamidr : BitVec 32
  sMpamidr : BitVec 32
  idRegs : List (BitVec 32)
  deriving DecidableEq, Repr

/-- The identification registers, constant after reset (10_state.md R60; 11_regs_id.md; 00_scope.md R34). -/
structure Ids where
  idr0 : BitVec 32
  idr1 : BitVec 32
  idr2 : BitVec 32
  idr3 : BitVec 32
  idr4 : BitVec 32
  idr5 : BitVec 32
  iidr : BitVec 32
  aidr : BitVec 32
  idr6 : BitVec 32
  idr7 : BitVec 32
  idr8 : BitVec 32
  mpamidr : BitVec 32
  mecidr : BitVec 32
  /-- SMMU_PIDR4..7, PIDR0..3, CIDR0..3 at offsets 0xFD0 to 0xFFC (R112) -/
  idRegs : List (BitVec 32)
  sIdr0 : BitVec 32
  sIdr1 : BitVec 32
  sIdr2 : BitVec 32
  sIdr3 : BitVec 32
  sIdr4 : BitVec 32
  sIdr6 : BitVec 32
  sIdr7 : BitVec 32
  sIdr8 : BitVec 32
  sMpamidr : BitVec 32
  rIdr0 : BitVec 32
  rIdr1 : BitVec 32
  rIdr2 : BitVec 32
  rIdr3 : BitVec 32
  rIdr4 : BitVec 32
  rAidr : BitVec 32
  rIdr6 : BitVec 32
  rIdr7 : BitVec 32
  rIdr8 : BitVec 32
  rMpamidr : BitVec 32
  rMecidr : BitVec 32
  rootIdr0 : BitVec 32
  rootIidr : BitVec 32
  /-- first 64KB page, counted from Page 0, of the Command queue control pages of each interface (R402) -/
  cpPage : Nat
  sCpPage : Nat
  rCpPage : Nat
  deriving DecidableEq, Repr

/-- How the implementation fills its caches: never, at every fetch, or when a free value says so (31_tlb_tagging.md,
insertion is optional at any time; log entry 10). -/
inductive CachePolicy where
  | never | always | free
  deriving DecidableEq, Repr

/-- What a hardware update of a descriptor does where the walk's attributes are not Write-Back (21_streams_ste.md R893,
22_cd_vms.md R1058). -/
inductive HttuNc where
  | atomic | nonAtomic | eabt
  deriving DecidableEq, Repr

/-- The attributes that Translated transactions have before No_snoop (26_ats_pri.md R1710). -/
inductive AtsAttrs where
  /-- Normal Inner and Outer Write-Back, Inner Shareable -/
  | normal
  /-- those the transaction carries -/
  | carried
  deriving DecidableEq, Repr

/-- What happens with the STE of a DCMDQ page that is not as software is expected to program it (27_queues.md R735;
parameter dcmdq_ste_misprogrammed). -/
inductive DcmdqSteUse where
  /-- it is used as it is -/
  | asIs
  /-- S2S counts as zero, and any other difference is C_BAD_STE -/
  | s2sIgnored
  /-- any difference is C_BAD_STE -/
  | checked
  deriving DecidableEq, Repr

/-- The PARTID space of an access without a StreamID to a PA space other than SA and NSP, where PARTID and PMG are zero
(62_ras_mpam_mec.md R2668). -/
inductive NoSidSpace where
  /-- the space the device gives -/
  | device
  /-- the space that goes with the target PA space -/
  | target
  /-- an SMMU without MPAM_SP: MPAM_NS zero to the Root, one to the Realm PA space -/
  | mpamNs
  deriving DecidableEq, Repr

/-- The PARTID space of such an access to the SA or the NSP PA space (R2668). -/
inductive GuardedSpace where
  /-- the space the device gives -/
  | device
  | nonSecure
  /-- SA only; to NSP it acts as `nonSecure` -/
  | root
  deriving DecidableEq, Repr

/-- PARTID, PMG and PARTID space of the accesses without a StreamID, four independent choices (62_ras_mpam_mec.md R2663,
R2668; parameter nostreamid_mpam). -/
structure NoSidMpam where
  /-- PARTID and PMG are the device's, and then its space in general too; else zero -/
  deviceIds : Bool
  space : NoSidSpace
  sa : GuardedSpace
  nsp : GuardedSpace
  deriving DecidableEq, Repr

/-- The fixed contents of the registers that SMMU_IDR1.TABLES_PRESET and QUEUES_PRESET preset (11_regs_id.md R101;
12_regs_control.md R167). -/
structure Preset where
  strtabBase : BitVec 64
  strtabCfg : BitVec 32
  cmdqBase : BitVec 64
  eventqBase : BitVec 64
  priqBase : BitVec 64
  cr1 : BitVec 32
  deriving DecidableEq, Repr

/-- The implementation parameters of 93_implementation_defined.md section 1 (log entry 2). -/
structure Impl where
  cmdRes0Checked : Bool
  structRes0Checked : Bool
  caching : CachePolicy
  pmcgOvssetSideEffects : Bool
  atomicPermRnwV30 : Bool
  translatedPermcfgApplies : Bool
  /-- a Translated address beyond the PA size is truncated, not aborted (26_ats_pri.md R1672) -/
  translatedTruncates : Bool
  pcieTypeOverridesApply : Bool
  atsGrantWOnNw : Bool
  splitStageProtocolCheck : Bool
  priqOverflowSteCheck : Bool
  dcmdqSte : DcmdqSteUse
  unsupportedKinds : List TxnKind
  mpamPasidWithoutPasidtt : Bool
  dcpPermPerStage : Bool
  pmcgCountWhenDisabled : Bool
  /-- event 0 is counted while all traffic is global bypass (17_regs_pmcg.md R502) -/
  pmcgCyclesInBypass : Bool
  /-- the structures of vSID translation are configuration structures for events 3 and 5 (17_regs_pmcg.md R508) -/
  pmcgVsidIsConfig : Bool
  /-- SMMUv3.0: the filter for all StreamIDs matches one namespace only (17_regs_pmcg.md R513) -/
  pmcgOneNamespaceV30 : Bool
  /-- the number of low bits of EVTYPER.EVENT that are implemented (17_regs_pmcg.md R531) -/
  pmcgEventBits : Nat
  /-- an aligned 64-bit access to a performance monitor group is one access (17_regs_pmcg.md R530) -/
  pmcg64Atomic : Bool
  pmcgSidBits : Nat
  wiredInterrupts : Bool
  /-- SMMU_(*_)AGBPA is implemented (12_regs_control.md R182) -/
  agbpaImpl : Bool
  /-- the system outside the SMMU supports ATS (43_cmd_ats_pri_dpt.md R2000) -/
  systemAts : Bool
  /-- the system outside the SMMU supports PRI (43_cmd_ats_pri_dpt.md R2006) -/
  systemPri : Bool
  /-- client devices that are treated as Terminate whatever the stall configuration (64_fault_model.md R2311) -/
  noStallSids : List (Sec × BitVec 32)
  maxStalls : Nat
  /-- an aligned 64-bit register access is one access (10_state.md R61) -/
  reg64Atomic : Bool
  /-- an aborted write of the Event queue, of the PRI queue, is detected at once (60_exceptions.md R2163; 26_ats_pri.md
  R1739) -/
  eventqAbortSync : Bool
  priqAbortSync : Bool
  httuNoncacheable : HttuNc
  /-- memory types that the SMMU's own accesses do not support (12_regs_control.md R166) -/
  unsupportedMemtypes : List MemType
  l0gptsz : BitVec 4
  atsAttrs : AtsAttrs
  /-- fully-coherent clients whose protocol cannot separate reads from writes (25_dpt_gpc.md R1531) -/
  coherentSids : List (Sec × BitVec 32)
  /-- STE.DRE and STE.DCP apply to Full ATS Translated transactions without DPT (21_streams_ste.md R870) -/
  dreTranslated : Bool
  /-- an aborted MSI of a performance monitor group is detected (17_regs_pmcg.md R546) -/
  pmcgAbortDetected : Bool
  noSidMpam : NoSidMpam
  /-- SMMUv3.0: constr_unpred_EATS_S2S (21_streams_ste.md R930) -/
  eatsS2sIllegalV30 : Bool
  /-- STE.ALLOCCFG has an effect with MTCOMB zero and MTCFG zero (21_streams_ste.md R884) -/
  alloccfgWithoutMtcfg : Bool
  /-- STE.ALLOCCFG applies to Translated transactions with MTCOMB zero (24_attributes.md R1414) -/
  alloccfgTranslated : Bool
  /-- cache maintenance operations that the output interconnect does not support (32_special_transactions.md R1521) -/
  terminatedCmos : List TxnKind
  /-- what a PCIe transaction is shareable as: Outer, else Inner (24_attributes.md R1455) -/
  pcieOsh : Bool
  /-- fetches from a Restricted ECMDQ are Write-Back (27_queues.md R750), else of the type that SMMU_(*_)CR1.QUEUE_* give
  (12_regs_control.md R166); the two rules differ (log entry 52) -/
  recmdqWriteBack : Bool
  /-- with direct permissions an instruction read needs read permission in VMSAv8-64 too (23_translation.md R2847), else pages
  may be execute-only (26_ats_pri.md R1702, R1704, R1705); the rules differ (log entry 52) -/
  instNeedsRead : Bool
  /-- SMMU_(*_)DPT_BASE_CFG.DPTPS 0b111 is 56 bits (13_regs_tables_queues.md R271), else invalid (25_dpt_gpc.md R1547); the
  two rules differ (log entry 45) -/
  dptps56 : Bool
  /-- with stage 1 indirection PAN is applied after the removal of execute permissions (25_dpt_gpc.md R1630) -/
  panLate : Bool
  /-- the DCMDQ registers of an ECMDQ with DM one that is not enabled read as their fields (15_regs_ecmdq_dcmdq.md R408 to
  R411), else as zero (27_queues.md R732); the rules differ (log entry 52) -/
  dcmdqInactiveReads : Bool
  /-- a linear Stream table is aligned by the effective LOG2SIZE (23_translation.md R2762), else by the literal one
  (13_regs_tables_queues.md R250); the two rules differ (log entry 52) -/
  strtabAlignEffective : Bool
  /-- an unsupported Translated transaction is recorded as F_UUT (23_translation.md R2800, 32_special_transactions.md R1525),
  else not (26_ats_pri.md R1671); the rules differ (log entry 52) -/
  ttUutRecorded : Bool
  /-- a retried transaction is counted again, exactly as a new one; else it triggers no counter (17_regs_pmcg.md R508) -/
  pmcgRetryCounts : Bool
  /-- the address of register Page 0, for SMMU_IDR1.REL (11_regs_id.md R101) -/
  page0 : DWord
  presetNs : Preset
  presetS : Preset
  presetRl : Preset
  deriving DecidableEq, Repr

/-! ## Internal state (10_state.md R50) -/

/-- What stalls: a client transaction, or an access of a DCMDQ whose STE is used as it is and has S2S set (27_queues.md
R735). -/
inductive Stalled where
  | txn (t : Txn)
  | dcmdq (sec : Sec) (n : Nat) (qsid : BitVec 32)
  deriving DecidableEq, Repr

/-- The Security state of the stream that stalls. -/
def Stalled.sec : Stalled → Sec
  | .txn t => t.sec
  | .dcmdq i _ _ => i

/-- The StreamID of the stream that stalls. -/
def Stalled.sid : Stalled → BitVec 32
  | .txn t => t.sid
  | .dcmdq _ _ q => q

/-- A stalled transaction (64_fault_model.md R2315 to R2320): `recorded` once its event record is in the Event queue. -/
structure Stall where
  stag : BitVec 16
  what : Stalled
  recorded : Bool
  deriving DecidableEq, Repr

/-- A CMD_ATC_INV whose Invalidate Completion has not arrived (43_cmd_ats_pri_dpt.md R2004). -/
structure AtcInv where
  itag : Nat
  queue : QueueId
  timedOut : Bool
  deriving DecidableEq, Repr

/-- What a translation table walk found: the leaf descriptor with what the tables above it add (23_translation.md R2841). -/
structure Leaf where
  /-- the fields of the descriptor in the places of R2846 -/
  desc : BitVec 64
  /-- the descriptor itself, in 128 bits whatever its format -/
  raw : BitVec 128
  /-- the address the descriptor was read from, in the space the walk is made in -/
  descAddr : DWord
  level : Nat
  /-- log2 of the bytes the descriptor maps -/
  sizeLog2 : Nat
  /-- the Contiguous hint, which no translation uses (log entry 12) -/
  contiguous : Bool
  /-- the output address of the first byte of the mapped region -/
  base : DWord
  apTable : BitVec 2
  uxnTable : Bool
  pxnTable : Bool
  nsTable : Bool
  /-- the descriptor was fetched from Non-secure memory or the Non-secure IPA space (31_tlb_tagging.md R1267) -/
  fromNs : Bool
  /-- every descriptor came from AssuredOnly memory and the last is Protected, whatever CD led to them (25_dpt_gpc.md R1633) -/
  assured : Bool
  d128 : Bool
  deriving DecidableEq, Repr

/-- The stage a TLB entry caches. -/
inductive TlbStage where
  | s1 | s2
  deriving DecidableEq, Repr

/-- A TLB entry (31_tlb_tagging.md R1260). -/
structure TlbEntry where
  world : World
  stage : TlbStage
  vmid : Option (BitVec 16)
  /-- none: global, or a regime without ASIDs -/
  asid : Option (BitVec 16)
  aset : Bool
  /-- for stage 2 of the Secure regime: the entry is for the Non-secure IPA space -/
  nsIpa : Bool
  /-- first input address -/
  va : DWord
  sizeLog2 : Nat
  level : Nat
  /-- the granule as TLBI.TG writes it: 1 4KB, 2 16KB, 3 64KB -/
  tg : BitVec 2
  /-- false: a cached Table descriptor -/
  isLeaf : Bool
  /-- holds stage 2 dirty state (42_cmd_tlbi.md R1927) -/
  dirty : Bool
  leaf : Leaf
  deriving DecidableEq, Repr

/-- A cached configuration structure of a stream: STE, L1STD, CD, L1CD, or VMS by StreamID (41_cmd_cfgi.md R1870). -/
structure StreamEntry where
  sec : Sec
  sid : BitVec 32
  /-- the SubstreamID of a CD; the table index of an L1STD or L1CD -/
  idx : Nat
  /-- log2 of the number of StreamIDs, or of SubstreamIDs for an L1CD, that the entry covers -/
  span : Nat
  /-- a CD or L1CD, and the L1CD that led to it, came from AssuredOnly memory (25_dpt_gpc.md R1633) -/
  assured : Bool := false
  bits : BitVec 512
  deriving DecidableEq, Repr

/-- A cached VMS.PARTID_MAP indexed by VMID (41_cmd_cfgi.md R1876). -/
structure VmsEntry where
  sec : Sec
  vmid : BitVec 16
  bits : BitVec 512
  deriving DecidableEq, Repr

/-- A cached entry of the CIT or a VSTT (27_queues.md R758). -/
structure VsidEntry where
  sec : Sec
  qsid : BitVec 32
  /-- log2 of the number of qSIDs that the entry serves -/
  span : Nat
  vsid : Nat
  bits : BitVec 128
  deriving DecidableEq, Repr

/-- A DPT TLB entry (25_dpt_gpc.md R1534, R1535). -/
structure DptEntry where
  sec : Sec
  base : DWord
  sizeLog2 : Nat
  w : Bool
  ac : BitVec 2
  fwb : Bool
  vmid : BitVec 16
  /-- created from an ATS Translation Completion -/
  fromAts : Bool
  /-- a cached Level 0 Table descriptor -/
  isTable : Bool
  deriving DecidableEq, Repr

/-- GPT information in a TLB (31_tlb_tagging.md R1275). -/
structure GptEntry where
  base : DWord
  sizeLog2 : Nat
  gpi : BitVec 4
  lastLevel : Bool
  deriving DecidableEq, Repr

/-- The caches (10_state.md R50). -/
structure Caches where
  stes : List StreamEntry
  l1stds : List StreamEntry
  cds : List StreamEntry
  l1cds : List StreamEntry
  vmsBySid : List StreamEntry
  vmsByVmid : List VmsEntry
  cites : List VsidEntry
  l1cits : List VsidEntry
  vsttes : List VsidEntry
  l1vstts : List VsidEntry
  tlb : List TlbEntry
  dpt : List DptEntry
  gpt : List GptEntry
  deriving DecidableEq, Repr

/-- Memory: bytes that differ from what an unlisted address reads as, by rising key (20_memory.md R600). -/
abbrev Memory := List Host.Cell

/-- Why the machine stops. -/
inductive Fault where
  /-- Raised by no step: every error the spec describes is a next state (a command error, an event, an abort). Safe. -/
  | none
  deriving DecidableEq, Repr

/-- Why the machine has no meaning for a command. -/
inductive Refusal where
  /-- Raised by an arm of exec whose command has no meaning yet; there is none in this model. Safe. -/
  | notModelled (mnemonic : String)
  deriving DecidableEq, Repr

/-- The machine. -/
structure State where
  ids : Ids
  impl : Impl
  ns : Iface
  sec : Iface
  rlm : Iface
  root : RootRegs
  statusr : BitVec 32
  sInit : BitVec 32
  gatos : AtosRegs
  sGatos : AtosRegs
  vatos : AtosRegs
  sVatos : AtosRegs
  vatosSel : BitVec 32
  sVatosSel : BitVec 32
  pmcgs : List Pmcg
  mem : Memory
  /-- regions (first key, number of bytes) whose accesses the interconnect ends with an external abort -/
  aborts : List (Nat × Nat)
  caches : Caches
  stalls : List Stall
  atcInvs : List AtcInv
  /-- the next ITag of an Invalidation Request -/
  itag : Nat
  /-- Service Failure Mode (62_ras_mpam_mec.md R2654) -/
  sfm : Bool
  /-- the queue whose command is being executed -/
  cur : QueueId
  /-- what internal work is looked for first -/
  turn : Nat
  /-- how many free values have been used (log entry 7) -/
  free : Nat
  /-- the performance events of the current step, counted at its end (17_regs_pmcg.md R504), and what the counting itself leaves for
  the next step (R509) -/
  pmuLog : List PmuOcc
  /-- the PARTID, PMG and PARTID space that the last transaction or request got, whatever became of it (17_regs_pmcg.md R516) -/
  reqMpam : Option Mpam
  inputs : List Input
  outputs : List Output
  deriving DecidableEq, Repr

/-! ## Reset (70_reset_and_hazards.md R2500 on) -/

/-- An MSI configuration register set after reset: UNKNOWN in the spec, zero here (log entry 1). -/
def IrqCfg.reset : IrqCfg := ⟨0, 0, 0⟩

/-- Queue registers after reset: UNKNOWN in the spec, zero here (log entry 1). -/
def QueueRegs.reset : QueueRegs := ⟨0, 0, 0⟩

/-- An ECMDQ after reset (15_regs_ecmdq_dcmdq.md R403 to R410). -/
def Ecmdq.reset : Ecmdq := ⟨0, 0, 0, false, false, false⟩

/-- The preset contents that SMMU_IDR1.TABLES_PRESET and QUEUES_PRESET put in effect (11_regs_id.md R101; 12_regs_control.md
R165, R167). -/
def Preset.inEffect (p : Preset) (tables queues : Bool) : Preset where
  strtabBase := if tables then p.strtabBase else 0
  strtabCfg := if tables then p.strtabCfg else 0
  cmdqBase := if queues then p.cmdqBase else 0
  eventqBase := if queues then p.eventqBase else 0
  priqBase := if queues then p.priqBase else 0
  cr1 := (if tables then p.cr1 &&& 0xFC0 else 0) ||| (if queues then p.cr1 &&& 0x3F else 0)

/-- An interface after reset with `n` ECMDQs and `k` DCMDQP_ERR registers; `abort` is GBPA.ABORT and `atschk` the RES1
field SMMU_R_CR0.ATSCHK (16_regs_root_realm.md R473, R477); `btm` says that CR2.PTM is there, whose reset value is the one that
the spec recommends (12_regs_control.md R170; log entry 1); `p` is what is preset. -/
def Iface.reset (n k : Nat) (abort atschk btm : Bool) (p : Preset) : Iface where
  cr0 := if atschk then 0x10 else 0
  cr0ack := if atschk then 0x10 else 0
  cr1 := p.cr1
  cr2 := if btm then 4 else 0
  s2pii := 0
  gbpa := if abort then 0x00100000 else 0
  gbpaEff := if abort then 0x00100000 else 0
  agbpa := 0
  irqCtrl := 0
  irqCtrlAck := 0
  gerror := 0
  gerrorn := 0
  gerrorIrq := .reset
  strtabBase := p.strtabBase
  strtabCfg := p.strtabCfg
  cmdq := { QueueRegs.reset with base := p.cmdqBase }
  eventq := { QueueRegs.reset with base := p.eventqBase }
  eventqIrq := .reset
  priq := { QueueRegs.reset with base := p.priqBase }
  priqIrq := .reset
  gmpam := 0
  gmpamEff := 0
  gbpmpam := 0
  gbpmpamEff := 0
  dptBase := 0
  dptCfg := 0
  dptFar := 0
  hdbssBase0 := 0
  hdbssProd0 := 0
  hdbssBase1 := 0
  hdbssProd1 := 0
  hdbssIrq := .reset
  hdbssMpam := 0
  hdbssMecid := 0
  hacdbsBase := 0
  hacdbsCons := 0
  hacdbsIrq := .reset
  hacdbsMpam := 0
  hacdbsMecid := 0
  gmecid := 0
  citabBase := 0
  citabCfg := 0
  ecmdqs := List.replicate n .reset
  dcmdqpErr := List.replicate k 0
  dcmdqpErrn := List.replicate k 0
  unknownReads := []
  e2hUnknown := false

/-- The Root Control Page after reset; L0GPTSZ is the constant `l0` (16_regs_root_realm.md R453 to R460). -/
def RootRegs.reset (l0 : BitVec 4) : RootRegs where
  cr0 := 0
  cr0ack := 0
  gptBase := 0
  gptCfg := l0.setWidth 64 <<< 20
  gpfFar := 0
  gptCfgFar := 0
  tlbi := 0
  tlbiCtrl := 0
  gptBase2 := 0
  gptUpdate := 0
  gpcbw := 0

/-- ATOS registers after reset (45_atos.md R2100). -/
def AtosRegs.reset : AtosRegs := ⟨0, 0, 0, 0⟩

/-- A counter after reset: UNKNOWN in the spec, zero here (log entry 1). -/
def PmCounter.reset : PmCounter := ⟨0, 0, 0, 0⟩

/-- A performance monitor group after reset, its constants as given (17_regs_pmcg.md R535 to R551); `idRegs` are the words from
offset 0xFB0 on; SCR.NSMSI is there with MSIs (R541). -/
def Pmcg.reset (cfgr iidr aidr mpamidr sMpamidr : BitVec 32) (ceid0 ceid1 : BitVec 64) (secure rootImpl : Bool)
    (idRegs : List (BitVec 32)) : Pmcg where
  counters := List.replicate ((cfgr.extractLsb' 0 6).toNat + 1) .reset
  cnten := 0
  inten := 0
  ovs := 0
  cr := 0
  scr := if secure then (if cfgr.getLsbD 21 then 0x80000006 else 0x80000002) else 0
  rootcr := if rootImpl then 0x80000008 else 0
  irqCtrl := 0
  irqCtrlAck := 0
  irq := .reset
  irqStatus := 0
  gmpam := 0
  gmpamEff := 0
  cfgr := cfgr
  ceid0 := ceid0
  ceid1 := ceid1
  iidr := iidr
  aidr := aidr
  mpamidr := mpamidr
  sMpamidr := sMpamidr
  idRegs := idRegs

/-- Caches with nothing in them. -/
def Caches.empty : Caches := ⟨[], [], [], [], [], [], [], [], [], [], [], [], []⟩

/-- The identification register values that the reset state holds: an SMMUv3.5 with Secure, Realm and Root programming
interfaces, both stages, VMSAv8-64, ATS, PRI, ATOS, ECMDQ, DCMDQ, DPT, HDBSS, HACDBS, RME and GDI; StreamIDs of 16 bits, OAS
52 bits, four ECMDQs for each interface (DESIGN CHOICE, log entry 2). -/
def Ids.reset : Ids where
  idr0 := 0x489FF7FB#32
  idr1 := 0x8E739D10#32
  idr2 := 0
  idr3 := 0x1FFFF7BC#32
  idr4 := 0
  idr5 := 0x001004F6#32
  iidr := 0x0000043B#32
  aidr := 0x00000005#32
  idr6 := 0x00021105#32
  idr7 := 0x0000F000#32
  idr8 := 0x0002000C#32
  mpamidr := 0x0001003F#32
  mecidr := 0x8000000F#32
  idRegs := [0x04, 0, 0, 0, 0, 0xB0, 0x0B, 0, 0x0D, 0xF0, 0x05, 0xB1]
  sIdr0 := 0x80002000#32
  sIdr1 := 0xA0000010#32
  sIdr2 := 0x00000001#32
  sIdr3 := 0x0C000000#32
  sIdr4 := 0
  sIdr6 := 0x00021001#32
  sIdr7 := 0x0000F000#32
  sIdr8 := 0x00034011#32
  sMpamidr := 0x0201003F#32
  rIdr0 := 0x81012400#32
  rIdr1 := 0x80000000#32
  rIdr2 := 0
  rIdr3 := 0x0C038000#32
  rIdr4 := 0
  rAidr := 0
  rIdr6 := 0x00021105#32
  rIdr7 := 0x0000F000#32
  rIdr8 := 0x00048016#32
  rMpamidr := 0x0201003F#32
  rMecidr := 0x0000000F#32
  rootIdr0 := 0x010000FF#32
  rootIidr := 0x0000043B#32
  cpPage := 0x30
  sCpPage := 0x31
  rCpPage := 0x32

/-- No fixed contents. -/
def Preset.zero : Preset := ⟨0, 0, 0, 0, 0, 0⟩

/-- The implementation parameters that the reset state holds: the settings 93_implementation_defined.md suggests
(DESIGN CHOICE, log entry 2). -/
def Impl.reset : Impl where
  cmdRes0Checked := false
  structRes0Checked := false
  caching := .never
  pmcgOvssetSideEffects := true
  atomicPermRnwV30 := true
  translatedPermcfgApplies := true
  translatedTruncates := false
  pcieTypeOverridesApply := true
  atsGrantWOnNw := false
  splitStageProtocolCheck := true
  priqOverflowSteCheck := false
  dcmdqSte := .s2sIgnored
  unsupportedKinds := []
  mpamPasidWithoutPasidtt := false
  dcpPermPerStage := false
  pmcgCountWhenDisabled := true
  pmcgCyclesInBypass := true
  pmcgVsidIsConfig := false
  pmcgOneNamespaceV30 := false
  pmcgEventBits := 16
  pmcg64Atomic := true
  pmcgSidBits := 16
  wiredInterrupts := true
  agbpaImpl := false
  systemAts := true
  systemPri := true
  noStallSids := []
  maxStalls := 16
  reg64Atomic := true
  eventqAbortSync := true
  priqAbortSync := true
  httuNoncacheable := .atomic
  unsupportedMemtypes := []
  l0gptsz := 0
  atsAttrs := .normal
  coherentSids := []
  dreTranslated := false
  pmcgAbortDetected := true
  noSidMpam := ⟨true, .device, .device, .device⟩
  eatsS2sIllegalV30 := false
  alloccfgWithoutMtcfg := true
  alloccfgTranslated := false
  terminatedCmos := []
  pcieOsh := false
  recmdqWriteBack := true
  instNeedsRead := false
  dptps56 := true
  panLate := false
  dcmdqInactiveReads := false
  strtabAlignEffective := false
  ttUutRecorded := false
  pmcgRetryCounts := false
  page0 := 0
  presetNs := .zero
  presetS := .zero
  presetRl := .zero

/-- The state with every register at its reset value, identification registers, parameters, memory and the world's inputs as
given (70_reset_and_hazards.md R2500; 92_eei_decisions.md D7). -/
def State.resetWith (ids : Ids) (impl : Impl) (pmcgs : List Pmcg) (nq sq rq : Nat) (mem : Memory)
    (aborts : List (Nat × Nat)) (inputs : List Input) : State where
  ids := ids
  impl := impl
  ns := .reset nq ((nq + 63) / 64) false false (ids.idr0.getLsbD 5)
    (impl.presetNs.inEffect (ids.idr1.getLsbD 30) (ids.idr1.getLsbD 29))
  sec := .reset sq ((sq + 63) / 64) false false (ids.idr0.getLsbD 5)
    (impl.presetS.inEffect (ids.idr1.getLsbD 30) (ids.idr1.getLsbD 29))
  rlm := .reset rq ((rq + 63) / 64) true (ids.rIdr0.getLsbD 10) (ids.idr0.getLsbD 5)
    (impl.presetRl.inEffect (ids.idr1.getLsbD 30) (ids.idr1.getLsbD 29))
  root := .reset impl.l0gptsz
  statusr := 0
  sInit := 0
  gatos := .reset
  sGatos := .reset
  vatos := .reset
  sVatos := .reset
  vatosSel := 0
  sVatosSel := 0
  pmcgs := pmcgs
  mem := mem
  aborts := aborts
  caches := .empty
  stalls := []
  atcInvs := []
  itag := 0
  sfm := false
  cur := .main .ns
  turn := 0
  free := 0
  pmuLog := []
  reqMpam := none
  inputs := inputs
  outputs := []

/-- The performance monitor group of the reset state (parameter pmcg_count 1; log entry 2). -/
def Pmcg.resetGroup : Pmcg :=
  .reset 0x03F03F07#32 0x0000043B#32 0x00000005#32 0x0001003F#32 0x0201003F#32 0xFF#64 0#64 true true
    [0, 0, 0, 0x47702A56, 0, 0, 0, 0x56, 0x04, 0, 0, 0, 0, 0xB0, 0x0B, 0, 0x0D, 0x90, 0x05, 0xB1]

/-- The machine right after reset: every register at the value the spec gives, or at the value log entries 1 and 2 name. -/
def State.reset : State :=
  State.resetWith .reset .reset [.resetGroup] 4 4 4 [] [] []

end Sys2Proof.Machine
end

