-- ==== Sys2Proof/Machine/Bits.lean ====
section
/-! DEFINITION. Bit fields of registers and structures (00_scope.md R31) and little-endian integers (20_memory.md R601). -/

namespace Sys2Proof.Machine

/-- The field of `n` bits at bit `lo`, as a number (00_scope.md R31). -/
def fieldNat {w : Nat} (x : BitVec w) (lo n : Nat) : Nat := (x.extractLsb' lo n).toNat

/-- A mask of `n` ones at bit `lo`. -/
def maskAt (w lo n : Nat) : BitVec w := BitVec.ofNat w ((2 ^ n - 1) * 2 ^ lo)

/-- `x` with the field of `n` bits at bit `lo` replaced. -/
def putField {w : Nat} (x : BitVec w) (lo n v : Nat) : BitVec w :=
  (x &&& ~~~(maskAt w lo n)) ||| BitVec.ofNat w ((v % 2 ^ n) * 2 ^ lo)

/-- `x` with bit `i` set to `b`. -/
def putBit {w : Nat} (x : BitVec w) (i : Nat) (b : Bool) : BitVec w := putField x i 1 b.toNat

/-- `x` with bit `i` toggled. -/
def toggleBit {w : Nat} (x : BitVec w) (i : Nat) : BitVec w := x ^^^ maskAt w i 1

/-- The bits of `new` where `mask` is one, of `old` elsewhere. -/
def mergeBits {w : Nat} (old new mask : BitVec w) : BitVec w := (old &&& ~~~mask) ||| (new &&& mask)

/-- The low `n` bits taken as zero: "aligned to its size" (00_scope.md R31). -/
def alignDown (x : DWord) (n : Nat) : DWord := BitVec.ofNat 64 (x.toNat / 2 ^ n * 2 ^ n)

/-- The little-endian number that bytes hold (20_memory.md R601). -/
def bytesNat : List Byte → Nat
  | [] => 0
  | b :: bs => b.toNat + 256 * bytesNat bs

/-- `n` bytes of a number, least significant first (20_memory.md R601). -/
def natBytes : Nat → Nat → List Byte
  | 0, _ => []
  | n + 1, v => BitVec.ofNat 8 v :: natBytes n (v / 256)

/-- Sign extension of the low `n` bits of an address to 64 bits (00_scope.md R32). -/
def sextFrom (x : DWord) (n : Nat) : DWord :=
  if n = 0 then 0
  else if x.getLsbD (n - 1) then x ||| ~~~(maskAt 64 0 n) else x &&& maskAt 64 0 n

end Sys2Proof.Machine
end

