-- ==== Sys2Proof/Machine/IdRegs.lean ====
section
/-! DEFINITION. Fields of the identification registers (11_regs_id.md, 14_regs_secure.md, 16_regs_root_realm.md) and the
parts of the state by programming interface. -/

namespace Sys2Proof.Machine

/-- RME features supported (11_regs_id.md R100). -/
def Ids.rmeImpl (d : Ids) : Bool := d.idr0.getLsbD 30

/-- 2-level Stream tables supported (R100). -/
def Ids.stLevel2 (d : Ids) : Bool := d.idr0.getLsbD 27

/-- RAZ/WI termination unsupported (R100). -/
def Ids.termModel (d : Ids) : Bool := d.idr0.getLsbD 26

/-- ATSRECERR (R100). -/
def Ids.atsRecErr (d : Ids) : Bool := d.idr0.getLsbD 23

/-- TTENDIAN (R100). -/
def Ids.ttEndian (d : Ids) : Nat := fieldNat d.idr0 21 2

/-- VATOS page supported (R100). -/
def Ids.vatos (d : Ids) : Bool := d.idr0.getLsbD 20

/-- 2-level CD tables supported (R100). -/
def Ids.cd2l (d : Ids) : Bool := d.idr0.getLsbD 19

/-- 16-bit VMIDs (R100). -/
def Ids.vmid16 (d : Ids) : Bool := d.idr0.getLsbD 18

/-- VMID wildcards supported (R100). -/
def Ids.vmwImpl (d : Ids) : Bool := d.idr0.getLsbD 17

/-- Page Request Interface (R100). -/
def Ids.pri (d : Ids) : Bool := d.idr0.getLsbD 16

/-- ATOS supported (R100). -/
def Ids.atos (d : Ids) : Bool := d.idr0.getLsbD 15

/-- WFE wake-up events (R100). -/
def Ids.sev (d : Ids) : Bool := d.idr0.getLsbD 14

/-- MSIs of the Non-secure interface (R100). -/
def Ids.msiNs (d : Ids) : Bool := d.idr0.getLsbD 13

/-- 16-bit ASIDs (R100). -/
def Ids.asid16 (d : Ids) : Bool := d.idr0.getLsbD 12

/-- split-stage ATS not supported (R100). -/
def Ids.ns1ats (d : Ids) : Bool := d.idr0.getLsbD 11

/-- PCIe ATS supported (R100). -/
def Ids.ats (d : Ids) : Bool := d.idr0.getLsbD 10

/-- hypervisor stage 1 contexts (R100). -/
def Ids.hyp (d : Ids) : Bool := d.idr0.getLsbD 9

/-- dormant hint (R100). -/
def Ids.dormHint (d : Ids) : Bool := d.idr0.getLsbD 8

/-- HTTU level (R100). -/
def Ids.httu (d : Ids) : Nat := fieldNat d.idr0 6 2

/-- broadcast TLB maintenance (R100). -/
def Ids.btm (d : Ids) : Bool := d.idr0.getLsbD 5

/-- VMSAv8-32 LPAE tables (R100). -/
def Ids.ttf32 (d : Ids) : Bool := d.idr0.getLsbD 2

/-- VMSAv8-64 tables (R100). -/
def Ids.ttf64 (d : Ids) : Bool := d.idr0.getLsbD 3

/-- stage 1 supported (R100). -/
def Ids.s1p (d : Ids) : Bool := d.idr0.getLsbD 1

/-- stage 2 supported (R100). -/
def Ids.s2p (d : Ids) : Bool := d.idr0.getLsbD 0

/-- ECMDQs of the Non-secure interface (R101). -/
def Ids.ecmdqNs (d : Ids) : Bool := d.idr1.getLsbD 31

/-- TABLES_PRESET (R101). -/
def Ids.tablesPreset (d : Ids) : Bool := d.idr1.getLsbD 30

/-- QUEUES_PRESET (R101). -/
def Ids.queuesPreset (d : Ids) : Bool := d.idr1.getLsbD 29
/-- REL: preset bases count from Page 0; RES0 without a preset (R101). -/
def Ids.rel (d : Ids) : Bool := d.idr1.getLsbD 28 && (d.tablesPreset || d.queuesPreset)

/-- ATTR_TYPES_OVR (R101). -/
def Ids.attrTypesOvr (d : Ids) : Bool := d.idr1.getLsbD 27

/-- ATTR_PERMS_OVR (R101). -/
def Ids.attrPermsOvr (d : Ids) : Bool := d.idr1.getLsbD 26

/-- maximum log2 of Command queue entries (R101). -/
def Ids.cmdqs (d : Ids) : Nat := fieldNat d.idr1 21 5

/-- maximum log2 of Event queue entries (R101). -/
def Ids.eventqs (d : Ids) : Nat := fieldNat d.idr1 16 5

/-- maximum log2 of PRI queue entries (R101). -/
def Ids.priqs (d : Ids) : Nat := fieldNat d.idr1 11 5

/-- SubstreamID bits (R101). -/
def Ids.ssidSize (d : Ids) : Nat := fieldNat d.idr1 6 5

/-- StreamID bits (R101). -/
def Ids.sidSizeNs (d : Ids) : Nat := fieldNat d.idr1 0 6

/-- CMD_TLBI_(S_)S2_VMALLW supported (R103). -/
def Ids.tlbiw (d : Ids) : Bool := d.idr3.getLsbD 28

/-- HACDBS of the Non-secure interface (R103). -/
def Ids.hacdbsNs (d : Ids) : Bool := d.idr3.getLsbD 27

/-- HDBSS of the Non-secure interface (R103). -/
def Ids.hdbssNs (d : Ids) : Bool := d.idr3.getLsbD 26

/-- CD.FNGx (R103). -/
def Ids.fng (d : Ids) : Bool := d.idr3.getLsbD 25

/-- MTCOMB (R103). -/
def Ids.mtcomb (d : Ids) : Bool := d.idr3.getLsbD 24

/-- Attribute Index Extension (R103). -/
def Ids.aie (d : Ids) : Bool := d.idr3.getLsbD 23

/-- NoTagAccess encodings (R103). -/
def Ids.mtePerm (d : Ids) : Bool := d.idr3.getLsbD 22

/-- translation hardening (R103). -/
def Ids.the (d : Ids) : Bool := d.idr3.getLsbD 21

/-- stage 2 permission overlays (R103). -/
def Ids.s2po (d : Ids) : Bool := d.idr3.getLsbD 20

/-- stage 2 permission indirections (R103). -/
def Ids.s2pi (d : Ids) : Bool := d.idr3.getLsbD 19

/-- stage 1 permission indirections (R103). -/
def Ids.s1pi (d : Ids) : Bool := d.idr3.getLsbD 18

/-- Enhanced PAN (R103). -/
def Ids.epan (d : Ids) : Bool := d.idr3.getLsbD 17

/-- PASID on ATS Translated transactions (R103). -/
def Ids.pasidTt (d : Ids) : Bool := d.idr3.getLsbD 16

/-- DPT of the Non-secure interface (R103). -/
def Ids.dptNs (d : Ids) : Bool := d.idr3.getLsbD 15

/-- PTWNNC (R103). -/
def Ids.ptwnnc (d : Ids) : Bool := d.idr3.getLsbD 14

/-- E0PD (R103). -/
def Ids.e0pd (d : Ids) : Bool := d.idr3.getLsbD 13

/-- The Break-Before-Make level (R103). -/
def Ids.bbml (d : Ids) : Nat := fieldNat d.idr3 11 2

/-- range invalidation and level hint (R103). -/
def Ids.ril (d : Ids) : Bool := d.idr3.getLsbD 10

/-- small translation tables (R103). -/
def Ids.stt (d : Ids) : Bool := d.idr3.getLsbD 9

/-- STE.S2FWB (R103). -/
def Ids.fwb (d : Ids) : Bool := d.idr3.getLsbD 8

/-- MPAM (R103). -/
def Ids.mpam (d : Ids) : Bool := d.idr3.getLsbD 7

/-- PPS (R103). -/
def Ids.pps (d : Ids) : Bool := d.idr3.getLsbD 5

/-- 2-bit XN at stage 2 (R103). -/
def Ids.xnx (d : Ids) : Bool := d.idr3.getLsbD 4

/-- CD.HAD0 and HAD1 effective (R103). -/
def Ids.had (d : Ids) : Bool := d.idr3.getLsbD 2

/-- PBHA (R103). -/
def Ids.pbha (d : Ids) : Bool := d.idr3.getLsbD 3

/-- STALL_MAX (R105). -/
def Ids.stallMax (d : Ids) : Nat := fieldNat d.idr5 16 16

/-- VAX (R105). -/
def Ids.vax (d : Ids) : Nat := fieldNat d.idr5 10 2

/-- VMSAv9-128 descriptors (R105). -/
def Ids.d128 (d : Ids) : Bool := d.idr5.getLsbD 8

/-- 52-bit addresses with 4KB and 16KB granules (R105). -/
def Ids.ds (d : Ids) : Bool := d.idr5.getLsbD 7

/-- 64KB granule (R105). -/
def Ids.gran64 (d : Ids) : Bool := d.idr5.getLsbD 6

/-- 16KB granule (R105). -/
def Ids.gran16 (d : Ids) : Bool := d.idr5.getLsbD 5

/-- 4KB granule (R105). -/
def Ids.gran4 (d : Ids) : Bool := d.idr5.getLsbD 4

/-- ArchMinorRev (R107). -/
def Ids.archMinor (d : Ids) : Nat := fieldNat d.aidr 0 4

/-- SECURE_IMPL (14_regs_secure.md R352). -/
def Ids.secureImpl (d : Ids) : Bool := d.sIdr1.getLsbD 31

/-- Secure EL2 and Secure stage 2 (14_regs_secure.md R352). -/
def Ids.sel2 (d : Ids) : Bool := d.sIdr1.getLsbD 29

/-- Secure StreamID bits (14_regs_secure.md R352). -/
def Ids.sSidSize (d : Ids) : Nat := fieldNat d.sIdr1 0 6

/-- SAMS: ATS maintenance not supported on Secure queues (14_regs_secure.md R354). -/
def Ids.sams (d : Ids) : Bool := d.sIdr3.getLsbD 6

/-- PMECIDSIZE (R111). -/
def Ids.pmecidSize (d : Ids) : Nat := fieldNat d.mecidr 0 4

/-- MECIDSIZE (16_regs_root_realm.md R487). -/
def Ids.mecidSize (d : Ids) : Nat := fieldNat d.rMecidr 0 4

/-- XT encoding (16_regs_root_realm.md R469). -/
def Ids.xt (d : Ids) : Bool := d.rIdr3.getLsbD 17

/-- Memory Encryption Contexts (16_regs_root_realm.md R469). -/
def Ids.mec (d : Ids) : Bool := d.rIdr3.getLsbD 16

/-- Root Control Page (16_regs_root_realm.md R451). -/
def Ids.rootImpl (d : Ids) : Bool := d.rootIdr0.getLsbD 0

/-- broadcast TLBI PA (R451). -/
def Ids.bgptm (d : Ids) : Bool := d.rootIdr0.getLsbD 1

/-- SMMU_ROOT_TLBI registers (R451). -/
def Ids.rgptm (d : Ids) : Bool := d.rootIdr0.getLsbD 2

/-- Realm programming interface (R451). -/
def Ids.realmImpl (d : Ids) : Bool := d.rootIdr0.getLsbD 3

/-- APPSAA (R451). -/
def Ids.appsaaImpl (d : Ids) : Bool := d.rootIdr0.getLsbD 4

/-- NSO GPI encoding (R451). -/
def Ids.nsoImpl (d : Ids) : Bool := d.rootIdr0.getLsbD 5

/-- GPT scaling (R451). -/
def Ids.gpts (d : Ids) : Bool := d.rootIdr0.getLsbD 6

/-- Granular Data Isolation (R451). -/
def Ids.gdi (d : Ids) : Bool := d.rootIdr0.getLsbD 7

/-! ## By programming interface -/

/-- MSIs supported (11_regs_id.md R100, 14_regs_secure.md R351, 16_regs_root_realm.md R466). -/
def Ids.msi (d : Ids) : Sec → Bool
  | .ns => d.idr0.getLsbD 13
  | .s => d.sIdr0.getLsbD 13
  | .rl => d.rIdr0.getLsbD 13

/-- STALL_MODEL; for the Non-secure interface of an SMMU with Secure state it is the Secure field, and 0b01 while NSSTALLD
is one (11_regs_id.md R100, 14_regs_secure.md R356, 64_fault_model.md R2309). -/
def Ids.stallModel (d : Ids) (nsstalld : Bool) : Sec → Nat
  | .ns =>
    if d.secureImpl then
      if fieldNat d.sIdr0 24 2 = 0 ∧ nsstalld then 1 else fieldNat d.sIdr0 24 2
    else fieldNat d.idr0 24 2
  | .s => fieldNat d.sIdr0 24 2
  | .rl => fieldNat d.rIdr0 24 2

/-- The interface is implemented (10_state.md R50). -/
def Ids.present (d : Ids) : Sec → Bool
  | .ns => true
  | .s => d.secureImpl
  | .rl => d.realmImpl

/-- ECMDQs supported (R101, R351, R466). -/
def Ids.ecmdq (d : Ids) : Sec → Bool
  | .ns => d.idr1.getLsbD 31
  | .s => d.sIdr0.getLsbD 31
  | .rl => d.rIdr0.getLsbD 31

/-- SMMU_(*_)IDR2. -/
def Ids.idr2Of (d : Ids) : Sec → BitVec 32
  | .ns => d.idr2
  | .s => d.sIdr2
  | .rl => d.rIdr2

/-- SMMU_(*_)IDR3. -/
def Ids.idr3Of (d : Ids) : Sec → BitVec 32
  | .ns => d.idr3
  | .s => d.sIdr3
  | .rl => d.rIdr3

/-- SMMU_(*_)IDR6. -/
def Ids.idr6Of (d : Ids) : Sec → BitVec 32
  | .ns => d.idr6
  | .s => d.sIdr6
  | .rl => d.rIdr6

/-- SMMU_(*_)IDR7, QSID_BASE. -/
def Ids.idr7Of (d : Ids) : Sec → BitVec 32
  | .ns => d.idr7
  | .s => d.sIdr7
  | .rl => d.rIdr7

/-- SMMU_(*_)IDR8. -/
def Ids.idr8Of (d : Ids) : Sec → BitVec 32
  | .ns => d.idr8
  | .s => d.sIdr8
  | .rl => d.rIdr8

/-- Restricted ECMDQs supported (R102, R353, R468). -/
def Ids.recmdq (d : Ids) (i : Sec) : Bool := (d.idr2Of i).getLsbD 24

/-- HACDBS supported (R103, R354, R469). -/
def Ids.hacdbs (d : Ids) (i : Sec) : Bool := (d.idr3Of i).getLsbD 27

/-- HDBSS supported (R103, R354, R469). -/
def Ids.hdbss (d : Ids) (i : Sec) : Bool := (d.idr3Of i).getLsbD 26

/-- The Device Permission Table is supported; there is none for Secure state (R103, R469; 25_dpt_gpc.md). -/
def Ids.dpt (d : Ids) : Sec → Bool
  | .ns => d.idr3.getLsbD 15
  | .s => false
  | .rl => d.rIdr3.getLsbD 15

/-- ATS for streams of the interface: SMMU_IDR0.ATS or SMMU_R_IDR0.ATS (26_ats_pri.md). -/
def Ids.atsOf (d : Ids) : Sec → Bool
  | .rl => d.rIdr0.getLsbD 10
  | _ => d.ats

/-- PRI of the interface; there is no Secure PRI queue (27_queues.md R700). -/
def Ids.priOf (d : Ids) : Sec → Bool
  | .ns => d.pri
  | .s => false
  | .rl => d.rIdr0.getLsbD 16

/-- Direct-mode ECMDQs supported (R108, R372, R471). -/
def Ids.dcmdq (d : Ids) (i : Sec) : Bool := fieldNat (d.idr6Of i) 0 2 == 1

/-- vSID translation supported; not for the Secure interface (R108, R372, R471). -/
def Ids.vsid (d : Ids) : Sec → Bool
  | .s => false
  | i => d.dcmdq i && d.atsOf i && fieldNat (d.idr6Of i) 2 2 == 1

/-- log2 of the number of DCMDQ control pages. -/
def Ids.dcmdqLog2NumP (d : Ids) (i : Sec) : Nat := fieldNat (d.idr6Of i) 11 5

/-- log2 of the number of DCMDQ interfaces of a DCMDQ control page. -/
def Ids.dcmdqLog2NumQ (d : Ids) (i : Sec) : Nat := fieldNat (d.idr6Of i) 20 4

/-- log2 of the number of ECMDQs of a Command queue control page. -/
def Ids.cmdqLog2NumQ (d : Ids) (i : Sec) : Nat := fieldNat (d.idr6Of i) 16 4

/-- log2 of the number of Command queue control pages. -/
def Ids.cmdqLog2NumP (d : Ids) (i : Sec) : Nat := fieldNat (d.idr6Of i) 24 4

/-- VSIDSIZE (R108, R471). -/
def Ids.vsidSize (d : Ids) (i : Sec) : Nat := fieldNat (d.idr6Of i) 4 5

/-- StreamID bits of the interface (R101, R352; the Realm interface uses SMMU_IDR1.SIDSIZE, 16_regs_root_realm.md R465). -/
def Ids.sidSize (d : Ids) : Sec → Nat
  | .s => d.sSidSize
  | _ => d.sidSizeNs

/-- Stage 2 translation for streams of the state (14_regs_secure.md R352, 65_security_states.md). -/
def Ids.stage2Of (d : Ids) : Sec → Bool
  | .s => d.s2p && d.sel2
  | _ => d.s2p

/-- OAS in bits (11_regs_id.md R105). -/
def Ids.oas (d : Ids) : Nat :=
  match fieldNat d.idr5 0 3 with
  | 0 => 32
  | 1 => 36
  | 2 => 40
  | 3 => 42
  | 4 => 44
  | 5 => 48
  | 6 => 52
  | _ => 56

/-- The implemented version is SMMUv3.n or later (11_regs_id.md R107). -/
def Ids.atLeast (d : Ids) (n : Nat) : Bool := decide (n ≤ d.archMinor)

/-- IAS in bits (20_memory.md R610). -/
def Ids.ias (d : Ids) : Nat := max (if d.ttf32 then 40 else 0) (if d.ttf64 then d.oas else 0)

/-- VAS in bits (20_memory.md R618). -/
def Ids.vas (d : Ids) : Nat :=
  match d.vax with
  | 0 => 49
  | 1 => 53
  | _ => 56

/-- The MPAM registers of the interface are present (12_regs_control.md R195, 14_regs_secure.md R370, 16_regs_root_realm.md
R485). -/
def Ids.mpamRegs (d : Ids) (i : Sec) : Bool := d.mpam && d.present i

/-- SMMU_(*_)MPAMIDR. -/
def Ids.mpamidrOf (d : Ids) : Sec → BitVec 32
  | .ns => d.mpamidr
  | .s => d.sMpamidr
  | .rl => d.rMpamidr

/-- MPAM is supported for the interface: its PARTID_MAX or its PMG_MAX is not zero (62_ras_mpam_mec.md R2661). -/
def Ids.mpamOf (d : Ids) (i : Sec) : Bool := d.mpamRegs i && fieldNat (d.mpamidrOf i) 0 24 != 0

/-- HAS_MPAM_NS (R370, R485). -/
def Ids.hasMpamNs (d : Ids) : Sec → Bool
  | .ns => false
  | i => (d.mpamidrOf i).getLsbD 25

/-! ## Parts of the state by interface -/

/-- The registers of a programming interface. -/
def State.iface (s : State) : Sec → Iface
  | .ns => s.ns
  | .s => s.sec
  | .rl => s.rlm

/-- `s` with the registers of an interface changed. -/
def State.setIface (s : State) (i : Sec) (f : Iface → Iface) : State :=
  match i with
  | .ns => { s with ns := f s.ns }
  | .s => { s with sec := f s.sec }
  | .rl => { s with rlm := f s.rlm }

/-- SMMU_S_CR0.NSSTALLD in effect (14_regs_secure.md R358). -/
def State.nsstalld (s : State) : Bool := s.sec.cr0ack.getLsbD 9

/-- STALL_MODEL in effect for an interface. -/
def State.stallModel (s : State) (i : Sec) : Nat := s.ids.stallModel s.nsstalld i

/-- The PA space of the accesses that an interface originates (65_security_states.md R2400). -/
def Sec.pas : Sec → Pas
  | .ns => .ns
  | .s => .s
  | .rl => .rl

/-- SMMUEN in effect (12_regs_control.md R161). -/
def State.smmuEn (s : State) (i : Sec) : Bool := (s.iface i).cr0ack.getLsbD 0

/-- CMDQEN in effect (12_regs_control.md R158). -/
def State.cmdqEn (s : State) (i : Sec) : Bool := (s.iface i).cr0ack.getLsbD 3

/-- EVENTQEN in effect (12_regs_control.md R159). -/
def State.eventqEn (s : State) (i : Sec) : Bool := (s.iface i).cr0ack.getLsbD 2

/-- Effective PRIQEN (12_regs_control.md R160). -/
def State.priqEn (s : State) (i : Sec) : Bool := (s.iface i).cr0ack.getLsbD 1 && s.smmuEn i

/-- A free value (00_scope.md R26; log entry 7), and the state after its use. -/
def State.takeFree (s : State) : DWord × State := (Config.freeValue s.free, { s with free := s.free + 1 })

/-- PARTID and PMG limited by a MPAMIDR: a larger value is UNKNOWN (12_regs_control.md R196; 21_streams_ste.md R911;
62_ras_mpam_mec.md R2662). -/
def State.limitMpam (s : State) (lim : BitVec 32) (partid : BitVec 16) (pmg : BitVec 8) : (BitVec 16 × BitVec 8) × State :=
  match s.takeFree with
  | (u, s) =>
    ((if partid.toNat ≤ fieldNat lim 0 16 then partid else u.extractLsb' 0 16,
      if pmg.toNat ≤ fieldNat lim 16 8 then pmg else u.extractLsb' 16 8), s)

/-- Whether what was just fetched is cached: insertion is optional at any time (31_tlb_tagging.md; log entry 10). -/
def State.cacheNow (s : State) : Bool × State :=
  match s.impl.caching with
  | .never => (false, s)
  | .always => (true, s)
  | .free => ((Config.freeValue s.free).getLsbD 0, { s with free := s.free + 1 })

/-- `s` sending one more output. -/
def State.send (s : State) (o : Output) : State := { s with outputs := s.outputs ++ [o] }

end Sys2Proof.Machine
end

