-- ==== Sys2Proof/Machine/Mem.lean ====
section
/-! DEFINITION. Memory: bytes by physical address and PA space (20_memory.md R600; 92_eei_decisions.md D3). A location's key
is its address in 56 bits with the PA space above it. A byte that nothing has written reads as zero (log entry 3). -/

namespace Sys2Proof.Machine

/-- The place of a PA space in a memory key. -/
def Pas.code : Pas → Nat
  | .ns => 0
  | .s => 1
  | .rl => 2
  | .root => 3
  | .nsp => 4
  | .sa => 5

/-- The key of a location: the same numeric address in two PA spaces names two locations (20_memory.md R600). -/
def memKey (pas : Pas) (addr : DWord) : Nat := pas.code * 2 ^ 56 + addr.toNat % 2 ^ 56

/-- What an unlisted location reads as (log entry 3). -/
def Memory.default : Byte := 0

/-- The byte at a key. -/
def Memory.get : Memory → Nat → Byte
  | [], _ => Memory.default
  | (a, b) :: m, k => if a = k then b else if k < a then Memory.default else Memory.get m k

/-- The memory with the byte at a key replaced, in canonical form. -/
def Memory.set : Memory → Nat → Byte → Memory
  | [], k, v => if v = Memory.default then [] else [(k, v)]
  | (a, b) :: m, k, v =>
    if a = k then (if v = Memory.default then m else (k, v) :: m)
    else if k < a then (if v = Memory.default then (a, b) :: m else (k, v) :: (a, b) :: m)
    else (a, b) :: Memory.set m k v

/-- The canonical form from a lowest key on: keys strictly rising, no entry equal to what an unlisted location reads as. -/
def Memory.wfFrom : Nat → Memory → Bool
  | _, [] => true
  | lo, (a, b) :: m => decide (lo ≤ a) && (b != Memory.default) && Memory.wfFrom (a + 1) m

/-- The canonical form. -/
def Memory.wf (m : Memory) : Bool := Memory.wfFrom 0 m

/-- `n` bytes from an address on (the address wraps within its space). -/
def Memory.bytes (m : Memory) (pas : Pas) : DWord → Nat → List Byte
  | _, 0 => []
  | addr, n + 1 => m.get (memKey pas addr) :: m.bytes pas (addr + 1) n

/-- The memory with bytes stored from an address on. -/
def Memory.store (m : Memory) (pas : Pas) : DWord → List Byte → Memory
  | _, [] => m
  | addr, b :: bs => (m.set (memKey pas addr) b).store pas (addr + 1) bs

/-- The little-endian number of `n` bytes in memory (20_memory.md R601). -/
def Memory.readNat (m : Memory) (pas : Pas) (addr : DWord) (n : Nat) : Nat := bytesNat (m.bytes pas addr n)

/-- Whether the interconnect ends an access of `n` bytes with an external abort: an address beyond the system's physical
address size, or a region the environment makes fail (92_eei_decisions.md D3; log entry 4). -/
def State.extAbort (s : State) (pas : Pas) (addr : DWord) (n : Nat) : Bool :=
  decide (2 ^ s.ids.oas < addr.toNat + n)
    || s.aborts.any fun r => decide (memKey pas addr < r.1 + r.2 ∧ r.1 < memKey pas addr + n)

/-- An address truncated to the OAS (20_memory.md R620). -/
def State.truncOas (s : State) (addr : DWord) : DWord := BitVec.ofNat 64 (addr.toNat % 2 ^ s.ids.oas)

/-- `s` with bytes stored in memory. -/
def State.storeBytes (s : State) (pas : Pas) (addr : DWord) (bs : List Byte) : State :=
  { s with mem := s.mem.store pas addr bs }

/-- Another agent writes memory (92_eei_decisions.md D2). -/
def State.othersWrite (s : State) (pas : Pas) (addr : DWord) (bs : List Byte) : State := s.storeBytes pas addr bs

/-- What another agent's read of one byte of memory gives: the machine's read of one byte. -/
def State.byteAt (s : State) (pas : Pas) (addr : DWord) : Byte := s.mem.get (memKey pas addr)

end Sys2Proof.Machine
end

