-- ==== Sys2Proof/Machine/Flags.lean ====
section
/-! DEFINITION. The status computations of the machine: queue indexes and their empty, full and overflow conditions
(27_queues.md section 1), active errors (12_regs_control.md R190), and whether a Command queue may progress. -/

namespace Sys2Proof.Machine

/-! ## Circular queues -/

/-- LOG2SIZE of a BASE register, capped at the implementation's limit (13_regs_tables_queues.md R255). -/
def queueLog2 (base : BitVec 64) (cap : Nat) : Nat := min (fieldNat base 0 5) cap

/-- The index with its wrap flag of a queue of 2^n entries: bits [n:0] of an index register (27_queues.md R702). -/
def indexOf (r : BitVec 32) (n : Nat) : Nat := fieldNat r 0 20 % 2 ^ (n + 1)

/-- The number of entries between the indexes of a queue of 2^n entries; above 2^n the indexes are inconsistent
(27_queues.md R704, R705). -/
def queueCount (prod cons : BitVec 32) (n : Nat) : Nat :=
  (indexOf prod n + 2 ^ (n + 1) - indexOf cons n) % 2 ^ (n + 1)

/-- Nothing can be consumed (R704). -/
def queueEmpty (prod cons : BitVec 32) (n : Nat) : Bool := queueCount prod cons n == 0

/-- Nothing can be produced (R704). -/
def queueFull (prod cons : BitVec 32) (n : Nat) : Bool := queueCount prod cons n == 2 ^ n

/-- The indexes are among the states of R705 that software may write. -/
def queueConsistent (prod cons : BitVec 32) (n : Nat) : Bool := decide (queueCount prod cons n ≤ 2 ^ n)

/-- An index register advanced by one entry, its bits above the wrap flag zero (27_queues.md R703;
13_regs_tables_queues.md R258). -/
def indexAdvance (r : BitVec 32) (n : Nat) : BitVec 32 := putField r 0 20 ((indexOf r n + 1) % 2 ^ (n + 1))

/-- The address of the entry an index register points at, in a queue of 2^n entries of 2^e bytes; the base is aligned to
the queue's size, at least 32 bytes (27_queues.md R701; 13_regs_tables_queues.md R255). -/
def entryAddr (base : BitVec 64) (n e : Nat) (r : BitVec 32) : DWord :=
  alignDown (base &&& maskAt 64 5 51) (max (n + e) 5) + BitVec.ofNat 64 (indexOf r n % 2 ^ n * 2 ^ e)

/-- What the base of a table or queue counts from: Page 0 where it is preset and relative, else zero (11_regs_id.md R101;
10_state.md R63). -/
def State.relBase (s : State) (preset : Bool) : DWord := if preset && s.ids.rel then s.impl.page0 else 0

/-- The address of the entry that an index points at in a queue of an interface, below the OAS. -/
def State.entryAt (s : State) (base : BitVec 64) (n e : Nat) (r : BitVec 32) : DWord :=
  s.truncOas (entryAddr base n e r + s.relBase s.ids.queuesPreset)

/-- An unacknowledged overflow: OVFLG differs from OVACKFLG (60_exceptions.md R2164). -/
def overflowed (q : QueueRegs) : Bool := q.prod.getLsbD 31 != q.cons.getLsbD 31

/-! ## Global errors -/

/-- The flags of SMMU_(*_)GERROR (12_regs_control.md R190). -/
inductive GErr where
  | cmdq | eventqAbt | priqAbt | msiCmdq | msiEventq | msiPriq | msiGerror | sfm | cmdqp | dpt
  | hdbss | msiHdbss | hacdbs | msiHacdbs | dcmdqp
  deriving DecidableEq, Repr

/-- The bit of a flag (R190). -/
def gerrBit : GErr → Nat
  | .cmdq => 0
  | .eventqAbt => 2
  | .priqAbt => 3
  | .msiCmdq => 4
  | .msiEventq => 5
  | .msiPriq => 6
  | .msiGerror => 7
  | .sfm => 8
  | .cmdqp => 9
  | .dpt => 10
  | .hdbss => 11
  | .msiHdbss => 12
  | .hacdbs => 13
  | .msiHacdbs => 14
  | .dcmdqp => 15

/-- A flag's presence in an interface's SMMU_(*_)GERROR (R190; 14_regs_secure.md R365; 16_regs_root_realm.md R479). -/
def gerrPresent (d : Ids) (i : Sec) : GErr → Bool
  | .cmdq => true
  | .eventqAbt => true
  | .priqAbt => d.priOf i
  | .msiCmdq => d.msi i
  | .msiEventq => d.msi i
  | .msiPriq => d.msi i && d.priOf i
  | .msiGerror => d.msi i
  | .sfm => i != .rl
  | .cmdqp => d.ecmdq i || d.recmdq i
  | .dpt => d.dpt i
  | .hdbss => d.hdbss i
  | .msiHdbss => d.hdbss i && d.msi i
  | .hacdbs => d.hacdbs i
  | .msiHacdbs => d.hacdbs i && d.msi i
  | .dcmdqp => d.dcmdq i

/-- An error is active while GERROR and GERRORN differ (R190). -/
def gerrActive (r : Iface) (e : GErr) : Bool := r.gerror.getLsbD (gerrBit e) != r.gerrorn.getLsbD (gerrBit e)

/-! ## Command queues -/

/-- LOG2SIZE in use of a Command queue. -/
def cmdqLog2 (s : State) (base : BitVec 64) : Nat := queueLog2 base s.ids.cmdqs

/-- The ECMDQ of global index `n`. -/
def State.ecmdqAt (s : State) (i : Sec) (n : Nat) : Option Ecmdq := (s.iface i).ecmdqs[n]?

/-- ECMDQ_PRODn.EN and ECMDQ_CONSn.ENACK are both one (27_queues.md R722). -/
def Ecmdq.enabled (q : Ecmdq) : Bool := q.prod.getLsbD 31 && q.cons.getLsbD 31

/-- ECMDQ_PRODn.EN and ECMDQ_CONSn.ENACK are both zero (27_queues.md R722). -/
def Ecmdq.disabled (q : Ecmdq) : Bool := !q.prod.getLsbD 31 && !q.cons.getLsbD 31

/-- ECMDQ_BASEn.DM (15_regs_ecmdq_dcmdq.md R403). -/
def Ecmdq.direct (q : Ecmdq) : Bool := q.base.getLsbD 63

/-- The DCMDQ is active (27_queues.md R732). -/
def Ecmdq.dcActive (q : Ecmdq) : Bool := q.enabled && q.direct

/-- The DCMDQ is enabled (27_queues.md R732). -/
def Ecmdq.dcEnabled (q : Ecmdq) : Bool := q.dcActive && q.dcEn && q.dcEnAck

/-- A command error is active: CONSn.ERR differs from PRODn.ERRACK (27_queues.md R723). -/
def Ecmdq.errActive (q : Ecmdq) : Bool := q.cons.getLsbD 23 != q.prod.getLsbD 23

/-- A hypervisor-serviced error is active (15_regs_ecmdq_dcmdq.md R405). -/
def Ecmdq.hsErrActive (q : Ecmdq) : Bool := q.cons.getLsbD 22 != q.prod.getLsbD 22

/-- The global index of an ECMDQ or DCMDQ from its page and its local index (27_queues.md R731; 92_eei_decisions.md D61). -/
def queueIndex (log2NumQ m n : Nat) : Nat := m * 2 ^ log2NumQ + n

/-- The BASE, PROD and CONS registers of a Command queue. -/
def State.queueRegs (s : State) : QueueId → Option QueueRegs
  | .main i => some (s.iface i).cmdq
  | .ecmdq i n => (s.ecmdqAt i n).map fun q => ⟨q.base, q.prod, q.cons⟩
  | .dcmdq i n => (s.ecmdqAt i n).map fun q => ⟨q.base, q.prod, q.cons⟩

/-- The indexes allow consumption: not empty, and consistent (30_encoding.md R1805; inconsistent indexes stop consumption,
27_queues.md R705, log entry 18). -/
def State.hasCommand (s : State) (r : QueueRegs) : Bool :=
  !queueEmpty r.prod r.cons (cmdqLog2 s r.base) && queueConsistent r.prod r.cons (cmdqLog2 s r.base)

/-- An access of the DCMDQ is stalled (27_queues.md R735). -/
def State.directStalled (s : State) (i : Sec) (n : Nat) : Bool :=
  s.stalls.any fun x =>
    match x.what with
    | .dcmdq j m _ => j == i && m == n
    | .txn _ => false

/-- Commands can be processed from the queue: enabled, no error active, not empty, and the SMMU not in Service Failure
Mode (30_encoding.md R1805; 27_queues.md R721 to R723, R732, R742; 62_ras_mpam_mec.md R2654). -/
def State.canProgress (s : State) (q : QueueId) : Bool :=
  !s.sfm &&
  match q with
  | .main i => s.ids.present i && s.cmdqEn i && !gerrActive (s.iface i) .cmdq && s.hasCommand (s.iface i).cmdq
  | .ecmdq i n =>
    match s.ecmdqAt i n with
    | none => false
    | some e => (s.ids.ecmdq i || s.ids.recmdq i) && e.enabled && !e.direct && !e.errActive && s.hasCommand ⟨e.base, e.prod, e.cons⟩
  | .dcmdq i n =>
    match s.ecmdqAt i n with
    | none => false
    | some e =>
      s.ids.dcmdq i && e.dcEnabled && !e.errActive && !e.hsErrActive && s.hasCommand ⟨e.base, e.prod, e.cons⟩
        && !s.directStalled i n

/-- The interface of a Command queue. -/
def QueueId.sec : QueueId → Sec
  | .main i => i
  | .ecmdq i _ => i
  | .dcmdq i _ => i

/-- The queue is a DCMDQ. -/
def QueueId.isDirect : QueueId → Bool
  | .dcmdq _ _ => true
  | _ => false

/-- The queue is an ECMDQ or a DCMDQ. -/
def QueueId.isEcmdq : QueueId → Bool
  | .main _ => false
  | _ => true

end Sys2Proof.Machine
end

