-- ==== Sys2Proof/Machine/Gpc.lean ====
section
/-! DEFINITION. Granule protection checks (25_dpt_gpc.md part B) and the accesses that the SMMU itself makes
(20_memory.md R602). The GPT lookup is Config.gptLookup (log entry 14). -/

namespace Sys2Proof.Machine

/-- Who makes an access that is checked (25_dpt_gpc.md R1600, R1602, R1620). -/
inductive GpcFrom where
  /-- a client with a StreamID, or a translation made for it; `pm` is the Protected Mode attribute (R1623) -/
  | stream (sec : Sec) (pm : Bool)
  | noSid
  /-- any other access of the SMMU -/
  | smmu
  deriving DecidableEq, Repr

/-- The outcome of a check: the PA space of the access, or a fault of one of the groups of R1610. -/
inductive GpcResult where
  | pass (pas : Pas)
  | gpf
  | cfgErr (code : Nat)
  deriving DecidableEq, Repr

/-- REASON and FAULTCODE of SMMU_ROOT_GPF_FAR and SMMU_ROOT_GPT_CFG_FAR (16_regs_root_realm.md R456). -/
inductive FarCode where
  | transaction
  | steFetch | cdFetch | walk | vmsFetch | citFetch | vsttFetch
  | cmdq | eventq | priq | msiCmdq | msiEventq | msiPriq | msiGerror | dcmdq | hdbss | msiHdbss | hacdbs | msiHacdbs | other
  deriving DecidableEq, Repr

/-- REASON (R456). -/
def farReason : FarCode → Nat
  | .transaction => 3
  | .steFetch | .cdFetch | .walk | .vmsFetch | .citFetch | .vsttFetch => 1
  | _ => 2

/-- FAULTCODE (R456). -/
def farFaultCode : FarCode → Nat
  | .transaction => 0
  | .steFetch => 0x03
  | .cdFetch => 0x09
  | .walk => 0x0B
  | .vmsFetch => 0x25
  | .citFetch => 0x27
  | .vsttFetch => 0x30
  | .cmdq => 0x00
  | .eventq => 0x02
  | .priq => 0x03
  | .msiCmdq => 0x04
  | .msiEventq => 0x05
  | .msiPriq => 0x06
  | .msiGerror => 0x07
  | .dcmdq => 0x08
  | .hdbss => 0x09
  | .msiHdbss => 0x0A
  | .hacdbs => 0x0B
  | .msiHacdbs => 0x0C
  | .other => 0x10

/-- FPAS with FPASE above it (R456). -/
def farPas : Pas → Nat
  | .s => 0
  | .ns => 1
  | .root => 2
  | .rl => 3
  | .sa => 4
  | .nsp => 5

/-- The protected physical address size in bits, none for a reserved encoding (16_regs_root_realm.md R455). -/
def gptPps (d : Ids) (cfg : BitVec 64) : Option Nat :=
  let v := if d.gpts then fieldNat cfg 0 4 else fieldNat cfg 0 3
  match v with
  | 0 => some 32
  | 1 => some 36
  | 2 => some 40
  | 3 => some 42
  | 4 => some 44
  | 5 => some 48
  | 6 => some 52
  | 7 => if d.gpts then some 56 else none
  | 8 => some 46
  | 9 => some 47
  | _ => none

/-- log2 of the physical granule size, none for an invalid one (R455). -/
def gptPgs (d : Ids) (cfg : BitVec 64) : Option Nat :=
  match fieldNat cfg 14 2 with
  | 0 => if d.gran4 then some 12 else none
  | 1 => if d.gran64 then some 16 else none
  | 2 => if d.gran16 then some 14 else none
  | _ => none

/-- The address bits that a level 0 GPT entry covers (R455). -/
def gptL0 (cfg : BitVec 64) : Nat :=
  match fieldNat cfg 20 4 with
  | 4 => 34
  | 6 => 36
  | 9 => 39
  | _ => 30

/-- The low bits of SMMU_ROOT_GPT_BASE that the alignment of the level 0 GPT makes RES0 (R454); 4KB where PPS is reserved. -/
def gptBaseAlign (d : Ids) (cfg : BitVec 64) : Nat := max 12 ((gptPps d cfg).getD 0 + 3 - gptL0 cfg)

/-- The level 0 GPT (R454). -/
def State.gptBase (s : State) : DWord := alignDown s.root.gptBase (gptBaseAlign s.ids s.root.gptCfg)

/-- gpcbwl of a bypass window (16_regs_root_realm.md R460). -/
def gpcbwLow (bw : BitVec 64) : Option Nat :=
  match fieldNat bw 37 3 with
  | 0 => some 30
  | 1 => some 31
  | 2 => some 32
  | 4 => some 34
  | 6 => some 36
  | _ => none

/-- gpcbwu of a bypass window (R460; 90_conflicts.md C13). -/
def gpcbwHigh (bw : BitVec 64) : Option Nat :=
  match fieldNat bw 32 5 with
  | 0 => some 39
  | 2 => some 41
  | 4 => some 43
  | 6 => some 45
  | 7 => some 46
  | 8 => some 47
  | 9 => some 48
  | 10 => some 49
  | 16 => some 55
  | _ => none

/-- Bypass windows are enabled (R455, R460). -/
def gpcbwEnabled (d : Ids) (cfg : BitVec 64) : Bool := d.gpts && cfg.getLsbD 29

/-- The bypass window register is valid: known encodings, a base aligned to the window and below the stride (R460). -/
def gpcbwValid (bw : BitVec 64) : Bool :=
  match gpcbwLow bw, gpcbwHigh bw with
  | some l, some u =>
    let base := fieldNat bw 0 26 * 2 ^ 30
    decide (base % 2 ^ l = 0 ∧ base < 2 ^ (u + 1))
  | _, _ => false

/-- COND of R460: the address lies in a window. -/
def inGpcbw (bw : BitVec 64) (addr : DWord) : Bool :=
  match gpcbwLow bw, gpcbwHigh bw with
  | some l, some u =>
    let mask := maskAt 64 0 56 &&& ~~~(maskAt 64 0 l) &&& maskAt 64 0 (u + 1)
    (addr &&& mask) == (BitVec.ofNat 64 (fieldNat bw 0 26 * 2 ^ 30) &&& mask)
  | _, _ => false

/-- The GPT configuration registers hold a valid configuration (R455, R460; 25_dpt_gpc.md R1610). -/
def gptCfgValid (d : Ids) (r : RootRegs) : Bool :=
  let cfg := r.gptCfg
  let nc := fieldNat cfg 8 2 == 0 && fieldNat cfg 10 2 == 0
  (match gptPps d cfg with
    | some p => decide (p ≤ d.oas)
    | none => false)
  && (gptPgs d cfg).isSome
  && [0, 4, 6, 9].contains (fieldNat cfg 20 4)
  && fieldNat cfg 12 2 != 1
  && (!nc || fieldNat cfg 12 2 == 2)
  && (!gpcbwEnabled d cfg || gpcbwValid r.gpcbw)

/-- A 2-bit cacheability field of the SMMU's own accesses: 0b00 Non-cacheable, 0b10 Write-Through, else Write-Back
(16_regs_root_realm.md R455; 21_streams_ste.md R868, R893; 22_cd_vms.md R1058). -/
def rgnPol (v : Nat) : CachePol :=
  match v % 4 with
  | 0 => .nc
  | 2 => .wt
  | _ => .wb

/-- The memory type that a pair of such fields gives. -/
def rgnType (inner outer : Nat) : MemType := .normal (rgnPol inner) (rgnPol outer)

/-- The fetch of a GPT entry fails: an External abort, or a memory type that is not supported (25_dpt_gpc.md R1610;
62_ras_mpam_mec.md R2653). -/
def gptFetchFails (s : State) (addr : DWord) : Bool :=
  let cfg := s.root.gptCfg
  (Config.gptFetches s.gptBase cfg s.mem addr).any fun a =>
    s.extAbort .root a 8 || s.impl.unsupportedMemtypes.contains (rgnType (fieldNat cfg 8 2) (fieldNat cfg 10 2))

/-- A cached GPI value for an address (31_tlb_tagging.md R1275). -/
def cachedGpi (s : State) (addr : DWord) : Option (BitVec 4) :=
  (s.caches.gpt.find? fun e => decide (e.base.toNat ≤ addr.toNat ∧ addr.toNat < e.base.toNat + 2 ^ e.sizeLog2)).map (·.gpi)

/-- The GPI of a location: effectively Non-secure, or All Accesses Permitted, above the protected range (25_dpt_gpc.md
R1621); All Accesses Permitted in a bypass window (R1624); else what the GPT says (log entry 14). -/
def gpiOf (s : State) (addr : DWord) : BitVec 4 ⊕ Nat :=
  let r := s.root
  if !gptCfgValid s.ids r then .inr 0
  else
    let pps := (gptPps s.ids r.gptCfg).getD 32
    if decide (2 ^ pps ≤ s.gptBase.toNat) then .inr 1
    else if decide (2 ^ pps ≤ addr.toNat) then
      .inl (if s.ids.appsaaImpl && r.gptCfg.getLsbD 24 then 0b1111#4 else 0b1001#4)
    else if gpcbwEnabled s.ids r.gptCfg && inGpcbw r.gpcbw addr then .inl 0b1111#4
    else
      match cachedGpi s addr with
      | some g => .inl g
      | none =>
        if gptFetchFails s addr then .inr 2
        else
        match Config.gptLookup s.gptBase r.gptCfg s.mem addr with
        | .inl g => .inl g
        | .inr e => .inr e.toNat

/-- A granule protection check of an address reads the GPT: checks are on, the configuration is valid, the address is in the
protected range and in no bypass window, and no TLB holds its GPI (25_dpt_gpc.md R1600, R1621, R1624). -/
def readsGpt (s : State) (addr : DWord) : Bool :=
  let r := s.root
  let pps := (gptPps s.ids r.gptCfg).getD 32
  s.ids.rootImpl && r.cr0ack.getLsbD 0 && r.cr0ack.getLsbD 1 && gptCfgValid s.ids r && decide (s.gptBase.toNat < 2 ^ pps) &&
    decide (addr.toNat < 2 ^ pps) && !(gpcbwEnabled s.ids r.gptCfg && inGpcbw r.gpcbw addr) && (cachedGpi s addr).isNone

/-- The GPT access of a check is a performance event of what the access is made for, with the PARTID and PMG of the access that
is checked (17_regs_pmcg.md R509; 62_ras_mpam_mec.md R2665); one event a check, whatever its levels (log entry 33). -/
def noteGpt (s : State) (src : PmuSrc) (m : Mpam) (addr : DWord) : State :=
  if readsGpt s addr then { s with pmuLog := s.pmuLog ++ [{ event := 4, src := src, mpam := some m }] } else s

/-- NSO, NSP and SA are enabled (R455). -/
def nsoOn (s : State) : Bool := s.ids.nsoImpl && s.root.gptCfg.getLsbD 19
/-- See `nsoOn`. -/
def nspOn (s : State) : Bool := s.ids.gdi && s.root.gptCfg.getLsbD 26
/-- See `nsoOn`. -/
def saOn (s : State) : Bool := s.ids.gdi && s.root.gptCfg.getLsbD 25

/-- What a GPI value lets an access do (25_dpt_gpc.md R1620 to R1625; the values of FEAT_RME are PRESUMED, log entry 14). -/
def gpiCheck (s : State) (o : GpcFrom) (pas : Pas) (write : Bool) (gpi : BitVec 4) : GpcResult :=
  let nsPm : Bool := match o with
    | .stream .ns pm => pm && nspOn s
    | _ => false
  match gpi.toNat with
  | 0b0000 => .gpf
  | 0b1000 => if pas = .s then .pass pas else .gpf
  | 0b1001 => if pas = .ns ∧ ¬(nsPm ∧ write) then .pass pas else .gpf
  | 0b1010 => if pas = .root then .pass pas else .gpf
  | 0b1011 => if pas = .rl then .pass pas else .gpf
  | 0b1111 => if nsPm ∧ write then .gpf else .pass pas
  | 0b1101 =>
    if !nsoOn s then .cfgErr 3
    else
      let fromOther : Bool := match o with
        | .stream .rl _ => true
        | .stream .s _ => true
        | _ => false
      if pas = .ns ∧ ¬fromOther ∧ ¬(nsPm ∧ write) then .pass pas else .gpf
  | 0b0101 =>
    if !nspOn s then .cfgErr 3
    else if nsPm ∧ pas = .ns then .pass .nsp
    else if o = .noSid ∧ pas = .nsp then .pass .nsp
    else .gpf
  | 0b0100 => if !saOn s then .cfgErr 3 else if pas = .sa then .pass pas else .gpf
  | _ => .cfgErr 3

/-- The granule protection check of an access (25_dpt_gpc.md R1600). With SMMU_ROOT_CR0.ACCESSEN zero every access is treated
as one with a granule protection fault (16_regs_root_realm.md R453; log entry 21). -/
def gpcCheck (s : State) (o : GpcFrom) (pas : Pas) (addr : DWord) (write : Bool) : GpcResult :=
  if !s.ids.rootImpl then .pass pas
  else if !s.root.cr0ack.getLsbD 0 then .gpf
  else if !s.root.cr0ack.getLsbD 1 then .pass pas
  else
    match gpiOf s addr with
    | .inr e => .cfgErr e
    | .inl g => gpiCheck s o pas write g

/-- The syndrome of a fault (16_regs_root_realm.md R456, R457). -/
def farValue (d : Ids) (pas : Pas) (addr : DWord) (code : FarCode) : BitVec 64 :=
  let p := farPas pas
  let v := putField (0 : BitVec 64) 62 2 p
  let v := if d.gdi then putField v 61 1 (p / 4) else v
  let v := putField v 12 44 (fieldNat addr 12 44)
  let v := putField v 4 8 (farFaultCode code)
  putField v 1 3 (farReason code) ||| 1

/-- A GPC fault is recorded unless the register holds an active one; the interrupt is sent when one becomes active
(25_dpt_gpc.md R1611). A failed fetch of a GPT entry, CFG_ERR 2, has REASON GERROR and FAULTCODE OTHER_GPF whatever access it
was made for (62_ras_mpam_mec.md R2653). -/
def recordGpc (s : State) (res : GpcResult) (pas : Pas) (addr : DWord) (code : FarCode) : State :=
  match res with
  | .pass _ => s
  | .gpf =>
    if s.root.gpfFar.getLsbD 0 then s
    else ({ s with root := { s.root with gpfFar := farValue s.ids pas addr code } } : State).send (.wire .gpfFar)
  | .cfgErr e =>
    if s.root.gptCfgFar.getLsbD 0 then s
    else ({ s with root := { s.root with gptCfgFar := putField (farValue s.ids pas addr (if e = 2 then .other else code)) 56 4 e } } :
      State).send (.wire .gptCfgFar)

/-- A fault that no rule has reported for certain: of a speculative access, a prefetch or a hint. With RME_IMPL one it is not
reported; without, a free value says whether it is (25_dpt_gpc.md R1603; log entry 7). -/
def recordQuietGpc (s : State) (res : GpcResult) (pas : Pas) (addr : DWord) (code : FarCode) : State :=
  if s.ids.rmeImpl then s
  else
    match s.takeFree with
    | (u, s) => if u.getLsbD 0 then recordGpc s res pas addr code else s

/-- The reporting of a granule protection fault of an access that is `quiet` or not (R1603, R1611). -/
def reportGpc (s : State) (quiet : Bool) (res : GpcResult) (pas : Pas) (addr : DWord) (code : FarCode) : State :=
  if quiet then recordQuietGpc s res pas addr code else recordGpc s res pas addr code

/-- GPT information that a check used may be cached (31_tlb_tagging.md R1275; log entry 10). -/
def cacheGpi (s : State) (addr : DWord) : State :=
  if !s.ids.rootImpl || !s.root.cr0ack.getLsbD 1 || (cachedGpi s addr).isSome then s
  else
    match s.cacheNow with
    | (false, s) => s
    | (true, s) =>
      match gpiOf s addr, gptPgs s.ids s.root.gptCfg with
      | .inl g, some p => { s with caches := { s.caches with gpt := ⟨alignDown addr p, p, g, true⟩ :: s.caches.gpt } }
      | _, _ => s

/-- Why an access of the SMMU failed. -/
inductive MemErr where
  | eabt | gpf
  deriving DecidableEq, Repr

/-- The memory type of a cacheability pair of SMMU_(*_)CR1 (12_regs_control.md R165). -/
def crType (inner outer : Nat) : MemType :=
  let level (v : Nat) : CachePol := if v = 1 then .wb else if v = 2 then .wt else .nc
  .normal (level inner) (level outer)

/-- The memory type of an access that SMMU_(*_)CR1 governs: Stream table, VMS and DPT with TABLE_IC and TABLE_OC, the queues,
the HDBSS and HACDBS, and the tables of virtual StreamIDs with QUEUE_IC and QUEUE_OC (12_regs_control.md R166; 25_dpt_gpc.md
R1538; 28_httu.md R1341, R1348; 27_queues.md R757). -/
def cr1Type (r : Iface) (table : Bool) : MemType :=
  let lo := if table then 6 else 0
  crType (fieldNat r.cr1 lo 2) (fieldNat r.cr1 (lo + 2) 2)

/-- Normal Inner and Outer Write-Back. -/
def MemType.writeBack : MemType := .normal .wb .wb

/-! ## PARTID and PMG of the SMMU's own accesses (62_ras_mpam_mec.md section 3) -/

/-- The PARTID space of an interface's accesses, which MPAM_NS may make the Non-secure one (R2668). -/
def mpamSpace (i : Sec) (mpamNs : Bool) : BitVec 2 :=
  match i with
  | .ns => 1
  | .s => if mpamNs then 1 else 0
  | .rl => if mpamNs then 1 else 3

/-- The register that gives PARTID and PMG of an access the SMMU makes of itself (R2665). -/
def Iface.mpamReg (r : Iface) : FarCode → BitVec 32
  | .hdbss => r.hdbssMpam
  | .hacdbs => r.hacdbsMpam
  | _ => r.gmpamEff

/-- PARTID, PMG and PARTID space as such a register gives them; zero without MPAM (R2661, R2665, R2668). -/
def regMpam (d : Ids) (i : Sec) (g : BitVec 32) : Mpam :=
  if d.mpamOf i then (g.extractLsb' 0 16, g.extractLsb' 16 8, mpamSpace i (d.hasMpamNs i && g.getLsbD 24))
  else (0, 0, mpamSpace i false)

/-- The MPAMIDR that limits such a register's values (14_regs_secure.md R371). -/
def regMpamLimit (d : Ids) (i : Sec) (g : BitVec 32) : BitVec 32 :=
  if d.hasMpamNs i && g.getLsbD 24 then d.mpamidr else d.mpamidrOf i

/-! ## The accesses that the SMMU makes -/

/-- What an access of the SMMU is: who makes it in a granule protection check, its memory type, and the performance event
source and the PARTID and PMG of the GPT access that its check may make (17_regs_pmcg.md R509; 62_ras_mpam_mec.md R2665). -/
structure AccFrom where
  gpc : GpcFrom
  type : MemType
  src : PmuSrc
  mpam : Mpam
  /-- the MPAMIDR beyond which PARTID and PMG are UNKNOWN -/
  lim : BitVec 32 := 0x00FFFFFF#32
  deriving DecidableEq, Repr

/-- An access that an interface makes for no stream: to a queue, the HDBSS, the HACDBS, the tables of virtual StreamIDs, or an
MSI, which has its own memory type (12_regs_control.md R166; 62_ras_mpam_mec.md R2665). -/
def State.ownAcc (s : State) (i : Sec) (code : FarCode) : AccFrom :=
  let r := s.iface i
  { gpc := .smmu, type := cr1Type r false, src := .own i.pas, mpam := regMpam s.ids i (r.mpamReg code)
    lim := regMpamLimit s.ids i (r.mpamReg code) }

/-- The fetch of a command from a queue other than a DCMDQ. 12_regs_control.md R166 gives SMMU_(*_)CR1.QUEUE_* to a RECMDQ
too, 27_queues.md R750 says that they do not apply and that it is Write-Back: a parameter (log entry 52). -/
def State.cmdqAcc (s : State) (q : QueueId) : AccFrom :=
  let o := s.ownAcc q.sec .cmdq
  if q.isEcmdq && s.ids.recmdq q.sec && s.impl.recmdqWriteBack then { o with type := .writeBack } else o

/-- PARTID and PMG within the limits of a MPAMIDR. -/
def State.mpamWithin (s : State) (lim : BitVec 32) (m : Mpam) : Mpam × State :=
  match s.limitMpam lim m.1 m.2.1 with
  | (p, s) => ((p.1, p.2, m.2.2), s)

/-- An access is noted for its GPT access (17_regs_pmcg.md R509), its PARTID and PMG UNKNOWN beyond their limits
(12_regs_control.md R196). -/
def noteOwnGpt (s : State) (o : AccFrom) (addr : DWord) : State :=
  if readsGpt s addr then
    match s.mpamWithin o.lim o.mpam with
    | (m, s) => noteGpt s o.src m addr
  else s

/-- One access that the SMMU makes: the granule protection check, then the interconnect (20_memory.md R602; 25_dpt_gpc.md
R1606); a memory type that the implementation does not support behaves as an external abort (12_regs_control.md R166;
29_speculation_coherency_embedded.md R653; parameter unsupportedMemtypes, log entry 2). With `report` false a fault is
quiet (R1603). -/
def smmuAccess (s : State) (o : AccFrom) (pas : Pas) (addr : DWord) (n : Nat) (write : Bool) (code : FarCode)
    (report : Bool) : Option MemErr × State :=
  let s := noteOwnGpt s o addr
  match gpcCheck s o.gpc pas addr write with
  | .pass _ =>
    let s := cacheGpi s addr
    (if s.extAbort pas addr n || s.impl.unsupportedMemtypes.contains o.type then some .eabt else none, s)
  | r => (some .gpf, reportGpc s (!report) r pas addr code)

/-- A read that the SMMU makes: the little-endian number of `n` bytes. -/
def smmuRead (s : State) (o : AccFrom) (pas : Pas) (addr : DWord) (n : Nat) (code : FarCode) (report : Bool := true) :
    Except MemErr Nat × State :=
  match smmuAccess s o pas addr n false code report with
  | (some e, s) => (.error e, s)
  | (none, s) => (.ok (s.mem.readNat pas addr n), s)

/-- A write that the SMMU makes. -/
def smmuWrite (s : State) (o : AccFrom) (pas : Pas) (addr : DWord) (bs : List Byte) (code : FarCode)
    (report : Bool := true) : Option MemErr × State :=
  match smmuAccess s o pas addr bs.length true code report with
  | (some e, s) => (some e, s)
  | (none, s) => (none, s.storeBytes pas addr bs)

end Sys2Proof.Machine
end

