-- ==== Sys2Proof/Machine/Attr.lean ====
section
/-! DEFINITION. Memory attributes: defaults, overrides, combination, consistency (24_attributes.md). -/

namespace Sys2Proof.Machine

/-- The allocation hints that convey nothing stronger: read-allocate, write-allocate, non-transient (R1410, R1423). -/
def Hints.default : Hints := ⟨true, true, false⟩

/-- The hints of a level without any (R1430). -/
def Hints.none : Hints := ⟨false, false, false⟩

/-- The default input attributes (R1410). -/
def Attrs.default : Attrs := ⟨.normal .wb .wb, .nsh, .default, .default⟩

/-- Inner and Outer Write-Back, Shareable (26_ats_pri.md R1686). -/
def Attrs.sharedWb : Attrs := ⟨.normal .wb .wb, .ish, .default, .default⟩

/-- Device types by their two low encoding bits (R1418, R1443). -/
def deviceType (v : Nat) : MemType :=
  match v % 4 with
  | 0 => .nGnRnE
  | 1 => .nGnRE
  | 2 => .nGRE
  | _ => .gre

/-- A stage 2 cacheability code (R1418). -/
def cachePol2 (v : Nat) : CachePol :=
  match v % 4 with
  | 3 => .wb
  | 2 => .wt
  | _ => .nc

/-- The memory type of an override field encoded as STE.MemAttr; the Reserved encodings behave as Device-nGnRnE
(R1418; 21_streams_ste.md R882). -/
def memAttrOverride (v : BitVec 4) : MemType :=
  if fieldNat v 2 2 = 0 then deviceType (fieldNat v 0 2)
  else if fieldNat v 0 2 = 0 then .nGnRnE
  else .normal (cachePol2 (fieldNat v 0 2)) (cachePol2 (fieldNat v 2 2))

/-- Shareability of a 2-bit field in which 0b01 is Reserved and behaves as Non-shareable (12_regs_control.md R191;
44_cmd_fault_sync.md R2060). -/
def shField (v : Nat) : Shr :=
  match v % 4 with
  | 2 => .osh
  | 3 => .ish
  | _ => .nsh

/-- A descriptor's SH field; what the reserved 0b01 behaves as is Config.reservedSh (R1443). -/
def descSh (v : Nat) : Shr := if v % 4 = 1 then shField Config.reservedSh.toNat else shField v

/-- A memory type with a Normal cacheable level (R1449 is_cached_type). -/
def MemType.cacheable : MemType → Bool
  | .normal .nc .nc => false
  | .normal _ _ => true
  | _ => false

/-- A Device type. -/
def MemType.isDevice : MemType → Bool
  | .normal _ _ => false
  | _ => true

/-- The Shareability that counts: an uncacheable type is Outer Shareable (R1400; 70_reset_and_hazards.md R2571). -/
def Attrs.effSh (a : Attrs) : Shr := if a.mt.cacheable then a.sh else .osh

/-- The hints that a consistent output has at one level (R1430). -/
def consistentHints (c : CachePol) (h : Hints) : Hints :=
  if c = .nc then .none else if h.ra || h.wa then h else .none

/-- ensure_consistent_attrs (R1430). -/
def Attrs.consistent (a : Attrs) : Attrs :=
  match a.mt with
  | .normal i o => ⟨a.mt, a.effSh, consistentHints i a.inner, consistentHints o a.outer⟩
  | _ => ⟨a.mt, .osh, .none, .none⟩

/-! ## Replace (R1412) -/

/-- A set of overrides; none is "use incoming". -/
structure Overrides where
  mt : Option MemType
  sh : Option Shr
  alloc : Option Hints
  inst : Option Bool
  priv : Option Bool
  deriving DecidableEq, Repr

/-- SHCFG (21_streams_ste.md R885; 12_regs_control.md R180). -/
def shCfg (v : Nat) : Option Shr :=
  match v with
  | 0 => some .nsh
  | 2 => some .osh
  | 3 => some .ish
  | _ => none

/-- ALLOCCFG (21_streams_ste.md R884). -/
def allocCfg (v : BitVec 4) : Option Hints :=
  if v.getLsbD 3 then some ⟨v.getLsbD 2, v.getLsbD 1, v.getLsbD 0⟩ else none

/-- PRIVCFG and INSTCFG: 0b10 clears and 0b11 sets the attribute (21_streams_ste.md R887). -/
def boolCfg (v : Nat) : Option Bool :=
  match v with
  | 2 => some false
  | 3 => some true
  | _ => none

/-- The overrides of SMMU_(S_)GBPA (12_regs_control.md R180) as far as SMMU_IDR1 says they take effect (R1412); on a PCIe
stream with MTCOMB zero the type overrides follow the parameter pcie_type_overrides_apply (R1414). -/
def gbpaOverrides (s : State) (g : BitVec 32) (pcie : Bool) : Overrides :=
  let types := s.ids.attrTypesOvr && (s.ids.mtcomb || !pcie || s.impl.pcieTypeOverridesApply)
  let perms := s.ids.attrPermsOvr
  { mt := if types && g.getLsbD 4 then some (memAttrOverride (g.extractLsb' 0 4)) else none
    sh := if types then shCfg (fieldNat g 12 2) else none
    alloc := if types then allocCfg (g.extractLsb' 8 4) else none
    inst := if perms then boolCfg (fieldNat g 18 2) else none
    priv := if perms then boolCfg (fieldNat g 16 2) else none }

/-- Replacing of the memory type attributes; hints of an input that is not cacheable are the defaults (R1412, R1416). An
uncacheable type is always Outer Shareable whatever SHCFG says (R1416), and stays so where only the type is replaced
(70_reset_and_hazards.md R2572). -/
def Overrides.apply (o : Overrides) (a : Attrs) : Attrs :=
  let mt := o.mt.getD a.mt
  let sh := if mt.cacheable then o.sh.getD a.effSh else .osh
  let hints (h : Hints) : Hints :=
    if mt.cacheable then o.alloc.getD (if a.mt.cacheable then h else .default) else h
  ⟨mt, sh, hints a.inner, hints a.outer⟩

/-- Cache maintenance operations (32_special_transactions.md R1521). -/
def TxnKind.isCmo : TxnKind → Bool
  | .clean | .invalidate | .cleanInvalidate | .cleanToPersistence | .dh => true
  | _ => false

/-- Normal cacheable shareable, as PCIe transactions are (R1455; parameter pcieOsh, log entry 2). -/
def pcieAttrs (m : Impl) : Attrs := ⟨.normal .wb .wb, if m.pcieOsh then .osh else .ish, .default, .default⟩

/-- Normal Non-cacheable, what No_snoop makes of a cacheable type (R1460). -/
def Attrs.nonCacheable : Attrs := ⟨.normal .nc .nc, .osh, .none, .none⟩

/-- The attributes a transaction arrives with, the defaults in the place of those not supplied (R1410). An Untranslated PCIe
transaction carries none: it is Normal cacheable shareable, or Non-cacheable where MTCOMB has No_snoop applied before
(R1455). A cache maintenance operation has no memory type, so none changes its Shareability
(32_special_transactions.md R1524). -/
def Txn.inputAttrs (s : State) (t : Txn) : Attrs :=
  let h := t.hints.getD (.default, .default)
  if t.pcie then (if s.ids.mtcomb && t.noSnoop then .nonCacheable else pcieAttrs s.impl)
  else if t.kind.isCmo then ⟨.normal .wb .wb, t.sh.getD .nsh, h.1, h.2⟩
  else ⟨t.mt.getD (.normal .wb .wb), t.sh.getD .nsh, h.1, h.2⟩

/-! ## Combine (R1420, R1421) -/

/-- Strength of a cacheability level. -/
def CachePol.rank : CachePol → Nat
  | .wb => 0
  | .wt => 1
  | .nc => 2

/-- The stronger cacheability level. -/
def CachePol.combine (a b : CachePol) : CachePol := if a.rank < b.rank then b else a

/-- Strength of a Device type; Normal types are weaker than each. -/
def MemType.rank : MemType → Nat
  | .normal _ _ => 0
  | .gre => 1
  | .nGRE => 2
  | .nGnRE => 3
  | .nGnRnE => 4

/-- The stronger memory type, Normal types level by level (R1421). -/
def MemType.combine : MemType → MemType → MemType
  | .normal i o, .normal i' o' => .normal (i.combine i') (o.combine o')
  | a, b => if a.rank < b.rank then b else a

/-- Strength of a Shareability. -/
def Shr.rank : Shr → Nat
  | .nsh => 0
  | .ish => 1
  | .osh => 2

/-- The stronger Shareability. -/
def Shr.combine (a b : Shr) : Shr := if a.rank < b.rank then b else a

/-- The stronger hints: No-allocate and Transient win. -/
def Hints.combine (a b : Hints) : Hints := ⟨a.ra && b.ra, a.wa && b.wa, a.tr || b.tr⟩

/-- combine_attrs: an uncacheable type counts as Outer Shareable (R1400, R1420). -/
def Attrs.combine (a b : Attrs) : Attrs :=
  ⟨a.mt.combine b.mt, a.effSh.combine b.effSh, a.inner.combine b.inner, a.outer.combine b.outer⟩

/-! ## Stage 1 (R1442, R1443; 22_cd_vms.md R1086) -/

/-- One nibble of a Normal MAIR byte. -/
def mairLevel (v : Nat) : CachePol × Hints :=
  let h (tr : Bool) : Hints := ⟨v / 2 % 2 = 1, v % 2 = 1, tr⟩
  match v / 4 % 4 with
  | 0 => if v % 4 = 0 then (.wt, ⟨true, true, true⟩) else (.wt, h true)
  | 1 => if v % 4 = 0 then (.nc, .none) else (.wb, h true)
  | 2 => (.wt, h false)
  | _ => (.wb, h false)

/-- A MAIR byte; the encodings that VMSAv8-64 leaves UNPREDICTABLE have the behaviour of R1086. -/
def mairAttrs (v : BitVec 8) : Attrs :=
  if fieldNat v 4 4 = 0 then ⟨deviceType (fieldNat v 2 2), .osh, .none, .none⟩
  else
    let o := mairLevel (fieldNat v 4 4)
    let i := mairLevel (fieldNat v 0 4)
    ⟨.normal i.1 o.1, .nsh, i.2, o.2⟩

/-- The attributes after stage 1 (R1442, R1449); `mtop` is CD.MTOp, effective with MTCOMB. -/
def stage1Attrs (mtcomb mtop : Bool) (input s1 : Attrs) : Attrs :=
  let mt := if mtcomb && mtop then s1.mt.combine input.mt else s1.mt
  let inner := if input.mt.cacheable then input.inner.combine s1.inner else s1.inner
  let outer := if input.mt.cacheable then input.outer.combine s1.outer else s1.outer
  ⟨mt, s1.sh, inner, outer⟩

/-! ## Stage 2 (R1425 to R1427, R1445) -/

/-- The stage 2 memory type without forced Write-Back; with MTEPERM 0b0100 is Normal Write-Back without tag access
(R1418; 32_special_transactions.md R1516). That a Reserved MemAttr of a descriptor behaves as Device-nGnRnE, as
21_streams_ste.md R882 says of STE.MemAttr, is the model's choice (DESIGN CHOICE, log entry 54). -/
def stage2Type (mteperm : Bool) (v : BitVec 4) : MemType :=
  if v = 0b0100#4 ∧ mteperm then .normal .wb .wb else memAttrOverride v

/-- The transaction is Forced-WB by stage 2 (R1426). -/
def forcedWb (mteperm : Bool) (v : BitVec 4) : Bool := v == 0b0110#4 || (mteperm && v == 0b1110#4)

/-- The memory type after stage 2 with S2FWB set (R1427; 32_special_transactions.md R1516). What a Reserved encoding
behaves as is Config.reservedFwb. -/
def fwbType (mteperm : Bool) (v : BitVec 4) (input : MemType) : MemType :=
  if forcedWb mteperm v then .normal .wb .wb
  else if v = 0b0111#4 ∨ (mteperm ∧ v = 0b1111#4) then input
  else if v.getLsbD 3 then memAttrOverride (Config.reservedFwb v)
  else
    match fieldNat v 0 3 with
    | 5 => if input.isDevice then input else .normal .nc .nc
    | 4 => memAttrOverride (Config.reservedFwb v)
    | d => if input.isDevice then input.combine (deviceType d) else deviceType d

/-- The memory type after stage 2: with S2FWB set, or combined (R1420, R1425, R1427). -/
def stage2Mt (mteperm fwb : Bool) (input : MemType) (memAttr : BitVec 4) : MemType :=
  if fwb then fwbType mteperm memAttr input else input.combine (stage2Type mteperm memAttr)

/-- The attributes after stage 2 (R1420, R1425, R1445): the hints are those input to stage 2 where that was cacheable;
otherwise Read and Write no-allocate with MTCOMB, Read-allocate, Write-allocate, Non-transient without. -/
def stage2Attrs (mtcomb mteperm fwb : Bool) (input : Attrs) (memAttr : BitVec 4) (sh : Nat) : Attrs :=
  let hints (h : Hints) : Hints := if input.mt.cacheable then h else if mtcomb then .none else .default
  ⟨stage2Mt mteperm fwb input.mt memAttr, input.effSh.combine (descSh sh), hints input.inner, hints input.outer⟩

/-- No_snoop at the output with MTCOMB zero (R1460). -/
def noSnoopAttrs (a : Attrs) : Attrs := if a.mt.cacheable then .nonCacheable else a

/-- The attributes of an MSI from a MemAttr and an SH field; its hints are IMPLEMENTATION DEFINED, here the defaults
(60_exceptions.md R2151; 12_regs_control.md R191; log entry 2). -/
def msiAttrs (memAttr : BitVec 4) (sh : Nat) : Attrs :=
  (⟨memAttrOverride memAttr, shField sh, .default, .default⟩ : Attrs).consistent

end Sys2Proof.Machine
end

