-- ==== Sys2Proof/Machine/Ops.lean ====
section
/-! DEFINITION. Named operations that every part of the machine shares: interrupts and MSIs (60_exceptions.md part A), global
errors (part C), the writing of event records (part B), the taking of a command error, and the consumption of a command. -/

namespace Sys2Proof.Machine

/-! ## MSIs and interrupts -/

/-- An MSI: a 32-bit write of the type its attributes say, little-endian, to an address of a PA space (60_exceptions.md R2151;
the address is truncated to the OAS, 20_memory.md R620). True when the write was terminated with an abort. -/
def sendMsi (s : State) (o : AccFrom) (pas : Pas) (addr : DWord) (data : BitVec 32) (attrs : Attrs) (device : DeviceId)
    (code : FarCode) : Bool × State :=
  let a := s.truncOas addr
  match smmuWrite s { o with type := attrs.mt } pas a (natBytes 4 data.toNat) code with
  | (none, s) => (false, s.send (.msi pas a data attrs device))
  | (some _, s) => (true, s)

/-- The enable bit (12_regs_control.md R185). -/
def IrqSrc.bit : IrqSrc → Nat
  | .gerror => 0
  | .priq => 1
  | .eventq => 2
  | .hdbss => 3
  | .hacdbs => 4

/-- The MSI configuration registers of a source. -/
def IrqSrc.cfg (r : Iface) : IrqSrc → IrqCfg
  | .gerror => r.gerrorIrq
  | .priq => r.priqIrq
  | .eventq => r.eventqIrq
  | .hdbss => r.hdbssIrq
  | .hacdbs => r.hacdbsIrq

/-- The wired output of a source. -/
def IrqSrc.wire (i : Sec) : IrqSrc → Wire
  | .gerror => .gerror i
  | .priq => .priq i
  | .eventq => .eventq i
  | .hdbss => .hdbss i
  | .hacdbs => .hacdbs i

/-- The global error of an aborted MSI of a source (R2174). -/
def IrqSrc.abtErr : IrqSrc → GErr
  | .gerror => .msiGerror
  | .priq => .msiPriq
  | .eventq => .msiEventq
  | .hdbss => .msiHdbss
  | .hacdbs => .msiHacdbs

/-- The syndrome code of a granule protection fault of an MSI of a source (16_regs_root_realm.md R456). -/
def IrqSrc.farCode : IrqSrc → FarCode
  | .gerror => .msiGerror
  | .priq => .msiPriq
  | .eventq => .msiEventq
  | .hdbss => .msiHdbss
  | .hacdbs => .msiHacdbs

/-- The PA space of an MSI of an interface: Realm MSIs follow CFG0.NS (16_regs_root_realm.md R480). -/
def msiPas (i : Sec) (c : IrqCfg) : Pas := if i = .rl ∧ c.cfg0.getLsbD 63 then .ns else i.pas

/-- The interrupt of a source, if SMMU_(*_)IRQ_CTRL enables it: the wired output, and an MSI where MSIs are supported and
ADDR is not zero (R2157). True when the MSI aborted. -/
def signalIrq (s : State) (i : Sec) (src : IrqSrc) : Bool × State :=
  if !(s.iface i).irqCtrlAck.getLsbD src.bit then (false, s)
  else
    let s := if s.impl.wiredInterrupts then s.send (.wire (src.wire i)) else s
    let c := src.cfg (s.iface i)
    let addr := c.cfg0 &&& maskAt 64 2 54
    if s.ids.msi i && addr != 0 then
      sendMsi s (s.ownAcc i src.farCode) (msiPas i c) addr c.cfg1 (msiAttrs (c.cfg2.extractLsb' 0 4) (fieldNat c.cfg2 4 2))
        .own src.farCode
    else (false, s)

/-! ## Global errors -/

/-- A flag of SMMU_(*_)GERROR toggled (60_exceptions.md R2175). -/
def toggleGerror (s : State) (i : Sec) (e : GErr) : State :=
  s.setIface i fun r => { r with gerror := toggleBit r.gerror (gerrBit e) }

/-- A global error becomes active, unless it is active already or the interface does not have it; then the GERROR interrupt
is triggered, but not for an aborted GERROR MSI (R2175, R2176; 12_regs_control.md R190). -/
def raiseGerror (s : State) (i : Sec) (e : GErr) : State :=
  if !gerrPresent s.ids i e || gerrActive (s.iface i) e then s
  else
    let s := toggleGerror s i e
    if e = .msiGerror then s
    else
      match signalIrq s i .gerror with
      | (false, s) => s
      | (true, s) =>
        if gerrPresent s.ids i .msiGerror && !gerrActive (s.iface i) .msiGerror then toggleGerror s i .msiGerror else s

/-- The interrupt of a source other than GERROR; an aborted MSI is a global error (R2157, R2174). -/
def raiseIrq (s : State) (i : Sec) (src : IrqSrc) : State :=
  match signalIrq s i src with
  | (false, s) => s
  | (true, s) => raiseGerror s i src.abtErr

/-! ## Output queues -/

/-- The Event queue of an interface is writable: enabled, not full, no unacknowledged abort (60_exceptions.md R2160), its
indexes consistent (27_queues.md R705, log entry 18). -/
def State.eventqWritable (s : State) (i : Sec) : Bool :=
  let r := s.iface i
  let n := queueLog2 r.eventq.base s.ids.eventqs
  s.eventqEn i && !gerrActive r .eventqAbt && queueConsistent r.eventq.prod r.eventq.cons n
    && !queueFull r.eventq.prod r.eventq.cons n && !s.sfm

/-- The PROD register of the Event queue changed. -/
def State.setEventqProd (s : State) (i : Sec) (f : BitVec 32 → BitVec 32) : State :=
  s.setIface i fun r => { r with eventq := { r.eventq with prod := f r.eventq.prod } }

/-- An overflow of the Event queue: OVFLG toggles unless the condition is present (60_exceptions.md R2164). -/
def eventqOverflow (s : State) (i : Sec) : State :=
  let r := s.iface i
  let n := queueLog2 r.eventq.base s.ids.eventqs
  if s.eventqEn i && queueFull r.eventq.prod r.eventq.cons n && !overflowed r.eventq then
    s.setEventqProd i (toggleBit · 31)
  else s

/-- PROD of the Event queue moves past a record, with the interrupt if the queue was `empty` (R2156). -/
def eventqAdvance (s : State) (i : Sec) (empty : Bool) : State :=
  let s := s.setEventqProd i (indexAdvance · (queueLog2 (s.iface i).eventq.base s.ids.eventqs))
  if empty then raiseIrq s i .eventq else s

/-- The writing of a record of 32 bytes to a writable Event queue: the record is stored, PROD advances, and the interrupt is
triggered if the queue was empty; an external abort or granule protection fault activates EVENTQ_ABT_ERR and PROD stays, or,
detected asynchronously (parameter eventqAbortSync, log entry 2), PROD advances all the same (R2156, R2163; 25_dpt_gpc.md
R1606). True when the record counts as written. -/
def writeRecord (s : State) (i : Sec) (rec : BitVec 256) : Bool × State :=
  let r := s.iface i
  let n := queueLog2 r.eventq.base s.ids.eventqs
  let addr := s.entryAt r.eventq.base n 5 r.eventq.prod
  match smmuWrite s (s.ownAcc i .eventq) i.pas addr (natBytes 32 rec.toNat) .eventq with
  | (some _, s) =>
    if s.impl.eventqAbortSync then (false, raiseGerror s i .eventqAbt)
    else (true, raiseGerror (eventqAdvance s i (queueEmpty r.eventq.prod r.eventq.cons n)) i .eventqAbt)
  | (none, s) => (true, eventqAdvance s i (queueEmpty r.eventq.prod r.eventq.cons n))

/-- An event that is not of a stalled transaction is recorded if the queue is writable, else discarded, with an overflow
if the queue is full (R2160, R2164). -/
def recordEvent (s : State) (i : Sec) (rec : BitVec 256) : State :=
  if s.eventqWritable i then (writeRecord s i rec).2 else eventqOverflow s i

/-! ## Command errors: the exception of a Command queue -/

/-- The command errors (60_exceptions.md R2171). -/
inductive CmdErr where
  | ill | abt | atcInvSync
  deriving DecidableEq, Repr

/-- The code of an error (R2171). -/
def CmdErr.code : CmdErr → Nat
  | .ill => 1
  | .abt => 2
  | .atcInvSync => 3

/-- The hypervisor-serviced errors of a DCMDQ (15_regs_ecmdq_dcmdq.md R405). -/
inductive HsErr where
  | ipa | sidEabt | sidConfig | msiAbt
  deriving DecidableEq, Repr

/-- HS_ERR_REASON (R405). -/
def HsErr.code : HsErr → Nat
  | .ipa => 1
  | .sidEabt => 2
  | .sidConfig => 3
  | .msiAbt => 4

/-- An ECMDQ changed. -/
def State.setEcmdq (s : State) (i : Sec) (n : Nat) (f : Ecmdq → Ecmdq) : State :=
  s.setIface i fun r => { r with ecmdqs := r.ecmdqs.modify n f }

/-- The CONS register of a Command queue changed. -/
def State.setCons (s : State) (q : QueueId) (f : BitVec 32 → BitVec 32) : State :=
  match q with
  | .main i => s.setIface i fun r => { r with cmdq := { r.cmdq with cons := f r.cmdq.cons } }
  | .ecmdq i n => s.setEcmdq i n fun e => { e with cons := f e.cons }
  | .dcmdq i n => s.setEcmdq i n fun e => { e with cons := f e.cons }

/-- The DCMDQ control page of a DCMDQ (27_queues.md R731). -/
def dcmdqPage (d : Ids) (i : Sec) (n : Nat) : Nat := n / 2 ^ d.dcmdqLog2NumQ i

/-- The page's bit of SMMU_(*_)DCMDQP_ERRn differs from ERRNn (15_regs_ecmdq_dcmdq.md R412). -/
def dcmdqPageActive (r : Iface) (page : Nat) : Bool :=
  (r.dcmdqpErr.getD (page / 64) 0).getLsbD (page % 64) != (r.dcmdqpErrn.getD (page / 64) 0).getLsbD (page % 64)

/-- The reporting of an error of a DCMDQ on its control page and in GERROR.DCMDQP_ERR, if the page has no active error
(27_queues.md R741, R742). -/
def reportDcmdqPage (s : State) (i : Sec) (n : Nat) : State :=
  let page := dcmdqPage s.ids i n
  if dcmdqPageActive (s.iface i) page then s
  else
    raiseGerror (s.setIface i fun r => { r with dcmdqpErr := r.dcmdqpErr.modify (page / 64) (toggleBit · (page % 64)) })
      i .dcmdqp

/-- A command error: consumption stops with RD at the command, the code is written, the error becomes active
(60_exceptions.md R2170; 27_queues.md R723 for an ECMDQ, R742 for a DCMDQ). -/
def takeCmdError (s : State) (e : CmdErr) : State :=
  match s.cur with
  | .main i => raiseGerror (s.setCons s.cur fun c => putField c 24 7 e.code) i .cmdq
  | .ecmdq i _ => raiseGerror (s.setCons s.cur fun c => putField (toggleBit c 23) 24 3 e.code) i .cmdqp
  | .dcmdq i n => reportDcmdqPage (s.setCons s.cur fun c => putField (toggleBit c 23) 24 3 e.code) i n

/-- A hypervisor-serviced error of a DCMDQ (27_queues.md R743, R745). -/
def hsErrorOf (s : State) (i : Sec) (n : Nat) (e : HsErr) : State :=
  reportDcmdqPage (s.setCons (.dcmdq i n) fun c => putField (toggleBit c 22) 27 3 e.code) i n

/-- A hypervisor-serviced error of the DCMDQ whose command is processed. -/
def takeHsError (s : State) (e : HsErr) : State :=
  match s.cur with
  | .dcmdq i n => hsErrorOf s i n e
  | _ => s

/-! ## Consumption -/

/-- The command is consumed: RD moves past it; a WFE wake-up event is sent if the queue was full (30_encoding.md R1808, R1809;
27_queues.md R703, R721). -/
def State.consume (s : State) : State :=
  match s.queueRegs s.cur with
  | none => s
  | some r =>
    let n := cmdqLog2 s r.base
    let s' := s.setCons s.cur (indexAdvance · n)
    if queueFull r.prod r.cons n && s.ids.sev && s.cur != .main .rl then s'.send .sev else s'

/-- An entry of the CIT or a VSTT serves a qSID (27_queues.md R758). -/
def VsidEntry.serves (e : VsidEntry) (i : Sec) (qsid : BitVec 32) : Bool :=
  e.sec == i && e.qsid.toNat / 2 ^ e.span == qsid.toNat / 2 ^ e.span

/-- How the processing of a command ends. -/
inductive CmdOut where
  | consumed (s : State)
  | error (e : CmdErr) (s : State)
  | hsError (e : HsErr) (s : State)
  /-- the command is not complete: RD stays and nothing is signalled (44_cmd_fault_sync.md R2062) -/
  | waiting (s : State)
  deriving DecidableEq, Repr

/-- The state after a command: RD past it, or an error taken. -/
def CmdOut.state : CmdOut → State
  | .consumed s => s.consume
  | .error e s => takeCmdError s e
  | .hsError e s => takeHsError s e
  | .waiting s => s

/-- The outcome of a command, always a next state. -/
def finish (c : CmdOut) : Host.Outcome State Fault Refusal := .next c.state

/-- A command that is CERROR_ILL when `ill` holds and otherwise has its effect and is consumed (30_encoding.md R1806). -/
def command (s : State) (ill : Bool) (eff : State → State) : Host.Outcome State Fault Refusal :=
  finish (if ill then .error .ill s else .consumed (eff s))

end Sys2Proof.Machine
end

