-- ==== Sys2Proof/Machine/Events.lean ====
section
/-! DEFINITION. Event records: the events, their layouts, the conversion to F_PROTECTED (61_event_records.md). A field that
the spec calls UNKNOWN in a record is a free value (log entry 7); an IMPLEMENTATION DEFINED one is zero (log entry 20). No
records are merged (R2252). -/

namespace Sys2Proof.Machine

/-- CLASS (R2251). -/
inductive EvClass where
  | cd | tt | inp
  deriving DecidableEq, Repr

/-- The encoding of CLASS (R2251). -/
def EvClass.code : EvClass → Nat
  | .cd => 0
  | .tt => 1
  | .inp => 2

/-- The four Translation-related faults (64_fault_model.md R2301). -/
inductive TrfKind where
  | translation | addrSize | access | permission
  deriving DecidableEq, Repr

/-- The event number of a Translation-related fault (R2253). -/
def TrfKind.number : TrfKind → Nat
  | .translation => 0x10
  | .addrSize => 0x11
  | .access => 0x12
  | .permission => 0x13

/-- The transaction that an event is recorded for; `ind` and `pnu` after the STE overrides (R2251). -/
structure EvTxn where
  sec : Sec
  sid : BitVec 32
  ssid : Option (BitVec 20)
  addr : DWord
  rnw : Bool
  ind : Bool
  pnu : Bool
  /-- the attributes as they came (R2255) -/
  inInd : Bool
  inPnu : Bool
  pm : Bool
  deriving DecidableEq, Repr

/-- The fields of a Translation-related fault's record (R2266, R2269). -/
structure TrfInfo where
  kind : TrfKind
  s2 : Bool
  cls : EvClass
  ipa : DWord
  nsIpa : Bool
  assuredOnly : Bool := false
  dirtyBit : Bool := false
  /-- valid when cls is tt: the access to the stage 1 descriptor was a read -/
  ttRead : Bool := true
  overlay : Bool := false
  xt : Bool := false
  /-- an atomic access that lacks read permission only is recorded as a read (24_attributes.md R1403) -/
  asRead : Bool := false
  /-- the level of the walk (23_translation.md R2841); no record holds it (R2848) -/
  level : Int := 0
  deriving DecidableEq, Repr

/-- The events (R2253). -/
inductive Event where
  | uut
  | badStreamid
  | steFetch (addr : DWord) (gpcf : Bool)
  | badSte
  | badAtsTreq (r w x p : Bool) (span : BitVec 4)
  | streamDisabled
  | translForbidden
  | badSubstreamid (ssid : BitVec 20)
  | cdFetch (addr : DWord) (gpcf : Bool)
  | badCd
  /-- `v32`: a VMSAv8-32 descriptor -/
  | walkEabt (s2 : Bool) (cls : EvClass) (addr : DWord) (gpcf v32 : Bool)
  | trf (f : TrfInfo) (stag : Option (BitVec 16))
  | tlbConflict (s2 : Bool) (ipa : DWord) (nsIpa : Bool)
  | cfgConflict
  | vmsFetch (addr : DWord) (gpcf : Bool)
  | pageRequest (pR pW pX uR uW uX : Bool) (span : BitVec 8)
  deriving DecidableEq, Repr

/-- The event number (R2253). -/
def Event.number : Event → Nat
  | .uut => 0x01
  | .badStreamid => 0x02
  | .steFetch _ _ => 0x03
  | .badSte => 0x04
  | .badAtsTreq _ _ _ _ _ => 0x05
  | .streamDisabled => 0x06
  | .translForbidden => 0x07
  | .badSubstreamid _ => 0x08
  | .cdFetch _ _ => 0x09
  | .badCd => 0x0A
  | .walkEabt _ _ _ _ _ => 0x0B
  | .trf f _ => f.kind.number
  | .tlbConflict _ _ _ => 0x20
  | .cfgConflict => 0x21
  | .pageRequest _ _ _ _ _ _ _ => 0x24
  | .vmsFetch _ _ => 0x25

/-- The events that a Protected Mode transaction's record is converted from (R2254). -/
def Event.protectable : Event → Bool
  | .uut => true
  | .badAtsTreq _ _ _ _ _ => true
  | .translForbidden => true
  | .walkEabt _ _ _ _ _ => true
  | .trf _ _ => true
  | .tlbConflict _ _ _ => true
  | .pageRequest _ _ _ _ _ _ _ => true
  | _ => false

/-- SSV, SubstreamID and StreamID (R2251); without a SubstreamID the field is UNKNOWN. -/
def commonFields (number : Nat) (t : EvTxn) (u : DWord) : BitVec 256 :=
  let v := putField (0 : BitVec 256) 0 8 number
  let v := putBit v 11 t.ssid.isSome
  let v := putField v 12 20 ((t.ssid.getD (u.extractLsb' 0 20)).toNat)
  putField v 32 32 t.sid.toNat

/-- PnU, InD and RnW in bits 97, 98 and 99. -/
def attrFields (v : BitVec 256) (pnu ind rnw : Bool) : BitVec 256 :=
  putBit (putBit (putBit v 97 pnu) 98 (ind && rnw)) 99 rnw

/-- GPCF and FetchAddr of a fetch event (R2257), Reason zero; bits of the address at and above the OAS are zero (R2251), but
below bit `top` they are UNKNOWN, those of `u`. -/
def fetchFields (d : Ids) (v : BitVec 256) (addr : DWord) (gpcf : Bool) (top : Nat) (u : DWord) : BitVec 256 :=
  let v := putBit v 80 (gpcf && d.rmeImpl)
  putField v 195 53 ((fieldNat addr 0 d.oas + fieldNat u d.oas (top - d.oas) * 2 ^ d.oas) / 8)

/-- The bit below which FetchAddr is UNKNOWN from the OAS on: 48 in SMMUv3.0; of a Stream table fetch 52 in SMMUv3.1, of a VMS
fetch 52 in all later versions, of a descriptor fetch 48 for VMSAv8-32 with a smaller OAS than 40 bits (R2257, R2263, R2265,
R2273). -/
def Event.fetchTop (d : Ids) : Event → Nat
  | .steFetch _ _ => if d.atLeast 2 then 0 else if d.atLeast 1 then 52 else 48
  | .cdFetch _ _ => if d.atLeast 1 then 0 else 48
  | .vmsFetch _ _ => if d.atLeast 1 then 52 else 48
  | .walkEabt _ _ _ _ v32 => if v32 && decide (d.oas < 40) then 48 else 0
  | _ => 0

/-- The record of an event; `u` gives the UNKNOWN values (R2255 to R2274). The fields that IMPLEMENTATION DEFINED values fill
are zero (93_implementation_defined.md, the row of R2255; log entry 20; so they are with PM too, 25_dpt_gpc.md R1623). -/
def eventRecord (d : Ids) (u : Nat → DWord) (t : EvTxn) (e : Event) : BitVec 256 :=
  let common := commonFields e.number t (u 0)
  let bare := putField (putField (0 : BitVec 256) 0 8 e.number) 32 32 t.sid.toNat
  let fetch (v : BitVec 256) (a : DWord) (g : Bool) : BitVec 256 := fetchFields d v a g (e.fetchTop d) (u 4)
  let withAddr (v : BitVec 256) : BitVec 256 := putField v 128 64 t.addr.toNat
  if e.protectable && d.gdi && t.pm then commonFields 0x26 t (u 0)
  else
    match e with
    | .uut => withAddr (attrFields common t.inPnu t.inInd t.rnw)
    | .badStreamid => common
    | .steFetch a g => fetch common a g
    | .badSte => common
    | .badAtsTreq r w x p span =>
      let v := putField common 64 4 span.toNat
      let v := putBit (putBit (putBit (putBit v 92 p) 93 x) 94 w) 95 r
      putField v 140 52 (fieldNat t.addr 12 52)
    | .streamDisabled => bare
    | .translForbidden => withAddr (putBit bare 99 t.rnw)
    | .badSubstreamid ss => putField bare 12 20 ss.toNat
    | .cdFetch a g => fetch common a g
    | .badCd => common
    | .walkEabt s2 cls a g _ =>
      let v := putField (putBit (attrFields common t.pnu t.ind t.rnw) 103 s2) 104 2 cls.code
      withAddr (fetch v a g)
    | .trf f stag =>
      let v := attrFields common t.pnu t.ind (t.rnw || f.asRead)
      let v := putField v 64 16 ((stag.getD ((u 1).extractLsb' 0 16)).toNat)
      let v := putBit v 95 stag.isSome
      let v := putBit v 100 (f.nsIpa && t.sec == .s && f.s2)
      let v := putField (putBit v 103 f.s2) 104 2 f.cls.code
      let v := withAddr v
      let ipa := if f.s2 then fieldNat f.ipa 0 d.oas / 2 ^ 12 else fieldNat (u 2) 0 d.oas / 2 ^ 12
      let v := putField v 204 44 ipa
      if f.kind = .permission then
        let v := putBit v 106 (f.assuredOnly && d.s2pi)
        let v := putBit v 107 (f.dirtyBit && (d.s2pi || d.s1pi))
        let v := putBit v 108 (if f.cls = .tt then f.ttRead else (u 3).getLsbD 0)
        let v := putBit v 109 (f.overlay && d.s2po)
        putBit v 111 (f.xt && d.xt)
      else v
    | .tlbConflict s2 ipa nsIpa =>
      let v := attrFields common t.pnu t.ind t.rnw
      let v := putBit (putBit v 100 (nsIpa && t.sec == .s && s2)) 103 s2
      let v := withAddr v
      putField v 204 44 (fieldNat (if s2 then ipa else u 2) 0 d.oas / 2 ^ 12)
    | .cfgConflict => common
    | .pageRequest pR pW pX uR uW uX span =>
      let v := putBit (putBit (putBit common 97 uX) 98 uW) 99 uR
      let v := putBit (putBit (putBit v 101 pX) 102 pW) 103 pR
      putField (putField v 108 8 span.toNat) 140 52 (fieldNat t.addr 12 52)
    | .vmsFetch a g => fetch common a g

/-- The record of an event at a state, five free values used. -/
def State.recordOf (s : State) (t : EvTxn) (e : Event) : BitVec 256 × State :=
  (eventRecord s.ids (fun k => Config.freeValue (s.free + k)) t e, { s with free := s.free + 5 })

/-- An event of a transaction that is not stalled is recorded (60_exceptions.md R2160). -/
def emitEvent (s : State) (t : EvTxn) (e : Event) : State :=
  match s.recordOf t e with
  | (rec, s) => recordEvent s t.sec rec

end Sys2Proof.Machine
end

