-- ==== Sys2Proof/Machine/Structs.lean ====
section
/-! DEFINITION. The fields of the STE (21_streams_ste.md) and the CD (22_cd_vms.md), the StreamWorld, and what an STE
configures: effective EATS, S1CDMax, VMIDs. -/

namespace Sys2Proof.Machine

/-- A Stream Table Entry (21_streams_ste.md R860). -/
abbrev Ste := BitVec 512

/-- A Context Descriptor (22_cd_vms.md R1055). -/
abbrev Cd := BitVec 512

/-! ## STE fields (21_streams_ste.md) -/

/-- V (R862). -/
def Ste.valid (x : Ste) : Bool := x.getLsbD 0

/-- Config (R863). -/
def Ste.config (x : Ste) : Nat := fieldNat x 1 3

/-- S1Fmt (R864). -/
def Ste.s1fmt (x : Ste) : Nat := fieldNat x 4 2

/-- S1CDMax (R866). -/
def Ste.s1cdmax (x : Ste) : Nat := fieldNat x 59 5

/-- S1DSS (R867). -/
def Ste.s1dss (x : Ste) : Nat := fieldNat x 64 2

/-- S2HWU59 to S2HWU62 (R869). -/
def Ste.hwu (x : Ste) : Nat := fieldNat x 72 4

/-- S1CIR (R868). -/
def Ste.s1cir (x : Ste) : Nat := fieldNat x 66 2

/-- S1COR (R868). -/
def Ste.s1cor (x : Ste) : Nat := fieldNat x 68 2

/-- DRE (R870). -/
def Ste.dre (x : Ste) : Bool := x.getLsbD 76

/-- CONT (R871). -/
def Ste.cont (x : Ste) : Nat := fieldNat x 77 4

/-- DCP (R872). -/
def Ste.dcp (x : Ste) : Bool := x.getLsbD 81

/-- PPAR (R873). -/
def Ste.ppar (x : Ste) : Bool := x.getLsbD 82

/-- S1PIE (R876). -/
def Ste.s1pie (x : Ste) : Bool := x.getLsbD 88

/-- S2FWB (R877). -/
def Ste.s2fwb (x : Ste) : Bool := x.getLsbD 89

/-- S1MPAM (R878). -/
def Ste.s1mpam (x : Ste) : Bool := x.getLsbD 90

/-- S1STALLD (R879). -/
def Ste.s1stalld (x : Ste) : Bool := x.getLsbD 91

/-- EATS (R880). -/
def Ste.eatsField (x : Ste) : Nat := fieldNat x 92 2

/-- STRW (R881). -/
def Ste.strw (x : Ste) : Nat := fieldNat x 94 2

/-- MemAttr (R882). -/
def Ste.memAttr (x : Ste) : BitVec 4 := x.extractLsb' 96 4

/-- MTCFG (R883). -/
def Ste.mtcfg (x : Ste) : Bool := x.getLsbD 100

/-- ALLOCCFG (R884). -/
def Ste.alloccfg (x : Ste) : BitVec 4 := x.extractLsb' 101 4

/-- SHCFG (R885). -/
def Ste.shcfg (x : Ste) : Nat := fieldNat x 108 2

/-- NSCFG (R886). -/
def Ste.nscfg (x : Ste) : Nat := fieldNat x 110 2

/-- PRIVCFG (R887). -/
def Ste.privcfg (x : Ste) : Nat := fieldNat x 112 2

/-- INSTCFG (R887). -/
def Ste.instcfg (x : Ste) : Nat := fieldNat x 114 2

/-- S2VMID (R890). -/
def Ste.s2vmid (x : Ste) : BitVec 16 := x.extractLsb' 128 16

/-- S2T0SZ (R891). -/
def Ste.s2t0sz (x : Ste) : Nat := fieldNat x 160 6

/-- S2SL0 (R892). -/
def Ste.s2sl0 (x : Ste) : Nat := fieldNat x 166 2

/-- S2IR0 (R893). -/
def Ste.s2ir0 (x : Ste) : Nat := fieldNat x 168 2

/-- S2OR0 (R893). -/
def Ste.s2or0 (x : Ste) : Nat := fieldNat x 170 2

/-- S2SH0 (R893). -/
def Ste.s2sh0 (x : Ste) : Nat := fieldNat x 172 2

/-- S2TG (R894). -/
def Ste.s2tg (x : Ste) : Nat := fieldNat x 174 2

/-- S2PS (R895). -/
def Ste.s2ps (x : Ste) : Nat := fieldNat x 176 3

/-- S2AA64 (R896). -/
def Ste.s2aa64 (x : Ste) : Bool := x.getLsbD 179

/-- S2ENDI (R897). -/
def Ste.s2endi (x : Ste) : Bool := x.getLsbD 180

/-- S2AFFD (R898). -/
def Ste.s2affd (x : Ste) : Bool := x.getLsbD 181

/-- S2PTW (R899). -/
def Ste.s2ptw (x : Ste) : Bool := x.getLsbD 182

/-- S2HD (R900). -/
def Ste.s2hd (x : Ste) : Bool := x.getLsbD 183

/-- S2HA (R900). -/
def Ste.s2ha (x : Ste) : Bool := x.getLsbD 184

/-- S2S (R901). -/
def Ste.s2s (x : Ste) : Bool := x.getLsbD 185

/-- S2R (R901). -/
def Ste.s2r (x : Ste) : Bool := x.getLsbD 186

/-- S2HAFT (R902). -/
def Ste.s2haft (x : Ste) : Bool := x.getLsbD 187

/-- S2PIE (R903). -/
def Ste.s2pie (x : Ste) : Bool := x.getLsbD 188

/-- S2POE (R904). -/
def Ste.s2poe (x : Ste) : Bool := x.getLsbD 189

/-- DPT_VMATCH (R905). -/
def Ste.dptVmatch (x : Ste) : Nat := fieldNat x 190 2

/-- S2NSW (R906). -/
def Ste.s2nsw (x : Ste) : Bool := x.getLsbD 192

/-- S2NSA (R906). -/
def Ste.s2nsa (x : Ste) : Bool := x.getLsbD 193

/-- S2SL0_2 (R907). -/
def Ste.s2sl02 (x : Ste) : Nat := fieldNat x 194 1

/-- S2DS (R908). -/
def Ste.s2ds (x : Ste) : Bool := x.getLsbD 195

/-- S2SKL (R910). -/
def Ste.s2skl (x : Ste) : Nat := fieldNat x 253 2

/-- PARTID (R911). -/
def Ste.partid (x : Ste) : BitVec 16 := x.extractLsb' 272 16

/-- S_S2T0SZ (R912). -/
def Ste.ss2t0sz (x : Ste) : Nat := fieldNat x 288 6

/-- S_S2SL0 (R912). -/
def Ste.ss2sl0 (x : Ste) : Nat := fieldNat x 294 2

/-- S2HDBSS (R913). -/
def Ste.s2hdbss (x : Ste) : Bool := x.getLsbD 296

/-- S_S2TG (R912). -/
def Ste.ss2tg (x : Ste) : Nat := fieldNat x 302 2

/-- MECID (R914). -/
def Ste.mecidField (x : Ste) : BitVec 16 := x.extractLsb' 304 16

/-- PMG (R911). -/
def Ste.pmg (x : Ste) : BitVec 8 := x.extractLsb' 320 8

/-- MPAM_NS (R915). -/
def Ste.mpamNs (x : Ste) : Bool := x.getLsbD 328

/-- AssuredOnly (R916). -/
def Ste.assuredOnly (x : Ste) : Bool := x.getLsbD 329

/-- TL0 (R916). -/
def Ste.tl0 (x : Ste) : Bool := x.getLsbD 330

/-- TL1 (R916). -/
def Ste.tl1 (x : Ste) : Bool := x.getLsbD 331

/-- S2SW (R918). -/
def Ste.s2sw (x : Ste) : Bool := x.getLsbD 384

/-- S2SA (R918). -/
def Ste.s2sa (x : Ste) : Bool := x.getLsbD 385

/-- S_S2SL0_2 (R919). -/
def Ste.ss2sl02 (x : Ste) : Nat := fieldNat x 386 1

/-- S_S2SKL (R921). -/
def Ste.ss2skl (x : Ste) : Nat := fieldNat x 445 2

/-- S1ContextPtr (R865). -/
def Ste.s1ContextPtr (x : Ste) : DWord := x.extractLsb' 0 64 &&& maskAt 64 6 50

/-- VMSPtr (R917). -/
def Ste.vmsPtr (x : Ste) : DWord := (x.extractLsb' 320 64 &&& maskAt 64 12 44)

/-- S2POI<p> (R922). -/
def Ste.s2poi (x : Ste) (p : Nat) : Nat := fieldNat x (448 + 4 * p) 4

/-! ## CD fields (22_cd_vms.md) -/

/-- T0SZ (R1056). -/
def Cd.t0sz (x : Cd) : Nat := fieldNat x 0 6

/-- TG0 (R1057). -/
def Cd.tg0 (x : Cd) : Nat := fieldNat x 6 2

/-- IR0 (R1058). -/
def Cd.ir0 (x : Cd) : Nat := fieldNat x 8 2

/-- OR0 (R1058). -/
def Cd.or0 (x : Cd) : Nat := fieldNat x 10 2

/-- IR1 (R1061). -/
def Cd.ir1 (x : Cd) : Nat := fieldNat x 24 2

/-- OR1 (R1061). -/
def Cd.or1 (x : Cd) : Nat := fieldNat x 26 2

/-- SH0 (R1058). -/
def Cd.sh0 (x : Cd) : Nat := fieldNat x 12 2

/-- EPD0 (R1059). -/
def Cd.epd0 (x : Cd) : Bool := x.getLsbD 14

/-- ENDI (R1060). -/
def Cd.endi (x : Cd) : Bool := x.getLsbD 15

/-- T1SZ (R1061). -/
def Cd.t1sz (x : Cd) : Nat := fieldNat x 16 6

/-- TG1 (R1061). -/
def Cd.tg1 (x : Cd) : Nat := fieldNat x 22 2

/-- SH1 (R1061). -/
def Cd.sh1 (x : Cd) : Nat := fieldNat x 28 2

/-- EPD1 (R1061). -/
def Cd.epd1 (x : Cd) : Bool := x.getLsbD 30

/-- V (R1062). -/
def Cd.valid (x : Cd) : Bool := x.getLsbD 31

/-- IPS (R1063). -/
def Cd.ips (x : Cd) : Nat := fieldNat x 32 3

/-- AFFD (R1064). -/
def Cd.affd (x : Cd) : Bool := x.getLsbD 35

/-- WXN (R1065). -/
def Cd.wxn (x : Cd) : Bool := x.getLsbD 36

/-- UWXN (R1065). -/
def Cd.uwxn (x : Cd) : Bool := x.getLsbD 37

/-- TBI0 (R1066). -/
def Cd.tbi0 (x : Cd) : Bool := x.getLsbD 38

/-- TBI1 (R1066). -/
def Cd.tbi1 (x : Cd) : Bool := x.getLsbD 39

/-- PAN (R1067). -/
def Cd.pan (x : Cd) : Bool := x.getLsbD 40

/-- AA64 (R1068). -/
def Cd.aa64 (x : Cd) : Bool := x.getLsbD 41

/-- HD (R1069). -/
def Cd.hd (x : Cd) : Bool := x.getLsbD 42

/-- HA (R1069). -/
def Cd.ha (x : Cd) : Bool := x.getLsbD 43

/-- S (R1070). -/
def Cd.stall (x : Cd) : Bool := x.getLsbD 44

/-- R (R1070). -/
def Cd.record (x : Cd) : Bool := x.getLsbD 45

/-- A (R1070). -/
def Cd.abort (x : Cd) : Bool := x.getLsbD 46

/-- ASET (R1071). -/
def Cd.aset (x : Cd) : Bool := x.getLsbD 47

/-- ASID (R1072). -/
def Cd.asid (x : Cd) : BitVec 16 := x.extractLsb' 48 16

/-- NSCFG0 (R1073). -/
def Cd.nscfg0 (x : Cd) : Bool := x.getLsbD 64

/-- HAD0 or DisCH0 (R1074). -/
def Cd.had0 (x : Cd) : Bool := x.getLsbD 65

/-- E0PD0 (R1075). -/
def Cd.e0pd0 (x : Cd) : Bool := x.getLsbD 66

/-- HAFT (R1076). -/
def Cd.haft (x : Cd) : Bool := x.getLsbD 67

/-- FNG0 (R1078). -/
def Cd.fng0 (x : Cd) : Bool := x.getLsbD 120

/-- MTOp (R1079). -/
def Cd.mtop (x : Cd) : Bool := x.getLsbD 121

/-- PnCH (R1080). -/
def Cd.pnch (x : Cd) : Bool := x.getLsbD 122

/-- EPAN (R1081). -/
def Cd.epan (x : Cd) : Bool := x.getLsbD 123

/-- HWU059 to HWU062 (R1082). -/
def Cd.hwu0 (x : Cd) : Nat := fieldNat x 124 4

/-- HWU159 to HWU162 (R1082). -/
def Cd.hwu1 (x : Cd) : Nat := fieldNat x 188 4

/-- SKL0 (R1082). -/
def Cd.skl0 (x : Cd) : Nat := fieldNat x 126 2

/-- NSCFG1 (R1073). -/
def Cd.nscfg1 (x : Cd) : Bool := x.getLsbD 128

/-- HAD1 or DisCH1 (R1074). -/
def Cd.had1 (x : Cd) : Bool := x.getLsbD 129

/-- E0PD1 (R1075). -/
def Cd.e0pd1 (x : Cd) : Bool := x.getLsbD 130

/-- AIE (R1083). -/
def Cd.aie (x : Cd) : Bool := x.getLsbD 131

/-- FNG1 (R1078). -/
def Cd.fng1 (x : Cd) : Bool := x.getLsbD 184

/-- DS (R1084). -/
def Cd.ds (x : Cd) : Bool := x.getLsbD 186

/-- PIE (R1085). -/
def Cd.pie (x : Cd) : Bool := x.getLsbD 187

/-- SKL1 (R1082). -/
def Cd.skl1 (x : Cd) : Nat := fieldNat x 190 2

/-- PARTID (R1088). -/
def Cd.partid (x : Cd) : BitVec 16 := x.extractLsb' 352 16

/-- PMG (R1088). -/
def Cd.pmg (x : Cd) : BitVec 8 := x.extractLsb' 368 8

/-- PIIU<p> (R1089). -/
def Cd.piiu (x : Cd) (p : Nat) : Nat := fieldNat x (384 + 3 * p) 3

/-- PIIP<p> (R1089). -/
def Cd.piip (x : Cd) (p : Nat) : Nat := fieldNat x (448 + 3 * p) 3

/-- The MAIR byte that an index selects (R1086). -/
def Cd.mair (x : Cd) (idx : Nat) : BitVec 8 := x.extractLsb' (192 + 8 * min idx 7) 8

/-! ## What they configure -/

/-- The table format that AA64 or S2AA64 selects (R896, R1068). -/
inductive TtFmt where
  | v32 | v64 | v128
  deriving DecidableEq, Repr

/-- See `TtFmt`. -/
def ttFmt (d : Ids) (aa64 : Bool) : TtFmt := if aa64 then .v64 else if d.d128 then .v128 else .v32

/-- Stage 1 translates, if S1DSS does not skip it (R863). -/
def Ste.s1On (x : Ste) : Bool := x.config == 5 || x.config == 7

/-- Stage 2 translates (R863). -/
def Ste.s2On (x : Ste) : Bool := x.config == 6 || x.config == 7

/-- Substreams in use: log2 of the number of CDs, zero without substream support (R866). -/
def Ste.cdMax (d : Ids) (x : Ste) : Nat := if d.ssidSize = 0 then 0 else x.s1cdmax

/-- strw_unused of R930. -/
def strwUnused (d : Ids) (i : Sec) (x : Ste) : Bool := !d.s1p || (i == .ns && !d.hyp) || x.s2On || x.config == 4

/-- E2H of the interface (12_regs_control.md R172, 14_regs_secure.md, 16_regs_root_realm.md). -/
def State.e2h (s : State) (i : Sec) : Bool := (s.iface i).cr2.getLsbD 0

/-- The StreamWorld of a valid STE (R881). -/
def streamWorld (s : State) (i : Sec) (x : Ste) : World :=
  let strw := if strwUnused s.ids i x then 0 else x.strw
  match i, strw with
  | .ns, 2 => if s.e2h .ns then .nsEl2E2h else .nsEl2
  | .ns, _ => .nsEl1
  | .rl, 2 => if s.e2h .rl then .realmEl2E2h else .realmEl2
  | .rl, _ => .realmEl1
  | .s, 2 => if s.e2h .s then .sEl2E2h else .sEl2
  | .s, 1 => .el3
  | .s, _ => .secure

/-- any-EL2 (23_translation.md R2784). -/
def World.isEl2 : World → Bool
  | .nsEl2 | .sEl2 | .realmEl2 => true
  | _ => false

/-- any-EL2-E2H (R2784). -/
def World.isEl2E2h : World → Bool
  | .nsEl2E2h | .sEl2E2h | .realmEl2E2h => true
  | _ => false

/-- One table, no privilege: any-EL2 and EL3 (R2786). -/
def World.single (w : World) : Bool := w.isEl2 || w == .el3

/-- The StreamWorlds of EL1 (R2784). -/
def World.isEl1 : World → Bool
  | .nsEl1 | .realmEl1 | .secure => true
  | _ => false

/-- The effective EATS, ATSCHK taken from the interface (R880). -/
def effEats (s : State) (i : Sec) (x : Ste) : Nat :=
  let atschk := (s.iface i).cr0ack.getLsbD 4
  if i = .s || !s.ids.atsOf i || x.config == 4 then 0
  else
    match x.eatsField with
    | 1 => 1
    | 2 => if atschk then 2 else 0
    | 3 => if !s.ids.dpt i || !atschk then 0 else 3
    | _ => 0

/-- s2vmid_ignored of R930. -/
def s2vmidIgnored (d : Ids) (i : Sec) (x : Ste) : Bool :=
  x.config < 4 || (i == .ns && !d.s2p) || (i == .s && !d.sel2) || x.config == 4
    || (x.strw != 0 && !strwUnused d i x) || (i == .s && x.config == 5)

/-- The VMID that tags the stream's translations, none for a regime without VMIDs (R890; a Secure stage 1 only stream uses
VMID 0). -/
def steVmid (d : Ids) (i : Sec) (w : World) (x : Ste) : Option (BitVec 16) :=
  if !w.isEl1 || !d.stage2Of i then none
  else if i = .s && !x.s2On then some 0
  else some x.s2vmid

/-- An IPS or S2PS field as a number of bits, the reserved values capped as R895 and R1063 say, limited to the OAS. -/
def paRange (d : Ids) (fmt : TtFmt) (v : Nat) : Nat :=
  match fmt with
  | .v32 => 40
  | _ =>
    let n := match v with
      | 0 => 32
      | 1 => 36
      | 2 => 40
      | 3 => 42
      | 4 => 44
      | 5 => 48
      | 6 => if d.atLeast 1 then 52 else 48
      | _ => if d.atLeast 4 then 56 else if d.atLeast 1 then 52 else 48
    min n d.oas

/-- A granule code of TG0 or S2TG as log2 of the bytes (R894, R1057). -/
def granule0 (v : Nat) : Option Nat :=
  match v with
  | 0 => some 12
  | 1 => some 16
  | 2 => some 14
  | _ => none

/-- A granule code of TG1 (R1061). -/
def granule1 (v : Nat) : Option Nat :=
  match v with
  | 1 => some 14
  | 2 => some 12
  | 3 => some 16
  | _ => none

/-- The granule is supported (11_regs_id.md R105). -/
def granSupported (d : Ids) : Option Nat → Bool
  | some 12 => d.gran4
  | some 14 => d.gran16
  | some 16 => d.gran64
  | _ => false

/-- A 52-bit table base field at bit `lo` of a structure (R909, R920, R1077). -/
def ttbField (d : Ids) (fmt : TtFmt) (x : BitVec 512) (lo : Nat) : DWord :=
  let n := match fmt with
    | .v128 => 52
    | _ => if d.atLeast 1 then 48 else 44
  BitVec.ofNat 64 (fieldNat x lo n * 16)

/-- STALL_MODEL in effect for streams of a Security state (R930). -/
def stallModelOf (s : State) (i : Sec) : Nat := s.stallModel i

/-- The MECID of the stream's accesses, above MECIDSIZE zero (R914). -/
def Ste.mecid (d : Ids) (i : Sec) (x : Ste) : BitVec 16 :=
  if i = .rl && d.mec && x.config ≥ 4 then BitVec.ofNat 16 (x.mecidField.toNat % 2 ^ (d.mecidSize + 1)) else 0

end Sys2Proof.Machine
end

