-- ==== Sys2Proof/Machine/Validity.lean ====
section
/-! DEFINITION. The validity of an STE (21_streams_ste.md R930) and of a CD (22_cd_vms.md R1105). -/

namespace Sys2Proof.Machine

/-- StreamIDs of DCMDQ control pages: SID<31:n> equals QSID_BASE<31:n> (21_streams_ste.md R930 step 0; 27_queues.md R734). -/
def isQsid (d : Ids) (i : Sec) (sid : BitVec 32) : Bool :=
  d.present i && d.dcmdq i &&
    sid.toNat / 2 ^ d.dcmdqLog2NumP i == (d.idr7Of i).toNat / 2 ^ d.dcmdqLog2NumP i

/-- The bits that one level resolves, for descriptors of 2^`log` bytes. -/
def strideOf (gran log : Nat) : Nat := gran - log

/-- log2 of the bytes of a descriptor (R2840, R2841). -/
def descLog (fmt : TtFmt) : Nat := if fmt = .v128 then 4 else 3

/-- log2 of the bytes that a descriptor maps which has `below` levels below its own (R2844; 22_cd_vms.md R1105 for
VMSAv9-128). -/
def levelShift (fmt : TtFmt) (gran below : Nat) : Nat := gran + below * strideOf gran (descLog fmt)

/-- log2 of the bytes of a start table that resolves the input bits above the bytes its descriptors map, which is the
table's alignment (R2844, R2845). -/
def startTableLog2 (fmt : TtFmt) (gran below size : Nat) : Nat := size - levelShift fmt gran below + descLog fmt

/-- The levels below the start level of a VMSAv9-128 walk (startlevel of SLInvalidD128, 22_cd_vms.md R1105). -/
def startBelow128 (size gran skl : Nat) : Nat := (size - 1 - gran) / strideOf gran 4 - skl

/-- The start level of a VMSAv8-64 stage 2 walk, plus one (23_translation.md R2845; PRESUMED, log entry 12). -/
def s2StartLevel (d : Ids) (gran sl0 sl2 : Nat) (ds : Bool) : Option Nat :=
  match gran with
  | 12 =>
    if ds && sl2 = 1 then (if sl0 = 0 then some 0 else none)
    else
      match sl0 with
      | 0 => some 3
      | 1 => some 2
      | 2 => some 1
      | _ => if d.stt then some 4 else none
  | 14 =>
    match sl0 with
    | 0 => some 4
    | 1 => some 3
    | 2 => some 2
    | _ => if ds then some 1 else none
  | _ =>
    match sl0 with
    | 0 => some 4
    | 1 => some 3
    | 2 => some 2
    | _ => none

/-- The input bits that the start level `l1` - 1 resolves, none if the size ends above it (R2845). -/
def startBits (gran l1 size : Nat) : Nat := size - (gran + (4 - l1) * strideOf gran 3)

/-- S2T0SZ, S2SL0 and the granule are consistent for VMSAv8-64: 1 to 16 concatenated tables at the start level (R2845). -/
def s2Consistent64 (d : Ids) (t0sz sl0 sl2 gran : Nat) (ds : Bool) : Bool :=
  match s2StartLevel d gran sl0 sl2 ds with
  | none => false
  | some l1 =>
    let b := startBits gran l1 (64 - t0sz)
    decide (1 ≤ b ∧ b ≤ strideOf gran 3 + 4)

/-- VTCR.T0SZ of VMSAv8-32 LPAE: the input size from the 4-bit signed field (21_streams_ste.md R891). -/
def s2Size32 (t0sz : Nat) : Nat := if t0sz % 16 < 8 then 32 - t0sz % 16 else 48 - t0sz % 16

/-- S2T0SZ and S2SL0 are consistent for VMSAv8-32 LPAE (R2845). -/
def s2Consistent32 (t0sz sl0 : Nat) : Bool :=
  match sl0 with
  | 0 => decide (1 ≤ startBits 12 3 (s2Size32 t0sz) ∧ startBits 12 3 (s2Size32 t0sz) ≤ 13)
  | 1 => decide (1 ≤ startBits 12 2 (s2Size32 t0sz) ∧ startBits 12 2 (s2Size32 t0sz) ≤ 13)
  | _ => false

/-- SLInvalidD128 (22_cd_vms.md R1105). -/
def slInvalid128 (skl txsz gran : Nat) : Bool :=
  decide (3 < (3 : Int) - (((64 - txsz : Int) - 1 - gran) / (gran - 4 : Int)) + skl)

/-- STES2T0SZInvalid (R930): the field lies outside its bounds, those of VMSAv9-128 without regard to STT (R891). -/
def s2T0szInvalid (d : Ids) (fmt : TtFmt) (t0sz : Nat) (gran : Nat) (ds : Bool) : Bool :=
  let max := if d.stt || fmt = .v128 then (if gran = 16 then 47 else 48) else 39
  let lim := 64 - d.ias
  let min := if !d.atLeast 1 then lim else if fmt = .v128 then Nat.max 8 lim
    else if gran = 16 || (d.ds && ds) then Nat.max 12 lim else Nat.max 16 lim
  decide (t0sz < min ∨ max < t0sz)

/-- The bits that a table base, a PA or an IPA, may have: those of the output size, and for a PA those of the OAS (20_memory.md
R617, R620); VMSAv8-32 always has 40, of which an access truncates to the OAS (61_event_records.md R2265). -/
def tableRange (d : Ids) (fmt : TtFmt) (pa : Bool) (ps : Nat) : Nat :=
  if pa && fmt != .v32 then min (paRange d fmt ps) d.oas else paRange d fmt ps

/-- A table base is out of range (R909, R1077). -/
def ttbOutOfRange (fmt : TtFmt) (base : DWord) (range gran : Nat) (ds : Bool) : Bool :=
  decide (2 ^ range ≤ base.toNat) || (fmt == .v64 && gran < 16 && !ds && decide (2 ^ 48 ≤ base.toNat))

/-- One of the two sets of stage 2 table fields: granule, size, start level, base (R930 step 8). -/
def s2TablesIllegal (d : Ids) (fmt : TtFmt) (range : Nat) (ds : Bool) (gran : Option Nat) (t0sz sl0 sl2 skl : Nat)
    (base : DWord) : Bool :=
  let g := gran.getD 12
  (fmt != .v32 && !granSupported d gran)
    || ttbOutOfRange fmt base range g ds
    || (fmt != .v32 && s2T0szInvalid d fmt t0sz g ds)
    || (match fmt with
      | .v32 => !s2Consistent32 t0sz sl0
      | .v64 => !s2Consistent64 d t0sz sl0 sl2 g ds
      | .v128 => slInvalid128 skl t0sz g)

/-- S2DS in effect: RES0 with a 64KB granule of the stream's stage 2 tables (R908). -/
def Ste.effDs (d : Ids) (i : Sec) (x : Ste) : Bool :=
  d.ds && ttFmt d x.s2aa64 == .v64 && x.s2ds && x.s2tg != 1 && !(i == .s && x.ss2tg == 1)

/-- The VMS is supported by a Security state (22_cd_vms.md R1121). -/
def vmsSupported (d : Ids) (i : Sec) : Bool :=
  let partMax (r : BitVec 32) : Bool := fieldNat r 0 16 != 0
  d.mpam && d.s1p && d.s2p &&
  match i with
  | .ns => partMax d.mpamidr
  | .s => d.sel2 && (partMax d.sMpamidr || (partMax d.mpamidr && d.hasMpamNs .s))
  | .rl => partMax d.rMpamidr || (partMax d.mpamidr && d.hasMpamNs .rl)

/-- MPAM_NS in effect (R915). -/
def Ste.effMpamNs (d : Ids) (i : Sec) (x : Ste) : Bool := d.hasMpamNs i && x.mpamNs

/-- SMMU_(*_)MPAMIDR that bounds a stream's PARTID and PMG (R911). -/
def mpamLimits (d : Ids) (i : Sec) (x : Ste) : BitVec 32 := if x.effMpamNs d i then d.mpamidr else d.mpamidrOf i

/-- The VMS pointer is enabled (R917). -/
def vmsEnabled (d : Ids) (i : Sec) (x : Ste) : Bool :=
  vmsSupported d i && x.config == 7 && x.s1mpam && fieldNat (mpamLimits d i x) 0 16 != 0

/-- R930 step 5; in SMMUv3.0 constr_unpred_EATS_S2S is a parameter (log entry 2). -/
def steAtsIllegal (s : State) (i : Sec) (x : Ste) : Bool :=
  let d := s.ids
  i != .s && d.atsOf i && x.config % 4 != 0 &&
  match x.eatsField with
  | 2 => x.config != 7 || x.s2s || d.ns1ats
  | 1 => x.s2s && (x.s2On || (!d.atLeast 1 && s.impl.eatsS2sIllegalV30))
  | 3 => (d.dpt i && !strwUnused d i x && x.strw != 0) || (i == .rl && d.dpt i && x.dptVmatch != 0)
      || (x.s2On && x.s2s)
  | _ => false

/-- R930 step 6. -/
def steStrwIllegal (d : Ids) (i : Sec) (x : Ste) : Bool :=
  !strwUnused d i x &&
  if i = .s then x.strw == 3 || (x.strw == 1 && d.rmeImpl) || (!d.sel2 && x.strw == 2 && x.config == 5)
  else x.strw % 2 == 1

/-- R930 step 7: stage 1. -/
def steS1Illegal (s : State) (i : Sec) (x : Ste) : Bool :=
  let d := s.ids
  x.s1On &&
  ((x.s1stalld && (if i = .rl then stallModelOf s i == 1 else stallModelOf s i != 0))
    || (d.ssidSize != 0 && x.s1cdmax > d.ssidSize)
    || (d.ssidSize != 0 && x.s1cdmax != 0 && !d.cd2l && (x.s1fmt == 1 || x.s1fmt == 2))
    || decide (2 ^ (if x.s2On then d.ias else d.oas) ≤ x.s1ContextPtr.toNat))

/-- R930 step 8: stage 2. -/
def steS2Illegal (s : State) (i : Sec) (x : Ste) : Bool :=
  let d := s.ids
  let fmt := ttFmt d x.s2aa64
  let range := tableRange d fmt true x.s2ps
  let ds := x.effDs d i
  x.s2On &&
  ((fmt == .v32 && d.fwb && x.s2fwb)
    || (x.s2s && stallModelOf s i == 1)
    || (!x.s2s && i != .rl && stallModelOf s i == 2)
    || (fmt == .v32 && !d.ttf32)
    || (fmt == .v64 && !d.ttf64)
    || ((x.s2ha || x.s2hd) && (fmt == .v32 || d.httu == 0))
    || (x.s2hd && d.httu == 1)
    || (x.s2haft && !x.s2ha && d.httu == 3)
    || s2TablesIllegal d fmt range ds (granule0 x.s2tg) x.s2t0sz x.s2sl0 x.s2sl02 x.s2skl (ttbField d fmt x 196)
    || (i == .s && s2TablesIllegal d fmt range ds (granule0 x.ss2tg) x.ss2t0sz x.ss2sl0 x.ss2sl02 x.ss2skl
        (ttbField d fmt x 388))
    || (d.ttEndian == 2 && x.s2endi) || (d.ttEndian == 3 && !x.s2endi)
    || (d.s2pi && x.s2pie && fmt == .v32)
    || (d.s2po && x.s2poe && (!(x.s2pie || fmt == .v128) || (d.pbha && x.hwu != 0)
        || (List.range 16).any fun p => x.s2poi p == 1 || x.s2poi p == 5)))

/-- The checks on STEs of DCMDQ control pages (R930 step 0; 27_queues.md R735), made as the parameter dcmdqSte says (log
entry 2). -/
def steDcmdqIllegal (s : State) (i : Sec) (sid : BitVec 32) (x : Ste) : Bool :=
  isQsid s.ids i sid && s.impl.dcmdqSte != .asIs &&
  ((s.impl.dcmdqSte == .checked && x.s2s) || x.config != 6 || (s.ids.attrTypesOvr && (x.mtcfg || x.shcfg != 1)) || s2vmidIgnored s.ids i x || !x.s2r)

/-- The bits of an STE that are RES0 whatever the implementation and the configuration (R865, R884, R909, R910, R913, R917,
R919 to R921). -/
def steRes0 : BitVec 512 :=
  maskAt 512 56 3 ||| maskAt 512 105 3 ||| maskAt 512 248 5 ||| maskAt 512 255 1 ||| maskAt 512 297 5 ||| maskAt 512 376 8
    ||| maskAt 512 387 1 ||| maskAt 512 440 5 ||| maskAt 512 447 1

/-- SteIllegal (R930), C_BAD_STE; V zero counts as illegal, and RES0 bits that are set if the parameter structRes0Checked says
so (log entry 2). -/
def steIllegal (s : State) (i : Sec) (sid : BitVec 32) (x : Ste) : Bool :=
  let d := s.ids
  !x.valid
  || (s.impl.structRes0Checked && (x &&& steRes0) != 0)
  || steDcmdqIllegal s i sid x
  || (x.config ≥ 4 &&
    ((x.s1On && !d.s1p)
      || (x.s2On && (!d.s2p || (i == .s && !d.sel2) || (ttFmt d x.s2aa64 == .v32 && i != .ns)))
      || steAtsIllegal s i x
      || steStrwIllegal d i x
      || steS1Illegal s i x
      || steS2Illegal s i x
      || (!s2vmidIgnored d i x && !d.vmid16 && fieldNat x.s2vmid 8 8 != 0)
      || (vmsEnabled d i x && decide (2 ^ d.oas ≤ x.vmsPtr.toNat))))

/-! ## The CD (22_cd_vms.md R1105) -/

/-- Effective EPD0 (R1059). -/
def Cd.effEpd0 (w : World) (c : Cd) : Bool := !w.single && c.epd0

/-- Effective EPD1, TTB1 being disabled in a regime with one table (R1059, R1100). -/
def Cd.effEpd1 (w : World) (c : Cd) : Bool := w.single || c.epd1

/-- T0SZ, IGNORED with effective EPD0 one (R1056, R1059): it then counts as zero. -/
def Cd.effT0sz (w : World) (c : Cd) : Nat := if c.effEpd0 w then 0 else c.t0sz

/-- T1SZ, IGNORED with effective EPD1 one (R1061). -/
def Cd.effT1sz (w : World) (c : Cd) : Nat := if c.effEpd1 w then 0 else c.t1sz

/-- CD.DS in effect (R1084). -/
def Cd.effDs (d : Ids) (w : World) (c : Cd) : Bool :=
  d.ds && ttFmt d c.aa64 == .v64 && c.ds &&
    !(if w.single then c.tg0 == 1 else c.tg0 == 1 && c.tg1 == 3)

/-- TxSZInvalid (R1105), the maximum of VMSAv9-128 without regard to STT (R1056). -/
def txszInvalid (d : Ids) (w : World) (c : Cd) (fmt : TtFmt) (txsz gran : Nat) : Bool :=
  let max := if d.stt || fmt = .v128 then (if gran = 16 then 47 else 48) else 39
  let wide := gran = 16 || (d.ds && c.ds)
  let min :=
    if d.vax = 2 then (if fmt = .v128 then (if w = .el3 then 8 else 9) else if wide then 12 else 16)
    else if d.vax = 1 then (if wide || fmt == .v128 then 12 else 16)
    else 16
  decide (txsz < min ∨ max < txsz)

/-- The stage 1 indirection is in use (25_dpt_gpc.md R1630; 22_cd_vms.md R1085). -/
def s1Indirect (d : Ids) (x : Ste) (c : Cd) : Bool :=
  ttFmt d c.aa64 == .v128 || (ttFmt d c.aa64 == .v64 && d.s1pi && x.s1pie && c.pie)

/-- PIIP and PIIU hold a reserved or contradictory value (R1089, R1105 step 18). -/
def piIllegal (w : World) (c : Cd) : Bool :=
  (List.range 16).any fun p =>
    let pp := c.piip p
    let pu := c.piiu p
    pp == 4 || pp == 6 || (!w.single && (pu == 4 || pu == 6 || (pp / 2 % 2 == 1 && pu / 4 == 1)))

/-- One TTB's granule, size and base (R1105 steps 12 to 14, 17). -/
def ttbIllegal (d : Ids) (pa : Bool) (w : World) (c : Cd) (fmt : TtFmt) (gran : Option Nat) (txsz skl : Nat) (base : DWord) : Bool :=
  let g := gran.getD 12
  (fmt != .v32 && (txszInvalid d w c fmt txsz g || !granSupported d gran))
    || ttbOutOfRange fmt base (tableRange d fmt pa c.ips) g (c.effDs d w)
    || (fmt == .v128 && slInvalid128 skl txsz g)

/-- The bits of a CD that are RES0 whatever the implementation and the configuration (R1078, R1088, R1089). -/
def cdRes0 : BitVec 512 := maskAt 512 185 1 ||| maskAt 512 376 8 ||| maskAt 512 432 16 ||| maskAt 512 496 16

/-- CdIllegal (R1105), C_BAD_CD; RES0 bits that are set if the parameter structRes0Checked says so (log entry 2). -/
def cdIllegal (s : State) (i : Sec) (x : Ste) (c : Cd) : Bool :=
  let d := s.ids
  let w := streamWorld s i x
  let fmt := ttFmt d c.aa64
  let n0 := c.effEpd0 w
  let n1 := c.effEpd1 w
  !c.valid
  || (s.impl.structRes0Checked && (c &&& cdRes0) != 0)
  || (x.s1stalld && c.stall)
  || (d.termModel && !c.abort)
  || (stallModelOf s i == 1 && c.stall)
  || (stallModelOf s i == 2 && !c.stall)
  || ((!n0 || !n1) && ((d.ttEndian == 2 && c.endi) || (d.ttEndian == 3 && !c.endi)))
  || (fmt == .v32 && (!d.ttf32 || w == .el3 || w.isEl2E2h))
  || (i == .s && w.isEl2 && fmt == .v32)
  || (fmt == .v64 && (!d.ttf64 || (x.s2On && ttFmt d x.s2aa64 == .v32)))
  || (fmt != .v32 && (((c.ha || c.hd) && d.httu == 0) || (c.hd && d.httu == 1) || (d.httu == 3 && c.haft && !c.ha)))
  || (!w.single && !d.asid16 && fieldNat c.asid 8 8 != 0)
  || (!n0 && ttbIllegal d (!x.s2On) w c fmt (granule0 c.tg0) c.t0sz c.skl0 (ttbField d fmt c 68))
  || (!n1 && ttbIllegal d (!x.s2On) w c fmt (granule1 c.tg1) c.t1sz c.skl1 (ttbField d fmt c 132))
  || (fmt == .v128 && (!x.s1pie || w.isEl2))
  || (s1Indirect d x c && piIllegal w c)

end Sys2Proof.Machine
end

