-- ==== Sys2Proof/Machine/Lookup.lean ====
section
/-! DEFINITION. The processing of one transaction as a computation over the machine's state that may stop, and the lookup of
its STE and VMS (23_translation.md section 2, 21_streams_ste.md, 22_cd_vms.md section 5). -/

namespace Sys2Proof.Machine

/-- Why the processing of a transaction ends before an output address is found. -/
inductive Stop where
  /-- terminated with an abort, no event -/
  | silent
  /-- terminated with an abort, the event recorded (22_cd_vms.md R1110) -/
  | event (e : Event)
  /-- a Translation-related fault with the A, R and S flags of its stage (R1111) -/
  | trf (f : TrfInfo) (a r st : Bool)
  deriving DecidableEq, Repr

/-- A computation over the state that may stop. -/
abbrev X (α : Type) := ExceptT Stop (StateM State) α

/-- Runs a computation. -/
def X.run {α : Type} (x : X α) (s : State) : Except Stop α × State := StateT.run (ExceptT.run x) s

/-- The state now. -/
def X.state : X State := get

/-- Stops. -/
def X.stop {α : Type} (e : Stop) : X α := throw e

/-- For whom configuration and translation are looked up. -/
structure Ctx where
  ev : EvTxn
  /-- granule protection faults are not reported, or, with RME_IMPL zero, as a free value says: speculative accesses, prefetches
  and hints (25_dpt_gpc.md R1603; log entry 7) -/
  quiet : Bool := false
  /-- not for a client's translation but for the HACDBS: a granule protection fault has REASON GERROR (16_regs_root_realm.md
  R456) -/
  own : Bool := false
  /-- an address translation operation that changes no descriptor (45_atos.md R2127) -/
  inhibit : Bool := false
  deriving DecidableEq, Repr

/-- Security state. -/
def Ctx.sec (c : Ctx) : Sec := c.ev.sec

/-- The maker of accesses for the stream; an access of the SMMU has PM zero (25_dpt_gpc.md R1623). -/
def Ctx.gpc (c : Ctx) : GpcFrom := .stream c.ev.sec false

/-- The performance event that an access of the SMMU is: a translation table walk access or a configuration structure access
(17_regs_pmcg.md R508, R509). -/
def FarCode.pmuEvent : FarCode → Option Nat
  | .walk => some 4
  | .steFetch => some 5
  | .cdFetch => some 5
  | .vmsFetch => some 5
  | _ => none

/-- The stream as performance events name it. Accesses that the SMMU makes for a PM transaction (walk, configuration and GPT
accesses) are filtered by SMMU_PMCG_ROOTCR.PMO as that transaction is: 17_regs_pmcg.md R514 does not say whether by its PM or by
the PM zero that 25_dpt_gpc.md R1623 gives the accesses themselves (DESIGN CHOICE, log entry 33). -/
def Ctx.src (c : Ctx) : PmuSrc := .stream c.ev.sec c.ev.sid c.ev.pm

/-- The syndrome code of an access made for the stream (16_regs_root_realm.md R456). -/
def Ctx.far (c : Ctx) (code : FarCode) : FarCode := if c.own then .hacdbs else code

/-- A translation table walk access or configuration structure access is noted as a performance event of its source (R508);
a configuration structure access is not filtered by PARTID and PMG (R516). -/
def noteAccess (s : State) (o : AccFrom) (code : FarCode) : State :=
  match code.pmuEvent with
  | some n => { s with pmuLog := s.pmuLog ++ [{ event := n, src := o.src, mpam := if n = 4 then some o.mpam else none }] }
  | none => s

/-- An access for the stream of a memory type, with a PARTID and PMG (62_ras_mpam_mec.md R2665). -/
def Ctx.acc (c : Ctx) (t : MemType) (m : Mpam) : AccFrom := { gpc := c.gpc, type := t, src := c.src, mpam := m }

/-- An access to a Stream table structure or a VMS for the stream (12_regs_control.md R166; 62_ras_mpam_mec.md R2665). -/
def Ctx.tableAcc (s : State) (c : Ctx) : AccFrom :=
  let r := s.iface c.sec
  { c.acc (cr1Type r true) (regMpam s.ids c.sec r.gmpamEff) with lim := regMpamLimit s.ids c.sec r.gmpamEff }

/-- A walk, for `code` walk, or the fetch of a configuration structure begins, which tells that the caches missed: the accesses
that it makes are noted as they are made (R508). -/
def noteMiss (s : State) (src : PmuSrc) (code : FarCode) : State :=
  match code.pmuEvent with
  | some n => { s with pmuLog := s.pmuLog ++ [{ event := n, src := src, mpam := none, made := false }] }
  | none => s

/-- The events of a client transaction, Translation Request or HACDBS translation: 1, its misses 2 and 3 where a walk, a GPT
access or a fetch of its configuration began, also if no access of it left the SMMU, and what `extra` names (R508); `m` is its
PARTID and PMG, by which event 3 is not filtered (R516). -/
def noteRequest (s : State) (src : PmuSrc) (m : Option Mpam) (extra : List Nat) : State :=
  let did (n : Nat) : Bool := s.pmuLog.any fun o => o.event == n && o.src == src
  let ns := [1] ++ (if did 4 then [2] else []) ++ (if did 5 then [3] else []) ++ extra
  { s with pmuLog := s.pmuLog ++ ns.map fun n => { event := n, src := src, mpam := if n = 3 then none else m } }

/-- An access is noted if it was made: not one that its granule protection check stopped, which never leaves the SMMU (R508:
external transactions). -/
def noteMade (s : State) (o : AccFrom) (code : FarCode) (e : Option MemErr) : State :=
  if e = some .gpf then s else noteAccess s o code

/-- How a read failed. -/
def readErr {α : Type} : Except MemErr α → Option MemErr
  | .ok _ => none
  | .error e => some e

/-- A read that the SMMU makes for the stream. -/
def X.read (c : Ctx) (o : AccFrom) (pas : Pas) (addr : DWord) (n : Nat) (code : FarCode) : X (Except MemErr Nat) := do
  let s ← X.state
  let r := smmuRead s o pas addr n (c.far code) (!c.quiet)
  set (noteMade r.2 o code (readErr r.1))
  pure r.1

/-- A write that the SMMU makes for the stream. -/
def X.write (c : Ctx) (o : AccFrom) (pas : Pas) (addr : DWord) (bs : List Byte) (code : FarCode) : X (Option MemErr) := do
  let s ← X.state
  let r := smmuWrite s o pas addr bs (c.far code) (!c.quiet)
  set (noteMade r.2 o code r.1)
  pure r.1

/-- A miss noted for the stream. -/
def X.miss (c : Ctx) (code : FarCode) : X Unit := modify fun s => noteMiss s c.src code

/-- A free value (log entry 7). -/
def X.free : X DWord := do
  let s ← X.state
  let r := s.takeFree
  set r.2
  pure r.1

/-- Whether what was fetched is cached now (log entry 10). -/
def X.cacheNow : X Bool := do
  let s ← X.state
  let r := s.cacheNow
  set r.2
  pure r.1

/-- The caches changed. -/
def X.caches (f : Caches → Caches) : X Unit := modify fun s => { s with caches := f s.caches }

/-! ## PARTID and PMG (62_ras_mpam_mec.md section 3) -/

/-- PARTID and PMG limited by a MPAMIDR: a larger value is UNKNOWN (21_streams_ste.md R911; 62_ras_mpam_mec.md R2662). -/
def mpamLimit (lim : BitVec 32) (partid : BitVec 16) (pmg : BitVec 8) : X (BitVec 16 × BitVec 8) := do
  let s ← X.state
  let r := s.limitMpam lim partid pmg
  set r.2
  pure r.1

/-- PARTID and PMG of a client transaction with its VMS, if enabled, and the CD, if stage 1 is used (R2662). A Security state
whose own PARTID_MAX and PMG_MAX are zero has no MPAM (R2661), also where HAS_MPAM_NS and MPAM_NS let it have a VMS by
22_cd_vms.md R1121: the VMS is then fetched, and PARTID and PMG are zero without the map (DESIGN CHOICE, log entry 53). -/
def clientMpam (c : Ctx) (x : Ste) (vms : Option (BitVec 512)) (cd : Option Cd) : X Mpam := do
  let s ← X.state
  let sp := mpamSpace c.sec (x.effMpamNs s.ids c.sec)
  if !s.ids.mpamOf c.sec then pure (0, 0, sp)
  else
    let lim := mpamLimits s.ids c.sec x
    let m ← match cd with
      | some cd =>
        if !x.s1mpam then mpamLimit lim x.partid x.pmg
        else
          match vms, x.s2On with
          | some v, true => mpamLimit lim (v.extractLsb' (16 * (cd.partid.toNat % 32)) 16) cd.pmg
          | _, _ => mpamLimit lim cd.partid cd.pmg
      | none => mpamLimit lim x.partid x.pmg
    pure (m.1, m.2, sp)

/-- The PARTID and PMG of the transaction or request in progress are known (17_regs_pmcg.md R516). -/
def State.noteMpam (s : State) (m : Mpam) : State := { s with reqMpam := some m }

/-- PARTID and PMG of a client transaction, noted. -/
def requestMpam (c : Ctx) (x : Ste) (vms : Option (BitVec 512)) (cd : Option Cd) : X Mpam := do
  let m ← clientMpam c x vms cd
  modify fun s => s.noteMpam m
  pure m

/-- PARTID and PMG of the CD fetches and stage 2 walks of a stream: those of the STE (R2665). -/
def steMpam (c : Ctx) (x : Ste) : X Mpam := clientMpam c x none none

/-! ## Cached structures (23_translation.md R2860) -/

/-- The cached structures of a stream whose span holds a StreamID and whose index is `idx`. -/
def streamMatches (l : List StreamEntry) (i : Sec) (sid : BitVec 32) (idx : Nat) : List StreamEntry :=
  l.filter fun e => e.sec == i && e.sid.toNat / 2 ^ e.span == sid.toNat / 2 ^ e.span && e.idx == idx

/-- The first of them. -/
def findStream (l : List StreamEntry) (i : Sec) (sid : BitVec 32) (idx : Nat) : Option StreamEntry :=
  (streamMatches l i sid idx).head?

/-- The cached STE of a StreamID, if there is one; STEs that differ in more than CONT conflict: F_CFG_CONFLICT
(31_tlb_tagging.md R1282; 21_streams_ste.md R871). -/
def findSte (c : Ctx) : X (Option Ste) := do
  let s ← X.state
  match streamMatches s.caches.stes c.sec c.ev.sid 0 with
  | [] => pure none
  | e :: l =>
    if l.all fun f => putField f.bits 77 4 0 == putField e.bits 77 4 0 then pure (some e.bits)
    else X.stop (.event .cfgConflict)

/-! ## The Stream table (23_translation.md R2762, R2763) -/

/-- SPLIT in use (13_regs_tables_queues.md R252). -/
def strtabSplit (cfg : BitVec 32) : Nat :=
  match fieldNat cfg 6 5 with
  | 8 => 8
  | 10 => 10
  | _ => 6

/-- LOG2SIZE in use (R252). -/
def strtabLog2 (s : State) (i : Sec) : Nat := min (fieldNat (s.iface i).strtabCfg 0 6) (s.ids.sidSize i)

/-- The Stream table has two levels (R252). -/
def strtab2Level (s : State) (i : Sec) : Bool := s.ids.stLevel2 && fieldNat (s.iface i).strtabCfg 16 2 == 1

/-- The Stream table base, aligned to its size (R250); a preset one may count from Page 0 (11_regs_id.md R101). A linear table
is aligned by LOG2SIZE as it is written (R250) or by the effective one (23_translation.md R2762): the two rules differ, the
parameter strtabAlignEffective says which (log entry 52). -/
def strtabBase (s : State) (i : Sec) : DWord :=
  let r := s.iface i
  let n := fieldNat r.strtabCfg 0 6
  let a := r.strtabBase &&& maskAt 64 6 50
  (if strtab2Level s i then alignDown a (max 6 (n - strtabSplit r.strtabCfg + 3))
    else alignDown a ((if s.impl.strtabAlignEffective then strtabLog2 s i else n) + 6)) + s.relBase s.ids.tablesPreset

/-- A fetch of a Stream table structure, or of a VMS, at a physical address: an address beyond the OAS, an external abort and
a granule protection fault stop with the event (20_memory.md R620 case 5, 92_eei_decisions.md D63; 25_dpt_gpc.md R1606). -/
def fetchPhys (c : Ctx) (addr : DWord) (n : Nat) (code : FarCode) (ev : DWord → Bool → Event) : X Nat := do
  let s ← X.state
  X.miss c code
  if 2 ^ s.ids.oas ≤ addr.toNat then X.stop (.event (ev addr false))
  else
    match ← X.read c (c.tableAcc s) c.sec.pas addr n code with
    | .ok v => pure v
    | .error e => X.stop (.event (ev addr (e == .gpf)))

/-- The L1STD of a StreamID (21_streams_ste.md R850). -/
def fetchL1std (c : Ctx) : X DWord := do
  let s ← X.state
  let split := strtabSplit (s.iface c.sec).strtabCfg
  let idx := c.ev.sid.toNat / 2 ^ split
  match findStream s.caches.l1stds c.sec c.ev.sid idx with
  | some e => pure (e.bits.extractLsb' 0 64)
  | none =>
    let v ← fetchPhys c (strtabBase s c.sec + BitVec.ofNat 64 (idx * 8)) 8 .steFetch .steFetch
    if ← X.cacheNow then
      X.caches fun k => { k with l1stds := ⟨c.sec, c.ev.sid, idx, split, true, BitVec.ofNat 512 v⟩ :: k.l1stds }
    pure (BitVec.ofNat 64 v)

/-- The address of the STE of a StreamID; a StreamID outside the table or outside its L1STD's span stops with
C_BAD_STREAMID (21_streams_ste.md R851; 23_translation.md R2804). -/
def steAddr (c : Ctx) : X DWord := do
  let s ← X.state
  let sid := c.ev.sid.toNat
  if 2 ^ strtabLog2 s c.sec ≤ sid then X.stop (.event .badStreamid)
  else if strtab2Level s c.sec then do
    let split := strtabSplit (s.iface c.sec).strtabCfg
    let d ← fetchL1std c
    let span := fieldNat d 0 5
    if span = 0 ∨ 11 < span ∨ split + 1 < span ∨ 2 ^ (span - 1) ≤ sid % 2 ^ split then X.stop (.event .badStreamid)
    else pure (alignDown (d &&& maskAt 64 6 50) (5 + span) + BitVec.ofNat 64 (sid % 2 ^ split * 64))
  else pure (strtabBase s c.sec + BitVec.ofNat 64 (sid * 64))

/-- The STE of a StreamID, whatever it holds (23_translation.md R2804, R2805); CONT of an invalid STE is IGNORED
(21_streams_ste.md R862). -/
def fetchSte (c : Ctx) : X Ste := do
  let s ← X.state
  if 2 ^ strtabLog2 s c.sec ≤ c.ev.sid.toNat then X.stop (.event .badStreamid)
  else
    match ← findSte c with
    | some x => pure x
    | none =>
      let a ← steAddr c
      let v ← fetchPhys c a 64 .steFetch .steFetch
      let x : Ste := BitVec.ofNat 512 v
      if ← X.cacheNow then
        X.caches fun k => { k with stes := ⟨c.sec, c.ev.sid, 0, if x.valid then x.cont else 0, true, x⟩ :: k.stes }
      pure x

/-- The STE of a StreamID if it is valid; else C_BAD_STE (23_translation.md R2806). -/
def fetchValidSte (c : Ctx) : X Ste := do
  let x ← fetchSte c
  let s ← X.state
  if steIllegal s c.sec c.ev.sid x then X.stop (.event .badSte) else pure x

/-! ## The VMS (22_cd_vms.md section 5) -/

/-- The PARTID_MAP of the stream's VMS; an aborted fetch is F_VMS_FETCH (R1120 to R1122; 61_event_records.md R2273). -/
def fetchVms (c : Ctx) (x : Ste) : X (BitVec 512) := do
  let s ← X.state
  match findStream s.caches.vmsBySid c.sec c.ev.sid 0 with
  | some e => pure e.bits
  | none =>
    match (s.caches.vmsByVmid.find? fun e => e.sec == c.sec && e.vmid == x.s2vmid).map (·.bits) with
    | some b => pure b
    | none =>
      let v ← fetchPhys c x.vmsPtr 64 .vmsFetch .vmsFetch
      if ← X.cacheNow then
        X.caches fun k =>
          { k with
            vmsBySid := ⟨c.sec, c.ev.sid, 0, 0, true, BitVec.ofNat 512 v⟩ :: k.vmsBySid
            vmsByVmid := ⟨c.sec, x.s2vmid, BitVec.ofNat 512 v⟩ :: k.vmsByVmid }
      pure (BitVec.ofNat 512 v)

/-- A computation made quietly for an STE read by the SMMU itself: the STE if it is found and valid. -/
def lookupSte (s : State) (i : Sec) (sid : BitVec 32) (quiet : Bool) : Except Stop Ste × State :=
  X.run (fetchValidSte { ev := ⟨i, sid, none, 0, true, false, true, false, true, false⟩, quiet := quiet }) s

end Sys2Proof.Machine
end

