-- ==== Sys2Proof/Machine/Operands.lean ====
section
/-! DEFINITION. What the operands of commands denote: the Security state of a StreamID, the ranges of parameters
(30_encoding.md R1803, R1804), the queues that accept a class of commands (27_queues.md R750), and the TLB entries a TLBI
command covers (42_cmd_tlbi.md section 1). -/

namespace Sys2Proof.Machine

/-! ## Queues and legality -/

/-- The classes of commands that SMMU_(*_)IDR2 distinguishes for Restricted ECMDQs (11_regs_id.md R102). -/
inductive CmdClass where
  | always | cfgi | tlbiNh | tlbiNsnh | tlbi | atc | pri | dpti | fault
  deriving DecidableEq, Repr

/-- A Restricted ECMDQ accepts only the commands that SMMU_(*_)IDR2 advertises; every other queue accepts all
(11_regs_id.md R102; 14_regs_secure.md R353; 16_regs_root_realm.md R468; 27_queues.md R750). -/
def queueAccepts (s : State) (c : CmdClass) : Bool :=
  match s.cur with
  | .ecmdq i _ =>
    !s.ids.recmdq i ||
    (match c with
      | .always => true
      | .cfgi => (s.ids.idr2Of i).getLsbD 31
      | .tlbiNh => true
      | .tlbiNsnh => i != .s || (s.ids.idr2Of i).getLsbD 30
      | .tlbi => (s.ids.idr2Of i).getLsbD 30
      | .atc => (s.ids.idr2Of i).getLsbD 29
      | .pri => (s.ids.idr2Of i).getLsbD 28
      | .dpti => (s.ids.idr2Of i).getLsbD 27
      | .fault => (s.ids.idr2Of i).getLsbD 26)
  | _ => true

/-- The Security state of a StreamID or VMID parameter from the queue and SSec, none where SSec is misused
(30_encoding.md R1803). -/
def targetSec (s : State) (ssec : Bool) : Option Sec :=
  match s.cur.sec, ssec with
  | .ns, false => some .ns
  | .s, false => some .ns
  | .s, true => some .s
  | .rl, false => some .rl
  | _, _ => none

/-- A StreamID is in range (R1804). -/
def sidInRange (s : State) (i : Sec) (sid : BitVec 32) : Bool := decide (sid.toNat < 2 ^ s.ids.sidSize i)

/-- A SubstreamID is in range (R1804). -/
def ssidInRange (s : State) (ssid : BitVec 20) : Bool := decide (ssid.toNat < 2 ^ s.ids.ssidSize)

/-! ## TLB entries by VMID and ASID -/

/-- How a TLBI command matches ASIDs. -/
inductive AsidSel where
  /-- every entry, global or not -/
  | any
  /-- non-global entries of the ASID (42_cmd_tlbi.md R1911) -/
  | nonGlobal (a : BitVec 16)
  /-- entries of the ASID and global entries (R1912) -/
  | orGlobal (a : BitVec 16)
  deriving DecidableEq, Repr

/-- Matching of an ASID parameter against an entry's tag (R1900, R1901). -/
def AsidSel.matches (d : Ids) : AsidSel → Option (BitVec 16) → Bool
  | .any, _ => true
  | .nonGlobal a, t => (d.asid16 || fieldNat a 8 8 == 0) && t == some a
  | .orGlobal a, t => (d.asid16 || fieldNat a 8 8 == 0) && (t == some a || t == none)

/-- The VMID low-order bits that an invalidation ignores: SMMU_(*_)CR0.VMW in effect (12_regs_control.md R150;
31_tlb_tagging.md R1274). -/
def vmwBits (s : State) (i : Sec) : Nat :=
  if s.ids.vmwImpl then
    match fieldNat (s.iface i).cr0ack 6 3 with
    | 1 => 1
    | 2 => 2
    | 3 => 3
    | 4 => 4
    | _ => 0
  else 0

/-- Matching of a VMID parameter against an entry's tag; an 8-bit VMID with non-zero upper bits matches nothing (R1901). -/
def vmidMatches (s : State) (i : Sec) (v : BitVec 16) (t : Option (BitVec 16)) : Bool :=
  (s.ids.vmid16 || fieldNat v 8 8 == 0) &&
  match t with
  | some e => e.toNat / 2 ^ vmwBits s i == v.toNat / 2 ^ vmwBits s i
  | none => v == 0

/-! ## TLB entries by address (42_cmd_tlbi.md R1902 to R1905) -/

/-- log2 of the granule that TG names; R1902. -/
def tgLog2 (tg : BitVec 2) : Nat :=
  match tg.toNat with
  | 1 => 12
  | 2 => 14
  | _ => 16

/-- Range invalidation and level hints are in use: RIL is supported and TG is not zero (R1902). -/
def rangeUsed (d : Ids) (rg : TlbiRange) : Bool := d.ril && rg.tg != 0

/-- TTL after the Reserved case of R1904: level 1 with the 16KB granule needs DS. -/
def ttlOf (d : Ids) (rg : TlbiRange) : Nat :=
  if rg.tg = 2 ∧ rg.ttl = 1 ∧ ¬d.ds then 0 else rg.ttl.toNat

/-- SCALE in use: five bits without DS, six with it, and 39 at most (R1902). -/
def scaleOf (d : Ids) (rg : TlbiRange) : Nat :=
  min 39 (if d.ds then rg.scale.toNat else rg.scale.toNat % 32)

/-- The combination that is Reserved and CERROR_ILL (R1903). -/
def rangeIll (d : Ids) (rg : TlbiRange) : Bool :=
  rangeUsed d rg && rg.num == 0 && scaleOf d rg == 0 && ttlOf d rg == 0

/-- Bytes of the range (R1903). -/
def rangeBytes (d : Ids) (rg : TlbiRange) : Nat :=
  (rg.num.toNat + 1) * 2 ^ scaleOf d rg * 2 ^ tgLog2 rg.tg

/-- The number of low address bits that must be zero, for 64-bit and 128-bit descriptors (R1905). -/
def rangeAlign (d : Ids) (rg : TlbiRange) : Nat :=
  let ttl := ttlOf d rg
  match rg.tg.toNat, ttl, rg.ttl128 && ttl != 0 with
  | 1, 1, false => 30
  | 1, 2, false => 21
  | 1, 1, true => 28
  | 1, 2, true => 20
  | 2, 1, false => 36
  | 2, 2, false => 25
  | 2, 1, true => 34
  | 2, 2, true => 24
  | 2, _, _ => 14
  | 3, 1, false => 42
  | 3, 2, false => 29
  | 3, 1, true => 40
  | 3, 2, true => 28
  | 3, _, _ => 16
  | _, _, _ => 12

/-- The address is aligned as R1905 requires. -/
def rangeAligned (d : Ids) (rg : TlbiRange) (addr : DWord) : Bool := addr.toNat % 2 ^ rangeAlign d rg == 0

/-- Addresses are compared in their low 56 bits, which hold every bit that a translation depends on (20_memory.md R618). -/
def low56 (a : DWord) : Nat := a.toNat % 2 ^ 56

/-- An entry's region meets [addr, addr + len); no wrapping (R1903). -/
def regionMeets (va : DWord) (sizeLog2 : Nat) (addr : DWord) (len : Nat) : Bool :=
  decide (low56 va < low56 addr + len ∧ low56 addr < low56 va + 2 ^ sizeLog2)

/-- An entry's level is what Leaf and TTL ask for (R1902, R1904). -/
def levelMatches (d : Ids) (rg : TlbiRange) (leaf : Bool) (e : TlbEntry) : Bool :=
  let ttl := if rangeUsed d rg then ttlOf d rg else 0
  if ttl = 0 then e.isLeaf || !leaf
  else if e.isLeaf then decide (e.level = ttl) && e.leaf.d128 == rg.ttl128
  else !leaf && decide (e.level < ttl)

/-- An entry is in the scope of the address, range and level operands (R1900, R1902 to R1904). -/
def addrMatches (d : Ids) (rg : TlbiRange) (leaf : Bool) (addr : DWord) (e : TlbEntry) : Bool :=
  levelMatches d rg leaf e &&
  if rangeUsed d rg then e.tg == rg.tg && regionMeets e.va e.sizeLog2 addr (rangeBytes d rg)
  else regionMeets e.va e.sizeLog2 addr 1

/-! ## Removal -/

/-- The entries removed. -/
def dropTlb (s : State) (p : TlbEntry → Bool) : State :=
  { s with caches := { s.caches with tlb := s.caches.tlb.filter fun e => !p e } }

/-- Removal by address: a misaligned range with 64-bit descriptors is UNPREDICTABLE, here removed or not as a free value
says, with 128-bit descriptors nothing need be removed (R1905; log entry 7). -/
def dropTlbRange (s : State) (rg : TlbiRange) (leaf : Bool) (addr : DWord) (p : TlbEntry → Bool) : State :=
  if rangeUsed s.ids rg && !rangeAligned s.ids rg addr then
    if rg.ttl128 && ttlOf s.ids rg != 0 then s
    else
      match s.takeFree with
      | (v, s) => if v.getLsbD 0 then dropTlb s fun e => p e && addrMatches s.ids rg leaf addr e else s
  else dropTlb s fun e => p e && addrMatches s.ids rg leaf addr e

/-- A virtual address parameter: bits [63:12], the rest zero (30_encoding.md R1803). -/
def vaOf (a : BitVec 52) : DWord := a.setWidth 64 <<< 12

/-- The first bit of a physical or intermediate physical address parameter that is RES0 (R1803). -/
def physTop (d : Ids) : Nat := if !d.atLeast 1 then 48 else if !d.atLeast 4 then 52 else 56

/-- A physical or intermediate physical address parameter: bits [55:12], or those of its version, the rest zero (R1803). -/
def paOf (d : Ids) (a : BitVec 44) : DWord := a.setWidth 64 <<< 12 &&& maskAt 64 0 (physTop d)

/-- An MSI address parameter: bits [55:2], or those of its version, the rest zero (R1803). -/
def msiAddrOf (d : Ids) (a : BitVec 54) : DWord := a.setWidth 64 <<< 2 &&& maskAt 64 0 (physTop d)

/-! ## Fields that are RES0 by condition (R1802) -/

/-- A field of the range operands is set where it is RES0 (42_cmd_tlbi.md R1902). -/
def rangeRes0 (d : Ids) (rg : TlbiRange) : Bool :=
  (!rangeUsed d rg && (rg.num != 0 || rg.scale != 0 || rg.ttl != 0)) || (!d.ril && rg.tg != 0) || (!d.ds && rg.scale.getLsbD 5)
    || (rg.ttl128 && (rg.tg == 0 || rg.ttl == 0))

/-- A field that is RES0 in this version, on this queue or with these operands is set (R1803; 40_cmd_prefetch.md R1853;
42_cmd_tlbi.md R1902; 44_cmd_fault_sync.md R2060, whose MSI_NS a DCMDQ ignores, 27_queues.md R745). The bytes of ASIDs and
VMIDs that an implementation does not support have the outcome of their own rules, R1901 and R1906 (log entry 48). -/
def res0Set (s : State) (i : Instr) : Bool :=
  let d := s.ids
  match i with
  | .prefetchAddr ssec _ _ _ _ stride ns _ =>
    (ns && !(d.sel2 && ssec && s.cur.sec == .s)) || (!d.atLeast 1 && stride != 0)
  | .sync _ _ _ _ addr msiNs =>
    (msiNs && s.cur.sec != .rl && !s.cur.isDirect) || decide (2 ^ physTop d ≤ addr.toNat * 2 ^ 2)
  | .tlbiNhVa _ _ rg _ _ | .tlbiNhVaa _ rg _ _ | .tlbiEl3Va rg _ _ | .tlbiEl2Va _ rg _ _ | .tlbiEl2Vaa rg _ _
  | .tlbiSEl2Va _ rg _ _ | .tlbiSEl2Vaa rg _ _ => rangeRes0 d rg
  | .tlbiS2Ipa _ rg _ addr | .tlbiSS2Ipa _ _ rg _ addr => rangeRes0 d rg || decide (2 ^ physTop d ≤ addr.toNat * 2 ^ 12)
  | .dptiPa _ _ addr => decide (2 ^ physTop d ≤ addr.toNat * 2 ^ 12)
  | .prefetchConfig .. | .cfgiSte .. | .cfgiSteRange .. | .cfgiAll .. | .cfgiCd .. | .cfgiCdAll .. | .cfgiVmsPidm ..
  | .cfgiCit .. | .cfgiVsttVsid .. | .cfgiVstt .. | .tlbiNhAll .. | .tlbiNhAsid .. | .tlbiEl3All | .tlbiEl2All
  | .tlbiEl2Asid .. | .tlbiS12Vmall .. | .tlbiS2Vmallw .. | .tlbiNsnhAll | .atcInv .. | .priResp .. | .resume ..
  | .stallTerm .. | .tlbiSEl2All | .tlbiSEl2Asid .. | .tlbiSS12Vmall .. | .tlbiSS2Vmallw .. | .tlbiSnhAll | .dptiAll => false

end Sys2Proof.Machine
end

