-- ==== Sys2Proof/Machine/Perms.lean ====
section
/-! DEFINITION. The permissions that a descriptor grants, direct (23_translation.md R2847; PRESUMED, log entry 12) and by
indirection (25_dpt_gpc.md R1630, R1631; the places of the indexes are PRESUMED, log entry 15). -/

namespace Sys2Proof.Machine

/-- What a stage permits at one privilege. `wClean`: writing needs the dirty state of a writable-clean descriptor updated
(28_httu.md R1323). `dirtyOnly`: writing fails only because the dirty state is software managed. -/
structure Perm where
  r : Bool
  w : Bool
  x : Bool
  wClean : Bool := false
  dirtyOnly : Bool := false
  /-- the overlay alone removed read, write, execute (61_event_records.md R2269) -/
  ovR : Bool := false
  ovW : Bool := false
  ovX : Bool := false
  deriving DecidableEq, Repr

/-- All permissions, of a stage that does not translate. -/
def Perm.all : Perm := { r := true, w := true, x := true }

/-- A bit of a descriptor. -/
def Leaf.bit (l : Leaf) (n : Nat) : Bool := l.desc.getLsbD n

/-- PIIndex: descriptor bits 54, 53, 51 and 6 (PRESUMED, log entry 15). -/
def Leaf.piIndex (l : Leaf) : Nat :=
  8 * (l.bit 54).toNat + 4 * (l.bit 53).toNat + 2 * (l.bit 51).toNat + (l.bit 6).toNat

/-- POIndex of a stage 2 descriptor: bits [62:59] (PRESUMED, log entry 15). -/
def Leaf.poIndex (l : Leaf) : Nat := fieldNat l.desc 59 4

/-- The leaf descriptor has AF set. -/
def Leaf.af (l : Leaf) : Bool := l.bit 10

/-! ## Stage 1 -/

/-- What stage 1 permissions depend on, from the CD, the STE and the machine. -/
structure S1PermCfg where
  single : Bool
  /-- dirty state is updated by hardware (28_httu.md R1329, R1331) -/
  hd : Bool
  wxn : Bool
  uwxn : Bool
  pan : Bool
  epan : Bool
  /-- with indirection PAN comes after the removal of execute permissions (25_dpt_gpc.md R1630; parameter panLate) -/
  panLate : Bool
  v32 : Bool
  /-- pages may be execute-only (log entry 52) -/
  xo : Bool
  /-- an output in Non-secure space is not executable (14_regs_secure.md R357; 61_event_records.md R2269) -/
  nsNoExec : Bool
  deriving DecidableEq, Repr

/-- A 3-bit PIIP or PIIU value: read, write, execute (22_cd_vms.md R1089). -/
def piDecode (v : Nat) : Bool × Bool × Bool :=
  match v with
  | 1 => (true, false, false)
  | 2 => (false, false, true)
  | 3 => (true, false, true)
  | 5 => (true, true, false)
  | 7 => (true, true, true)
  | _ => (false, false, false)

/-- Stage 1 permissions from the descriptors (R2847; 22_cd_vms.md R1065, R1067, R1081; 24_attributes.md). An instruction read
needs read permission too, as the last sentence of R2847 says; but in VMSAv8-64 26_ats_pri.md R1702 and R1704 have a page that
is execute-only, on which it succeeds: a parameter says which holds there (instNeedsRead, log entry 52). The unprivileged
instruction access permission that EPAN looks at (R1081) is that of UXN and its hierarchical bits alone, before WXN, SIF and
instNeedsRead (DESIGN CHOICE, log entry 54). -/
def s1Direct (g : S1PermCfg) (l : Leaf) (priv outNs : Bool) : Perm :=
  let ro := l.bit 7
  let roTable := l.apTable.getLsbD 1
  let clean := ro && l.bit 51 && g.hd
  let writable := (!ro || clean) && !roTable
  let user := if g.single then true else l.bit 6 && !l.apTable.getLsbD 0
  let uxn := l.bit 54 || l.uxnTable
  let pxn := l.bit 53 || l.pxnTable
  let noExec := (g.nsNoExec && outNs)
  if g.single then { r := true, w := writable, x := !uxn && !(g.wxn && writable) && !noExec, wClean := clean }
  else if priv then
    let denied := g.pan && (user || (g.epan && !uxn))
    let x := !pxn && !(user && writable && (!g.v32 || g.uwxn)) && !(g.wxn && writable) && !noExec
    { r := !denied, w := writable && !denied, x := x, wClean := clean }
  else { r := user, w := user && writable, x := !uxn && !(g.wxn && writable) && !noExec && (user || g.xo), wClean := clean }

/-- Stage 1 permissions by indirection (25_dpt_gpc.md R1630): bit 7 of the descriptor set is not dirty. PAN looks at the
unprivileged permissions before or after execute permission is removed from them (parameter panLate, log entry 2). -/
def s1IndirectPerm (g : S1PermCfg) (c : Cd) (l : Leaf) (priv outNs : Bool) : Perm :=
  let p := piDecode (c.piip l.piIndex)
  let u := piDecode (c.piiu l.piIndex)
  let noExec := g.nsNoExec && outNs
  let notDirty := l.bit 7
  let mk (r w x : Bool) : Perm :=
    { r := r, w := w && (!notDirty || g.hd), x := x && !noExec, wClean := w && notDirty && g.hd
      dirtyOnly := w && notDirty && !g.hd }
  if g.single then mk p.1 p.2.1 p.2.2
  else if priv then
    let denied := g.pan && (u.1 || u.2.1 || (u.2.2 && !(g.panLate && noExec)))
    mk (p.1 && !denied) (p.2.1 && !denied) p.2.2
  else mk u.1 u.2.1 u.2.2

/-! ## Stage 2 -/

/-- A stage 2 base or overlay value: read, write, unprivileged and privileged execute, and writing by table walks only
(12_regs_control.md R175, 21_streams_ste.md R922). What the MRO values grant is in the A-profile manual: here every access may
read, and the SMMU's walks may write too (DESIGN CHOICE, log entry 15). -/
def s2Decode (v : Nat) : Bool × Bool × Bool × Bool × Bool :=
  match v with
  | 2 | 3 | 6 | 7 => (true, false, false, false, true)
  | 4 => (false, true, false, false, false)
  | 8 => (true, false, false, false, false)
  | 9 => (true, false, true, false, false)
  | 10 => (true, false, false, true, false)
  | 11 => (true, false, true, true, false)
  | 12 => (true, true, false, false, false)
  | 13 => (true, true, true, false, false)
  | 14 => (true, true, false, true, false)
  | 15 => (true, true, true, true, false)
  | _ => (false, false, false, false, false)

/-- What stage 2 permissions depend on. -/
structure S2PermCfg where
  indirect : Bool
  overlay : Bool
  hd : Bool
  xnx : Bool
  /-- pages may be execute-only (log entry 52) -/
  xo : Bool
  /-- SMMU_(*_)S2PII -/
  s2pii : BitVec 64
  deriving DecidableEq, Repr

/-- A base value lets the location hold the top-level table that TTB0 (false) or TTB1 (true) points to: MRO-TL0 or
MRO-TL01, MRO-TL1 or MRO-TL01 (21_streams_ste.md R916; PRESUMED, log entry 15). -/
def s2TopLevel (v : Nat) (ttb1 : Bool) : Bool := v == 7 || v == (if ttb1 then 3 else 6)

/-- Stage 2 permissions from the descriptor (R2847); as in stage 1 an instruction read needs read permission too unless pages may
be execute-only (26_ats_pri.md R1702, R1705; parameter instNeedsRead, log entry 52). -/
def s2Direct (g : S2PermCfg) (l : Leaf) (priv : Bool) : Perm :=
  let clean := !l.bit 7 && l.bit 51 && g.hd
  let x := if g.xnx then
      match fieldNat l.desc 53 2 with
      | 0 => true
      | 1 => !priv
      | 2 => false
      | _ => priv
    else !l.bit 54
  { r := l.bit 6, w := l.bit 7 || clean, x := x && (l.bit 6 || g.xo), wClean := clean }

/-- The base value of a stage 2 leaf with indirection: SMMU_(*_)S2PII by PIIndex (R1631). -/
def s2Base (g : S2PermCfg) (l : Leaf) : Nat := fieldNat g.s2pii (4 * l.piIndex) 4

/-- Stage 2 permissions by indirection, an overlay restricting them (R1631): bit 7 of the descriptor set is dirty. -/
def s2IndirectPerm (g : S2PermCfg) (x : Ste) (l : Leaf) (priv walk : Bool) : Perm :=
  let b := s2Decode (s2Base g l)
  let o := if g.overlay then s2Decode (x.s2poi l.poIndex) else (true, true, true, true, true)
  let bw := b.2.1 || (b.2.2.2.2 && walk)
  let ow := o.2.1 || (o.2.2.2.2 && walk)
  let bx := if priv then b.2.2.2.1 else b.2.2.1
  let ox := if priv then o.2.2.2.1 else o.2.2.1
  let w := bw && ow
  let dirty := l.bit 7
  { r := b.1 && o.1, w := w && (dirty || g.hd), x := bx && ox, wClean := w && !dirty && g.hd
    dirtyOnly := w && !dirty && !g.hd, ovR := b.1 && !o.1, ovW := bw && !ow, ovX := bx && !ox }

/-! ## Accesses -/

/-- What an access asks of a stage. -/
inductive Need where
  /-- read or execute as the access is data or instruction, and write (24_attributes.md; 32_special_transactions.md R1505,
  R1507, R1526) -/
  | must (r w : Bool)
  /-- any one permission that needs no dirty-state update; never a fault (32_special_transactions.md R1508) -/
  | any
  /-- an ATS Translation Request: permissions are reported, not required; `w` if write is asked for (28_httu.md R1335);
  `spec` if it is speculative and marks nothing dirty (29_speculation_coherency_embedded.md R652) -/
  | wants (w spec : Bool)
  deriving DecidableEq, Repr

/-- An access to be checked, its attributes after the STE's overrides. -/
structure Acc where
  need : Need
  ind : Bool
  priv : Bool
  deriving DecidableEq, Repr

/-- A data read by the SMMU: of a structure or a descriptor (64_fault_model.md R2304; 61_event_records.md R2269). -/
def Acc.fetch : Acc := ⟨.must true false, false, true⟩

/-- A data write by the SMMU: a descriptor update. -/
def Acc.update : Acc := ⟨.must true true, false, true⟩

/-- The access lacks no permission: write is checked before read (24_attributes.md R1403). -/
def Acc.permitted (a : Acc) (p : Perm) : Bool :=
  match a.need with
  | .must r w => (!w || p.w) && (!r || (if a.ind then p.x else p.r))
  | .any => p.r || p.x || (p.w && !p.wClean)
  | .wants _ _ => true

/-- The access makes the machine mark a writable-clean descriptor dirty (28_httu.md R1329, R1335). -/
def Acc.dirties (a : Acc) (p : Perm) : Bool :=
  match a.need with
  | .must _ w => w && p.wClean
  | .any => false
  | .wants w spec => w && !spec && p.w && p.wClean

/-- An atomic access that has write permission and lacks read permission (24_attributes.md R1403). -/
def Acc.lacksRead (a : Acc) (p : Perm) : Bool := a.need == .must true true && p.w

/-- The permissions without regard to software-managed dirty state (25_dpt_gpc.md R1631 step 2). -/
def Perm.base (p : Perm) : Perm := { p with w := p.w || p.dirtyOnly }

/-- It is the overlay that denies the access, write being checked before read (24_attributes.md R1403; 61_event_records.md
R2269). -/
def Acc.overlayDenied (a : Acc) (p : Perm) : Bool :=
  match a.need with
  | .must r w => if w && !p.w then p.ovW else r && (if a.ind then p.ovX else p.ovR)
  | _ => false

/-- The access may itself write. -/
def Acc.writes (a : Acc) : Bool :=
  match a.need with
  | .must _ w => w
  | .any => false
  | .wants w spec => w && !spec

end Sys2Proof.Machine
end

