-- ==== Sys2Proof/Machine/Walk.lean ====
section
/-! DEFINITION. The translation table walk (23_translation.md section 7; VMSAv8 formats PRESUMED, log entry 12; the format of
VMSAv9-128 descriptors is Config's, log entry 13), hardware update of descriptors (28_httu.md), the HDBSS, and the stage 2
translation. -/

namespace Sys2Proof.Machine

/-! ## One walk -/

/-- What one stage's walk depends on (R2841). -/
structure WalkCfg where
  fmt : TtFmt
  /-- log2 of the granule -/
  gran : Nat
  /-- 52-bit addresses with 4KB and 16KB granules -/
  ds : Bool
  /-- input size in bits -/
  inSize : Nat
  /-- the levels below the start level -/
  start : Nat
  base : DWord
  /-- effective output size in bits -/
  outBits : Nat
  /-- the size in bits that bounds next-level table addresses (20_memory.md R620); in VMSAv8-32 not the OAS, to which their
  fetches are truncated (61_event_records.md R2265) -/
  tableBits : Nat
  big : Bool
  ha : Bool
  hd : Bool
  haft : Bool
  affd : Bool
  /-- hierarchical attributes are used -/
  hier : Bool
  /-- descriptors have the Protected attribute (25_dpt_gpc.md R1632) -/
  prot : Bool
  /-- the Contiguous bit is zero at the initial level (22_cd_vms.md R1074) -/
  disCh : Bool
  /-- NSTable is followed (24_attributes.md R1444) -/
  nsTables : Bool
  /-- the walk starts in Non-secure space -/
  ns : Bool
  /-- the CD's structures came from AssuredOnly memory (25_dpt_gpc.md R1633) -/
  assured : Bool
  pm : Bool
  /-- VMSAv8-64 descriptors of the 64KB granule hold 52 bits of address (22_cd_vms.md R1063) -/
  lpa : Bool
  /-- Page and Block descriptors have AMEC, with NS in this bit (62_ras_mpam_mec.md R2671) -/
  amec : Option Nat
  /-- no descriptor is updated (45_atos.md R2127) -/
  inhibit : Bool := false
  deriving DecidableEq, Repr

/-- The walk of an operation that changes no descriptor, or of any other (45_atos.md R2127). -/
def WalkCfg.inhibited (g : WalkCfg) (b : Bool) : WalkCfg := { g with inhibit := b }

/-- What the walk has gathered from the Table descriptors. -/
structure WalkAcc where
  ap : BitVec 2
  uxn : Bool
  pxn : Bool
  ns : Bool
  assured : Bool
  deriving DecidableEq, Repr

/-- How a walk reads and updates descriptors: an address, whether in Non-secure space. -/
structure WalkMem where
  /-- a descriptor of so many bytes as a little-endian number, and whether it came from AssuredOnly memory; the last two
  arguments: the AssuredOnly check applies and the walk so far is not assured (25_dpt_gpc.md R1633), and the descriptor is one
  of the top-level table -/
  read : DWord → Nat → Bool → Bool → Bool → X (Nat × Bool)
  update : DWord → Bool → List Byte → X Unit
  /-- a fault at a level -/
  fault : TrfKind → Int → X Leaf

/-- The bytes of a descriptor: 16 in VMSAv9-128, else 8 (R2841). -/
def descBytes (fmt : TtFmt) : Nat := 2 ^ descLog fmt

/-- A descriptor as read, in the walk's byte order (20_memory.md R601). -/
def readOrder (g : WalkCfg) (v : Nat) : BitVec 128 :=
  BitVec.ofNat 128 (if g.big then bytesNat (natBytes (descBytes g.fmt) v).reverse else v)

/-- The bytes that store a descriptor, in the walk's byte order (20_memory.md R601). -/
def storeOrder (g : WalkCfg) (d : BitVec 128) : List Byte :=
  let bs := natBytes (descBytes g.fmt) d.toNat
  if g.big then bs.reverse else bs

/-- The address bits of a VMSAv8 Table, Block or Page descriptor above bit `lo`: 52 bits with DS, or with the 64KB granule
where the implementation has 52-bit addresses (R2846), whatever the effective output size, which bounds them afterwards
(22_cd_vms.md R1063; 20_memory.md R613, R615). -/
def descAddr (g : WalkCfg) (d : DWord) (lo : Nat) : DWord :=
  let low := d &&& maskAt 64 lo (48 - lo)
  if g.fmt == .v64 && g.ds then (d &&& maskAt 64 lo (50 - lo)) ||| BitVec.ofNat 64 (fieldNat d 8 2 * 2 ^ 50)
  else if g.fmt == .v64 && g.gran = 16 && g.lpa then low ||| BitVec.ofNat 64 (fieldNat d 12 4 * 2 ^ 48)
  else low

/-- A Block descriptor is allowed with `below` levels below its own (R2844, R2849); in VMSAv9-128 the fields of the descriptor
say so. The "52-bit addresses" with which R2844 allows a 4TB block of the 64KB granule are taken as an effective output size
above 48 bits, not as an OAS of 52, which the rule does not settle (DESIGN CHOICE, log entry 12). -/
def blockAllowed (g : WalkCfg) (below : Nat) : Bool :=
  match g.fmt with
  | .v128 => true
  | _ =>
    match g.gran with
    | 12 => below == 2 || below == 1 || (below == 3 && g.ds)
    | 14 => below == 1 || (below == 2 && g.ds)
    | _ => below == 1 || (below == 2 && decide (48 < g.outBits))

/-- A descriptor as a walk understands it. -/
structure Desc where
  raw : BitVec 128
  /-- its fields in the places of R2846 -/
  view : BitVec 64
  /-- the next-level table address or the output address -/
  addr : DWord
  /-- levels that a Table descriptor skips -/
  skip : Nat
  prot : Bool
  contiguous : Bool
  deriving DecidableEq, Repr

/-- The descriptor leads to another table. -/
def Desc.isTable (d : Desc) (below : Nat) : Bool := below != 0 && d.view.getLsbD 1

/-- A descriptor decoded (R2846; VMSAv9-128: log entry 13). In VMSAv8-64 bit 52 is Protected or the Contiguous bit
(25_dpt_gpc.md R1632). -/
def decodeDesc (g : WalkCfg) (below : Nat) (raw : BitVec 128) : Desc :=
  let open_ := !(g.disCh && below == g.start)
  match g.fmt with
  | .v128 =>
    let v := Config.d128View g.gran below raw
    ⟨raw, v, Config.d128Addr g.gran below raw, (Config.d128Skip raw).toNat, g.prot && Config.d128Protected raw,
      v.getLsbD 52 && open_⟩
  | _ =>
    let v := raw.setWidth 64
    let lo := if below != 0 && v.getLsbD 1 then g.gran else levelShift g.fmt g.gran below
    ⟨raw, v, descAddr g v lo, 0, g.prot && v.getLsbD 52, v.getLsbD 52 && !g.prot⟩

/-- A Page or Block descriptor has AMEC set and NS clear, a Translation fault (62_ras_mpam_mec.md R2671). -/
def amecFault (g : WalkCfg) (d : Desc) : Bool :=
  match g.amec with
  | some ns => d.view.getLsbD 63 && !d.view.getLsbD ns
  | none => false

/-- One level after another, `fuel` levels at most (R2844, R2846): `below` levels below this one, `top` input bits not yet
resolved. A Table descriptor leads to the next level, with the Table's Access flag set where HAFT is in use (28_httu.md R1328,
R1334). What gives the Assured Translation property is left to the A-profile manual (25_dpt_gpc.md R1633): here every table in
AssuredOnly memory and a Protected leaf, Table descriptors need not be Protected; the check on a next-level table also needs
the CD to have it, and none is made on the top-level table (DESIGN CHOICE, log entry 15). -/
def walkLevels (g : WalkCfg) (m : WalkMem) (va : DWord) : Nat → Nat → Nat → DWord → WalkAcc → X Leaf
  | 0, below, _, _, _ => m.fault .translation (3 - below)
  | fuel + 1, below, top, table, acc => do
    let shift := levelShift g.fmt g.gran below
    let level : Int := 3 - below
    let idx := va.toNat % 2 ^ top / 2 ^ shift
    let at_ := table + BitVec.ofNat 64 (idx * descBytes g.fmt)
    let (v, fromAssured) ← m.read at_ (descBytes g.fmt) acc.ns (below != g.start && !(g.assured && acc.assured)) (below == g.start)
    let d := decodeDesc g below (readOrder g v)
    let assured := acc.assured && fromAssured
    if !d.view.getLsbD 0 then m.fault .translation level
    else if d.isTable below then do
      if below ≤ d.skip then m.fault .translation level
      else if 2 ^ g.tableBits ≤ d.addr.toNat then m.fault .addrSize level
      else if g.haft && !d.view.getLsbD 10 && g.pm && !g.inhibit then m.fault .access level
      else do
        if g.haft && !d.view.getLsbD 10 && !g.inhibit then
          let v' := putBit d.view 10 true
          m.update at_ acc.ns (storeOrder g (if g.fmt == .v128 then Config.d128Update d.raw v' else v'.setWidth 128))
        walkLevels g m va fuel (below - 1 - d.skip) shift (alignDown d.addr (if g.fmt == .v128 then 5 else g.gran))
          { ap := if g.hier then acc.ap ||| d.view.extractLsb' 61 2 else acc.ap
            uxn := acc.uxn || (g.hier && d.view.getLsbD 60)
            pxn := acc.pxn || (g.hier && d.view.getLsbD 59)
            ns := acc.ns || (g.nsTables && d.view.getLsbD 63)
            assured := assured }
    else if (below == 0 && !d.view.getLsbD 1) || (below != 0 && !blockAllowed g below) || amecFault g d then
      m.fault .translation level
    else if 2 ^ g.outBits ≤ d.addr.toNat then m.fault .addrSize level
    else
      pure
        { desc := d.view
          raw := d.raw
          descAddr := at_
          level := 3 - below
          sizeLog2 := shift
          contiguous := d.contiguous
          base := alignDown d.addr shift
          apTable := acc.ap
          uxnTable := acc.uxn
          pxnTable := acc.pxn
          nsTable := acc.ns
          fromNs := acc.ns
          assured := assured && d.prot
          d128 := g.fmt == .v128 }

/-- A walk of one stage. -/
def walk (g : WalkCfg) (m : WalkMem) (va : DWord) : X Leaf :=
  walkLevels g m va (g.start + 1) g.start g.inSize g.base ⟨0, false, false, g.ns, true⟩

/-- The descriptor of a leaf with AF and dirty state updated: stage 1 clears AP[2], stage 2 sets S2AP[1]; with indirection
bit 7 is not dirty at stage 1 and dirty at stage 2 (28_httu.md R1327, R1329). -/
def Leaf.updated (l : Leaf) (st : TlbStage) (af dirty : Bool) : Leaf :=
  let d := if af then putBit l.desc 10 true else l.desc
  let d := if dirty then putBit d 7 (st == .s2) else d
  { l with desc := d, raw := if l.d128 then Config.d128Update l.raw d else d.setWidth 128 }

/-- A leaf's descriptor is stored at its address (28_httu.md R1321). -/
def storeLeaf (g : WalkCfg) (m : WalkMem) (l : Leaf) : X Unit := m.update l.descAddr l.fromNs (storeOrder g l.raw)

/-- What the checks on a leaf descriptor depend on: its stage, the permissions it grants, the Permission fault of the access
if there is one, with its syndrome, and how it is reported. -/
structure LeafCheck where
  stage : TlbStage
  perm : Leaf → Perm
  refuse : Leaf → Perm → Option (TrfInfo → TrfInfo)
  fault : (TrfInfo → TrfInfo) → X Unit

/-- The checks on a leaf descriptor in their order, and its hardware update (23_translation.md R2848; 28_httu.md R1324 to
R1329): Access flag, then permissions, then dirty state. Where the access has a Permission fault it is UNKNOWN whether AF
is set. An inhibited operation takes the descriptor as updated and leaves it (45_atos.md R2127). -/
def checkLeaf (g : WalkCfg) (m : WalkMem) (k : LeafCheck) (a : Acc) (l : Leaf) : X (Leaf × Perm) := do
  let afClear := !l.af && !(g.affd && !g.ha)
  if afClear && (!g.ha || g.pm) then do
    let l ← m.fault .access l.level
    pure (l, k.perm l)
  else do
    let setAf := !l.af && g.ha && !g.inhibit
    let p := k.perm l
    match k.refuse l p with
    | some f => do
      if setAf then do
        let u ← X.free
        if u.getLsbD 0 then storeLeaf g m (l.updated k.stage true false)
      k.fault fun i => { f i with level := l.level }
      pure (l, p)
    | none => do
      let dirty := a.dirties p && !g.pm && !g.inhibit
      if setAf || dirty then do
        let l' := l.updated k.stage setAf dirty
        storeLeaf g m l'
        pure (l', { k.perm l' with wClean := p.wClean && !dirty })
      else pure (l, p)

/-! ## The HDBSS (28_httu.md section 6) -/

/-- SZ of an HDBSS or HACDBS base register, 0b1111 behaving as 0b1110 (13_regs_tables_queues.md R275). -/
def dbsSize (base : BitVec 64) : Nat := min 14 (fieldNat base 0 4)

/-- The number of entries of a table (R1340). -/
def dbsEntries (base : BitVec 64) : Nat := 2 ^ (dbsSize base + 12) / 8

/-- A table is valid: the SMMU has acknowledged V (R1344). -/
def hdbssValid (prod : BitVec 64) : Bool := prod.getLsbD 63

/-- A table is full (R1342). -/
def hdbssFull (base prod : BitVec 64) : Bool := decide (dbsEntries base ≤ fieldNat prod 0 24)

/-- HDBSS_BASEn and HDBSS_PRODn. -/
def Iface.hdbss (r : Iface) (n : Nat) : BitVec 64 × BitVec 64 :=
  if n = 0 then (r.hdbssBase0, r.hdbssProd0) else (r.hdbssBase1, r.hdbssProd1)

/-- HDBSS_PRODn changed. -/
def State.setHdbssProd (s : State) (i : Sec) (n : Nat) (f : BitVec 64 → BitVec 64) : State :=
  s.setIface i fun r => if n = 0 then { r with hdbssProd0 := f r.hdbssProd0 } else { r with hdbssProd1 := f r.hdbssProd1 }

/-- An HDBSS error: ERR toggles, ERR_REASON is set, the global error becomes active (R1346). -/
def hdbssError (s : State) (i : Sec) (n reason : Nat) : State :=
  raiseGerror (s.setHdbssProd i n fun p => putField (toggleBit p 62) 60 2 reason) i .hdbss

/-- Tracking stops while an error of the table is active (R1346). -/
def hdbssErrActive (b : BitVec 64 × BitVec 64) : Bool := b.1.getLsbD 62 != b.2.getLsbD 62

/-- The HDBSS is halted (R1346). -/
def hdbssHalted (b0 b1 : BitVec 64 × BitVec 64) : Bool :=
  let full0 := hdbssFull b0.1 b0.2
  let full1 := hdbssFull b1.1 b1.2
  let v0 := b0.1.getLsbD 63
  let v1 := b1.1.getLsbD 63
  full0 && full1 || !v1 && full0 || !v0 && full1 || !v0 && !v1

/-- An entry is appended for a stage 2 descriptor that goes from writable-clean to writable-dirty (R1340 to R1346): to
table 1 if table 0 is invalid or full, else to table 0; a table becoming full raises an interrupt. -/
def hdbssAppend (s : State) (i : Sec) (ipa : DWord) (level : Nat) (nsIpa : Bool) : State :=
  let r := s.iface i
  let b0 := r.hdbss 0
  let b1 := r.hdbss 1
  if !s.ids.hdbss i || hdbssErrActive b0 || hdbssErrActive b1 then s
  else
    let open0 := hdbssValid b0.2 && !hdbssFull b0.1 b0.2
    let open1 := hdbssValid b1.2 && !hdbssFull b1.1 b1.2
    if hdbssHalted b0 b1 then hdbssError s i 1 3
    else if !open0 && !open1 then s
    else
      let n := if open0 then 0 else 1
      let b := r.hdbss n
      let addr := s.truncOas (alignDown (b.1 &&& maskAt 64 12 44) (dbsSize b.1 + 12) + BitVec.ofNat 64 (fieldNat b.2 0 24 * 8))
      match smmuWrite s (s.ownAcc i .hdbss) i.pas addr (natBytes 8 (Config.hdbssEntry ipa level nsIpa).toNat) .hdbss with
      | (some .eabt, s) => hdbssError s i n 1
      | (some .gpf, s) => hdbssError s i n 2
      | (none, s) =>
        let s := s.setHdbssProd i n fun p => putField p 0 24 (fieldNat p 0 24 + 1)
        if hdbssFull b.1 ((s.iface i).hdbss n).2 then raiseIrq s i .hdbss else s

/-! ## Stage 2 -/

/-- Stage 2 of a transaction: the stream's STE, for which part of the translation, the IPA and its space. -/
structure S2Req where
  ste : Ste
  cls : EvClass
  ipa : DWord
  nsIpa : Bool
  acc : Acc
  /-- the AssuredOnly check applies and the access lacks the Assured Translation property (25_dpt_gpc.md R1633) -/
  notAssured : Bool
  /-- the access is to the top-level table of TTB0 (false) or TTB1 (true) (21_streams_ste.md R916) -/
  top : Option Bool := none
  deriving DecidableEq, Repr

/-- What stage 2 gives. -/
structure S2Out where
  pa : DWord
  pas : Pas
  perm : Perm
  leaf : Leaf
  deriving DecidableEq, Repr

/-- The NS bits of Secure stage 2: of the walk and of the output, for an IPA space (21_streams_ste.md R906, R918;
24_attributes.md R1449). -/
def secureS2Ns (x : Ste) (nsIpa : Bool) : Bool × Bool :=
  let sOut := x.s2sw || x.s2sa
  if nsIpa then (x.s2nsw, x.s2nsw || sOut || x.s2nsa) else (x.s2sw, sOut)

/-- The stage 2 walk of a stream (R2845; 20_memory.md R615). -/
def s2WalkCfg (d : Ids) (i : Sec) (x : Ste) (nsIpa pm : Bool) : WalkCfg :=
  let fmt := ttFmt d x.s2aa64
  let own := i == .s && !nsIpa
  let gran := match fmt with
    | .v32 => 12
    | _ => (granule0 (if own then x.ss2tg else x.s2tg)).getD 12
  let ds := x.effDs d i && gran < 16
  let t0sz := if own then x.ss2t0sz else x.s2t0sz
  let sl0 := if own then x.ss2sl0 else x.s2sl0
  let sl2 := if own then x.ss2sl02 else x.s2sl02
  let skl := if own then x.ss2skl else x.s2skl
  let size := match fmt with
    | .v32 => s2Size32 t0sz
    | _ => 64 - t0sz
  let start := match fmt with
    | .v32 => if sl0 = 0 then 1 else 2
    | .v64 => 4 - (s2StartLevel d gran sl0 sl2 ds).getD 3
    | .v128 => startBelow128 size gran skl
  let base := ttbField d fmt x (if own then 388 else 196)
  let least := match fmt with
    | .v128 => 5
    | _ => if paRange d fmt x.s2ps = 52 then 6 else 4
  { fmt := fmt
    gran := gran
    ds := ds
    inSize := match fmt with
      | .v32 => min 40 size
      | .v64 => min size (min d.ias (if gran = 16 || ds then 52 else 48))
      | .v128 => min size d.ias
    start := start
    base := alignDown base (max (startTableLog2 fmt gran start size) least)
    outBits := paRange d fmt x.s2ps
    tableBits := tableRange d fmt true x.s2ps
    big := x.s2endi
    ha := x.s2ha && fmt != .v32 && d.httu != 0
    hd := x.s2ha && x.s2hd && fmt != .v32 && 2 ≤ d.httu
    haft := x.s2haft && x.s2ha && fmt != .v32 && d.httu == 3
    affd := x.s2affd
    hier := false
    prot := false
    disCh := false
    nsTables := false
    ns := i == .s && (secureS2Ns x nsIpa).1
    assured := true
    pm := pm
    lpa := 52 ≤ d.oas
    amec := if i == .rl && d.mec then some 55 else none }

/-- The PA space of a stage 2 walk. -/
def s2WalkPas (i : Sec) (ns : Bool) : Pas := if i = .s && ns then .ns else i.pas

/-- The output space of stage 2: Realm descriptors have an NS bit, bit 55 (24_attributes.md R1450; its place PRESUMED, log
entry 12). -/
def s2OutPas (i : Sec) (x : Ste) (nsIpa : Bool) (l : Leaf) : Pas :=
  match i with
  | .ns => .ns
  | .s => if (secureS2Ns x nsIpa).2 then .ns else .s
  | .rl => if l.bit 55 then .ns else .rl

/-- A Translation-related fault with the A, R and S flags of its stage: S counts as zero for PM (21_streams_ste.md R901;
64_fault_model.md R2322); for a device that the implementation never stalls a stalling configuration is one that terminates
with an abort and records (64_fault_model.md R2311). -/
def stopTrf {α : Type} (c : Ctx) (f : TrfInfo) (a r stall : Bool) : X α := do
  let s ← X.state
  let st := stall && !c.ev.pm
  let never := st && s.impl.noStallSids.contains (c.ev.sec, c.ev.sid)
  X.stop (.trf f (a || never) (r || never) (st && !never))

/-- A stage 2 Translation-related fault (64_fault_model.md R2308). -/
def s2Fault {α : Type} (c : Ctx) (q : S2Req) (f : TrfInfo → TrfInfo) (k : TrfKind) : X α :=
  stopTrf c (f { kind := k, s2 := true, cls := q.cls, ipa := q.ipa, nsIpa := q.nsIpa, ttRead := !q.acc.writes }) true q.ste.s2r
    q.ste.s2s

/-- The walk's attributes are such that the implementation fails the update of a descriptor (21_streams_ste.md R893;
22_cd_vms.md R1058; parameter httuNoncacheable, log entry 2). -/
def httuFails (s : State) (t : MemType) : Bool := s.impl.httuNoncacheable == .eabt && t != .writeBack

/-- The memory type of the accesses of a stage 2 walk (24_attributes.md R1465). -/
def Ste.s2Type (x : Ste) : MemType := rgnType x.s2ir0 x.s2or0

/-- A failed access to a stage 2 descriptor (61_event_records.md R2265). -/
def s2Eabt {α : Type} (q : S2Req) (a : DWord) (e : MemErr) : X α := do
  let s ← X.state
  X.stop (.event (.walkEabt true q.cls a (e == .gpf) (ttFmt s.ids q.ste.s2aa64 == .v32)))

/-- The physical address of a descriptor fetch or update: the 40 bits of VMSAv8-32 are truncated to the OAS
(61_event_records.md R2265; 20_memory.md R610). -/
def descPa (s : State) (fmt : TtFmt) (a : DWord) : DWord := if fmt = .v32 then s.truncOas a else a

/-- How stage 2 reads and updates descriptors; a failed access is F_WALK_EABT (23_translation.md R2812). An update of the
dirty state is followed by the HDBSS. -/
def s2Mem (c : Ctx) (q : S2Req) : WalkMem where
  read a n ns _ _ := do
    let s ← X.state
    let a := descPa s (ttFmt s.ids q.ste.s2aa64) a
    let p ← steMpam c q.ste
    match ← X.read c (c.acc q.ste.s2Type p) (s2WalkPas c.sec ns) a n .walk with
    | .ok v => pure (v, false)
    | .error e => s2Eabt q a e
  update a ns bs := do
    let s ← X.state
    let a := descPa s (ttFmt s.ids q.ste.s2aa64) a
    if httuFails s q.ste.s2Type then s2Eabt q a .eabt
    else
      let p ← steMpam c q.ste
      match ← X.write c (c.acc q.ste.s2Type p) (s2WalkPas c.sec ns) a bs .walk with
      | none => pure ()
      | some e => s2Eabt q a e
  fault k n := s2Fault c q (fun f => { f with level := n }) k

/-- The memory type of a CD fetch or a stage 1 walk access that stage 2 translates (24_attributes.md R1465): with
SMMU_IDR3.PTWNNC one a Device type is Normal Non-cacheable; with STE.S2PTW one such an access has been terminated
(21_streams_ste.md R899; 11_regs_id.md R103). -/
def s2TypeOf (d : Ids) (x : Ste) (l : Leaf) (t : MemType) : MemType :=
  let m := stage2Mt d.mtePerm (x.s2fwb && d.fwb) t (l.desc.extractLsb' 2 4)
  if d.ptwnnc && m.isDevice then .normal .nc .nc else m

/-- The stage 2 permission configuration (25_dpt_gpc.md R1631). -/
def s2PermCfg (s : State) (i : Sec) (x : Ste) : S2PermCfg where
  indirect := ttFmt s.ids x.s2aa64 == .v128 || (s.ids.s2pi && x.s2pie)
  overlay := s.ids.s2po && x.s2poe
  hd := x.s2ha && x.s2hd && 2 ≤ s.ids.httu
  xnx := s.ids.xnx
  xo := ttFmt s.ids x.s2aa64 != .v32 && !s.impl.instNeedsRead
  s2pii := (s.iface i).s2pii

/-- What a stage 2 leaf permits to an access; a Realm instruction fetch from Non-secure space is not permitted
(61_event_records.md R2269). -/
def s2Perm (s : State) (i : Sec) (q : S2Req) (l : Leaf) : Perm :=
  let g := s2PermCfg s i q.ste
  let p := if g.indirect then s2IndirectPerm g q.ste l q.acc.priv (q.cls == .tt) else s2Direct g l q.acc.priv
  { p with x := p.x && !(i == .rl && l.bit 55) }

/-- The stage 2 memory type of a leaf is a Device type (21_streams_ste.md R899). With STE.S2FWB a Reserved MemAttr is one if what
it behaves as, Config.reservedFwb, is (the spec is silent: DESIGN CHOICE, log entry 7). -/
def s2IsDevice (s : State) (x : Ste) (l : Leaf) : Bool :=
  let v : BitVec 4 := l.desc.extractLsb' 2 4
  (if x.s2fwb && s.ids.fwb then fwbType s.ids.mtePerm v .writeBack else stage2Type s.ids.mtePerm v).isDevice

/-- A stage 2 leaf maps AssuredOnly memory (25_dpt_gpc.md R1633; 21_streams_ste.md R916). -/
def s2Assured (s : State) (x : Ste) (l : Leaf) : Bool := s.ids.the && (x.assuredOnly || l.d128) && l.bit 58

/-- The TopLevel checks: with TL0 or TL1 the top-level table lies in memory that may hold it (21_streams_ste.md R916; PRESUMED,
log entry 15). -/
def topLevelFails (s : State) (i : Sec) (q : S2Req) (l : Leaf) : Bool :=
  let g := s2PermCfg s i q.ste
  match q.top with
  | none => false
  | some ttb1 => s.ids.the && g.indirect && (if ttb1 then q.ste.tl1 else q.ste.tl0) && !s2TopLevel (s2Base g l) ttb1

/-- The access is denied by the permissions, or its dirty-state update by Protected Mode (28_httu.md R1328). -/
def Acc.denied (a : Acc) (pm : Bool) (p : Perm) : Bool :=
  !a.permitted p ||
  match a.need with
  | .wants _ _ => false
  | _ => pm && a.dirties p

/-- The stage 2 Permission fault of an access apart from the AssuredOnly check, if it has one, with its syndrome: base and
overlay, then S2PTW and the Realm rule for structures and tables in Non-secure space, then dirty state (25_dpt_gpc.md R1631;
61_event_records.md R2269). R1631 gives the TopLevel check no place in its order: it is made with base and overlay, before S2PTW
(DESIGN CHOICE, log entry 15). -/
def s2RefuseOwn (s : State) (c : Ctx) (q : S2Req) (l : Leaf) (p : Perm) : Option (TrfInfo → TrfInfo) :=
  if !q.acc.permitted p.base || topLevelFails s c.sec q l then
    some fun f =>
      { f with
        overlay := q.acc.overlayDenied p.base
        asRead := q.cls == .inp && q.acc.lacksRead p.base && (s.ids.atLeast 1 || s.impl.atomicPermRnwV30) }
  else if q.cls != .inp && ((c.sec == .rl && l.bit 55) || (q.ste.config == 7 && q.ste.s2ptw && s2IsDevice s q.ste l)) then some id
  else if q.acc.denied c.ev.pm p then some fun f => { f with dirtyBit := p.dirtyOnly && q.acc.writes }
  else none

/-- The stage 2 Permission fault of an access, if it has one: the AssuredOnly check comes first, and a fault of it is reported as
AssuredOnly alone, whatever else would fail after it (25_dpt_gpc.md R1631 step 1, R1633; 61_event_records.md R2269: DEDUCED, log
entry 15). -/
def s2Refuse (s : State) (c : Ctx) (q : S2Req) (l : Leaf) (p : Perm) : Option (TrfInfo → TrfInfo) :=
  if q.notAssured && s2Assured s q.ste l then some fun f => { f with assuredOnly := true } else s2RefuseOwn s c q l p

/-- The EL1 regime whose entries stage 2 translations are. -/
def s2World (i : Sec) : World :=
  match i with
  | .ns => .nsEl1
  | .s => .secure
  | .rl => .realmEl1

/-- A granule as TG of a TLBI command writes it (42_cmd_tlbi.md R1902). -/
def tgCode (gran : Nat) : BitVec 2 := if gran = 12 then 1 else if gran = 14 then 2 else 3

/-- The TLB entries of the regime, VMID, ASID and address of a lookup (31_tlb_tagging.md R1261, R1267). -/
def tlbMatches (s : State) (w : World) (st : TlbStage) (vmid asid : Option (BitVec 16)) (aset nsIpa : Bool) (va : DWord) :
    List TlbEntry :=
  s.caches.tlb.filter fun e =>
    e.world == w && e.stage == st && e.vmid == vmid && (e.asid == asid || (e.asid == none && e.aset == aset)) &&
      e.nsIpa == nsIpa && e.isLeaf && low56 e.va / 2 ^ e.sizeLog2 == low56 va / 2 ^ e.sizeLog2

/-- Two entries that match one lookup conflict; with Break-Before-Make level 2 entries of different sizes do not
(31_tlb_tagging.md R1280; 70_reset_and_hazards.md R2534). -/
def TlbEntry.conflicts (d : Ids) (e f : TlbEntry) : Bool := e != f && !(d.bbml == 2 && e.sizeLog2 != f.sizeLog2)

/-- The entry that a TLB lookup finds; entries that conflict: F_TLB_CONFLICT (R1280); of entries that do not, the newest
(70_reset_and_hazards.md R2534, log entry 22). -/
def oneTlbEntry (d : Ids) (s2 : Bool) (ipa : DWord) (nsIpa : Bool) (l : List TlbEntry) : X (Option TlbEntry) :=
  if l.any fun e => l.any (e.conflicts d) then X.stop (.event (.tlbConflict s2 ipa nsIpa)) else pure l.head?

/-- A leaf that the TLB may hold: Accessed, and with Break-Before-Make level 1 not a Block with nT set
(70_reset_and_hazards.md R2533). -/
def Leaf.mayCache (d : Ids) (l : Leaf) : Bool := l.af && !(d.bbml == 1 && decide (l.level < 3) && l.bit 16)

/-- Two entries are for the same region of the same regime, VMID and ASID. -/
def TlbEntry.sameRegion (e f : TlbEntry) : Bool :=
  e.world == f.world && e.stage == f.stage && e.vmid == f.vmid && e.asid == f.asid && e.aset == f.aset && e.nsIpa == f.nsIpa &&
    e.isLeaf == f.isLeaf && e.va == f.va && e.sizeLog2 == f.sizeLog2

/-- A TLB with an entry added, in the place of one for the same region. -/
def tlbAdd (e : TlbEntry) (l : List TlbEntry) : List TlbEntry := e :: l.filter fun f => !e.sameRegion f

/-- A cached translation serves an access: with dirty-state updates it does not serve a write that must mark the page dirty, nor,
once CMD_TLBI_S2_VMALLW has removed its dirty state, any access, since the memory may no longer be writable-dirty
(42_cmd_tlbi.md R1927; 28_httu.md R1339; 29_speculation_coherency_embedded.md R652). -/
def TlbEntry.serves (e : TlbEntry) (a : Acc) (hd : Bool) (p : Perm) : Bool :=
  !(hd && ((a.writes && p.wClean) || (e.leaf.bit 7 && !e.dirty)))

/-- A translation of stage 2 (23_translation.md R2812; 20_memory.md R615). -/
def s2Translate (c : Ctx) (q : S2Req) : X S2Out := do
  let s ← X.state
  let x := q.ste
  let g := (s2WalkCfg s.ids c.sec x q.nsIpa c.ev.pm).inhibited c.inhibit
  let m := s2Mem c q
  let vmid := steVmid s.ids c.sec (s2World c.sec) x
  if 2 ^ g.inSize ≤ q.ipa.toNat then s2Fault c q id .translation
  else do
    let found ← oneTlbEntry s.ids true q.ipa q.nsIpa (tlbMatches s (s2World c.sec) .s2 vmid none false q.nsIpa q.ipa)
    let hit := found.filter fun e => e.serves q.acc g.hd (s2Perm s c.sec q e.leaf)
    let l ← match hit with
      | some e => pure e.leaf
      | none => do
        X.miss c .walk
        walk g m q.ipa
    let k : LeafCheck := ⟨.s2, s2Perm s c.sec q, s2Refuse s c q, fun f => s2Fault c q f .permission⟩
    let (l', p) ← checkLeaf g m k q.acc l
    if l'.bit 7 && !l.bit 7 && x.s2hdbss && hit.isNone then
      modify fun s => hdbssAppend s c.sec (alignDown q.ipa l'.sizeLog2) l'.level q.nsIpa
    if hit.isNone && l'.mayCache s.ids then do
      if ← X.cacheNow then
        let e : TlbEntry := { world := s2World c.sec, stage := .s2, vmid := vmid, asid := none, aset := false, nsIpa := q.nsIpa
                              va := alignDown q.ipa l'.sizeLog2, sizeLog2 := l'.sizeLog2, level := l'.level
                              tg := tgCode g.gran, isLeaf := true, dirty := l'.bit 7, leaf := l' }
        X.caches fun k => { k with tlb := tlbAdd e k.tlb }
    let off := BitVec.ofNat 64 (q.ipa.toNat % 2 ^ l'.sizeLog2)
    let pa := alignDown l'.base l'.sizeLog2 + off
    let pa := match g.fmt with
      | .v32 => s.truncOas pa
      | _ => pa
    pure { pa := pa, pas := s2OutPas c.sec x q.nsIpa l', perm := p, leaf := l' }

end Sys2Proof.Machine
end

