-- ==== Sys2Proof/Machine/Stage1.lean ====
section
/-! DEFINITION. The fetch of the CD (23_translation.md R2772, R2810) and the stage 1 translation (R2811, section 7). -/

namespace Sys2Proof.Machine

/-! ## The CD -/

/-- The memory type of CD fetches before stage 2 (21_streams_ste.md R868). -/
def Ste.s1Type (x : Ste) : MemType := rgnType x.s1cir x.s1cor

/-- A read of a CD or L1CD: an IPA goes through stage 2 (R2816), whose memory type combines with that of the STE
(24_attributes.md R1465). The value, and whether the memory is AssuredOnly; without stage
2 it counts as such. -/
def readCdMem (c : Ctx) (x : Ste) (addr : DWord) (n : Nat) : X (Nat × Bool) := do
  X.miss c .cdFetch
  if x.s2On then do
    let o ← s2Translate c ⟨x, .cd, addr, false, .fetch, false, none⟩
    let s ← X.state
    let p ← steMpam c x
    match ← X.read c (c.acc (s2TypeOf s.ids x o.leaf x.s1Type) p) o.pas o.pa n .cdFetch with
    | .ok v => pure (v, s2Assured s x o.leaf)
    | .error e => X.stop (.event (.cdFetch o.pa (e == .gpf)))
  else do
    let p ← steMpam c x
    match ← X.read c (c.acc x.s1Type p) c.sec.pas addr n .cdFetch with
    | .ok v => pure (v, true)
    | .error e => X.stop (.event (.cdFetch addr (e == .gpf)))

/-- log2 of the CDs of a level 2 table, none for a table of one level (21_streams_ste.md R864). -/
def l2CdBits (d : Ids) (x : Ste) : Option Nat :=
  if x.cdMax d = 0 then none
  else
    match x.s1fmt with
    | 1 => some 6
    | 2 => some 10
    | _ => none

/-- S1ContextPtr aligned to the table it points to (R864): a table of CDs, or of L1CDs and at least 64 bytes. -/
def cdBase (d : Ids) (x : Ste) : DWord :=
  match l2CdBits d x with
  | none => alignDown x.s1ContextPtr (x.cdMax d + 6)
  | some k => alignDown x.s1ContextPtr (max 6 (x.cdMax d - k + 3))

/-- The level 2 table that an L1CD gives: V zero and an address out of range are C_BAD_SUBSTREAMID (22_cd_vms.md R1051;
20_memory.md R620 cases 3 and 4). -/
def cdTable (c : Ctx) (x : Ste) (ssid k : Nat) : X (DWord × Bool) := do
  let s ← X.state
  let base := cdBase s.ids x
  let idx := ssid / 2 ^ k
  let r ← match findStream s.caches.l1cds c.sec c.ev.sid idx with
    | some e => pure (e.bits.extractLsb' 0 64, e.assured)
    | none => do
      let (v, as) ← readCdMem c x (base + BitVec.ofNat 64 (idx * 8)) 8
      if ← X.cacheNow then
        X.caches fun t => { t with l1cds := ⟨c.sec, c.ev.sid, idx, 0, as, BitVec.ofNat 512 v⟩ :: t.l1cds }
      pure (BitVec.ofNat 64 v, as)
  let ptr := alignDown (r.1 &&& maskAt 64 12 44) (k + 6)
  if !r.1.getLsbD 0 || decide (2 ^ (if x.s2On then s.ids.ias else s.ids.oas) ≤ ptr.toNat) then
    X.stop (.event (.badSubstreamid (BitVec.ofNat 20 ssid)))
  else pure (ptr, r.2)

/-- The CD of a SubstreamID, and whether it and its L1CD came from AssuredOnly memory; an invalid CD is C_BAD_CD (R2810). -/
def fetchCd (c : Ctx) (x : Ste) (ssid : Nat) : X (Cd × Bool) := do
  let s ← X.state
  let r ← match findStream s.caches.cds c.sec c.ev.sid ssid with
    | some e => pure (e.bits, e.assured)
    | none => do
      let (addr, as1) ← match l2CdBits s.ids x with
        | none => pure (cdBase s.ids x + BitVec.ofNat 64 (ssid * 64), true)
        | some k => do
          let (t, a) ← cdTable c x ssid k
          pure (t + BitVec.ofNat 64 (ssid % 2 ^ k * 64), a)
      let (v, as) ← readCdMem c x addr 64
      if ← X.cacheNow then
        X.caches fun t => { t with cds := ⟨c.sec, c.ev.sid, ssid, 0, as && as1, BitVec.ofNat 512 v⟩ :: t.cds }
      pure (BitVec.ofNat 512 v, as && as1)
  let s ← X.state
  if cdIllegal s c.sec x r.1 then X.stop (.event .badCd) else pure r

/-- Which CD a transaction uses (R2809): none when stage 1 is skipped. -/
def selectCd (c : Ctx) (x : Ste) : X (Option Nat) := do
  let s ← X.state
  let m := x.cdMax s.ids
  match c.ev.ssid with
  | some ss =>
    if !x.s1On || m = 0 || decide (2 ^ m ≤ ss.toNat) then X.stop (.event (.badSubstreamid ss))
    else if ss = 0 ∧ x.s1dss = 2 then X.stop (.event .streamDisabled)
    else pure (some ss.toNat)
  | none =>
    if !x.s1On then pure none
    else if m = 0 then pure (some 0)
    else
      match x.s1dss with
      | 1 => pure none
      | 2 => pure (some 0)
      | _ => X.stop (.event .streamDisabled)

/-! ## Stage 1 -/

/-- Stage 1 of a transaction. -/
structure S1Req where
  ste : Ste
  cd : Cd
  world : World
  cdAssured : Bool
  acc : Acc
  /-- PARTID and PMG of the walk's accesses (62_ras_mpam_mec.md R2665) -/
  mpam : Mpam
  deriving DecidableEq, Repr

/-- What stage 1 gives; `ns` is the target space. -/
structure S1Out where
  addr : DWord
  ns : Bool
  perm : Perm
  leaf : Leaf
  ds : Bool
  /-- the table is TTB1 -/
  half : Bool
  deriving DecidableEq, Repr

/-- A stage 1 Translation-related fault (22_cd_vms.md R1111). -/
def s1Fault {α : Type} (c : Ctx) (q : S1Req) (f : TrfInfo → TrfInfo) (k : TrfKind) : X α :=
  stopTrf c (f { kind := k, s2 := false, cls := .inp, ipa := 0, nsIpa := false }) q.cd.abort q.cd.record
    (q.cd.stall && !q.ste.s1stalld)

/-- The stage 1 Permission fault of an access, if it has one, with its syndrome (61_event_records.md R2269). -/
def s1Refuse (s : State) (pm : Bool) (q : S1Req) (p : Perm) : Option (TrfInfo → TrfInfo) :=
  if !q.acc.permitted p.base then
    some fun f => { f with asRead := q.acc.lacksRead p.base && (s.ids.atLeast 1 || s.impl.atomicPermRnwV30) }
  else if q.acc.denied pm p then some fun f => { f with dirtyBit := p.dirtyOnly && q.acc.writes }
  else none

/-- The table that an input address selects, none if the address is out of range (R2843, R2849; 20_memory.md R613). In
VMSAv8-32 with T1SZ not zero the addresses whose top T1SZ bits are ones are those of TTB1, also where T0SZ is zero and R2849
gives TTB0 the same addresses; with T1SZ zero TTB1 has what TTB0 does not cover (DESIGN CHOICE, log entry 12). T0SZ and T1SZ
are IGNORED where EPD0 and EPD1 disable their table (22_cd_vms.md R1056, R1059, R1061): they then count as zero (DESIGN CHOICE,
log entry 12), which in VMSAv8-64 leaves the table all addresses of its half, none of which it walks. -/
def selectTtb (d : Ids) (w : World) (c : Cd) (va : DWord) : Option Bool :=
  match ttFmt d c.aa64 with
  | .v32 =>
    let t0 := c.effT0sz w % 8
    let t1 := c.effT1sz w % 8
    let low := va.toNat / 2 ^ (32 - t0) = 0
    if 2 ^ 32 ≤ va.toNat then none
    else if w.single ∨ t1 = 0 then (if low then some false else if w.single then none else some true)
    else if va.toNat / 2 ^ (32 - t1) = 2 ^ t1 - 1 then some true
    else if low then some false
    else none
  | _ =>
    let half := !w.single && va.getLsbD 55
    let size := 64 - (if half then c.effT1sz w else c.effT0sz w)
    let tbi := if half then c.tbi1 else c.tbi0
    let top := (if tbi then 56 else 64) - size
    let bits := fieldNat va size top
    if bits = (if half then 2 ^ top - 1 else 0) then some half else none

/-- The walk of a CD's table (R2844; 22_cd_vms.md). With an effective IPS of 56 bits a VMSAv8-64 table is aligned to 64 bytes at
least, as 22_cd_vms.md R1077 says of 52 bits (DESIGN CHOICE, log entry 12). -/
def s1WalkCfg (d : Ids) (i : Sec) (q : S1Req) (half pm : Bool) : WalkCfg :=
  let c := q.cd
  let fmt := ttFmt d c.aa64
  let gran := match fmt with
    | .v32 => 12
    | _ => (if half then granule1 c.tg1 else granule0 c.tg0).getD 12
  let txsz := if half then c.t1sz else c.t0sz
  let size := match fmt with
    | .v32 => 32 - txsz % 8
    | _ => 64 - txsz
  let skl := if half then c.skl1 else c.skl0
  let ch := if half then c.had1 else c.had0
  let start := match fmt with
    | .v128 => startBelow128 size gran skl
    | _ => (size - 1 - gran) / strideOf gran 3
  let base := ttbField d fmt c (if half then 132 else 68)
  let least := match fmt with
    | .v128 => 5
    | _ => if 52 ≤ paRange d fmt c.ips then 6 else 4
  { fmt := fmt
    gran := gran
    ds := c.effDs d q.world && gran < 16
    inSize := size
    start := start
    base := alignDown base (max (startTableLog2 fmt gran start size) least)
    outBits := paRange d fmt c.ips
    tableBits := tableRange d fmt (!q.ste.s2On) c.ips
    big := c.endi
    ha := c.ha && fmt != .v32 && d.httu != 0
    hd := c.ha && c.hd && fmt != .v32 && 2 ≤ d.httu
    haft := c.haft && c.ha && fmt != .v32 && d.httu == 3
    affd := c.affd
    hier := fmt != .v128 && !(d.had && !d.d128 && ch)
    prot := d.the && (fmt == .v128 || (fmt == .v64 && c.pnch))
    disCh := fmt == .v128 && ch
    nsTables := i == .s
    ns := i == .s && (if half then c.nscfg1 else c.nscfg0)
    assured := q.cdAssured
    pm := pm
    lpa := 52 ≤ d.oas
    amec := if i == .rl && d.mec && !q.world.isEl1 then some 5 else none }

/-- The memory type of the accesses of a stage 1 walk before stage 2 (22_cd_vms.md R1058; 24_attributes.md R1465). -/
def Cd.walkType (c : Cd) (half : Bool) : MemType := if half then rgnType c.ir1 c.or1 else rgnType c.ir0 c.or0

/-- Where a stage 1 descriptor is: its IPA through stage 2, or its PA (R2811; 61_event_records.md R2265); whether its memory is AssuredOnly, and the memory
type `t` of the access with that of stage 2. -/
def s1DescAddr (c : Ctx) (q : S1Req) (a : DWord) (ns notAssured : Bool) (top : Option Bool) (acc : Acc)
    (t : MemType) : X (DWord × Pas × Bool × MemType) := do
  if q.ste.s2On then do
    let o ← s2Translate c { ste := q.ste, cls := .tt, ipa := a, nsIpa := c.sec == .s && ns, acc := acc, notAssured := notAssured
                            top := top }
    let s ← X.state
    pure (o.pa, o.pas, s2Assured s q.ste o.leaf, s2TypeOf s.ids q.ste o.leaf t)
  else do
    let s ← X.state
    pure (descPa s (ttFmt s.ids q.cd.aa64) a, s2WalkPas c.sec ns, true, t)

/-- A failed access to a stage 1 descriptor (61_event_records.md R2265). -/
def s1Eabt {α : Type} (q : S1Req) (a : DWord) (e : MemErr) : X α := do
  let s ← X.state
  X.stop (.event (.walkEabt false .tt a (e == .gpf) (ttFmt s.ids q.cd.aa64 == .v32)))

/-- How stage 1 reads and updates descriptors of TTB0 or TTB1; a failed access is F_WALK_EABT with S2 zero (R2811). -/
def s1Mem (c : Ctx) (q : S1Req) (half : Bool) : WalkMem where
  read a n ns na top := do
    let (pa, pas, as, t) ← s1DescAddr c q a ns na (if top then some half else none) .fetch (q.cd.walkType half)
    match ← X.read c (c.acc t q.mpam) pas pa n .walk with
    | .ok v => pure (v, as)
    | .error e => s1Eabt q pa e
  update a ns bs := do
    let (pa, pas, _, t) ← s1DescAddr c q a ns false none .update (q.cd.walkType half)
    let s ← X.state
    if httuFails s (q.cd.walkType half) then s1Eabt q pa .eabt
    else
      match ← X.write c (c.acc t q.mpam) pas pa bs .walk with
      | none => pure ()
      | some e => s1Eabt q pa e
  fault k n := s1Fault c q (fun f => { f with level := n }) k

/-- The target space of a stage 1 leaf is Non-secure (24_attributes.md R1444). -/
def s1OutNs (i : Sec) (w : World) (l : Leaf) : Bool :=
  match i with
  | .ns => true
  | .s => l.nsTable || l.bit 5
  | .rl => !w.isEl1 && l.bit 5

/-- What a stage 1 leaf permits to an access (25_dpt_gpc.md R1630; 23_translation.md R2847). -/
def s1Perm (s : State) (i : Sec) (q : S1Req) (l : Leaf) : Perm :=
  let c := q.cd
  let indirect := s1Indirect s.ids q.ste c
  let v32 := ttFmt s.ids c.aa64 == .v32
  let g : S1PermCfg :=
    { single := q.world.single
      hd := c.ha && c.hd && !v32 && 2 ≤ s.ids.httu
      wxn := c.wxn
      uwxn := c.uwxn
      pan := c.pan && !q.world.single
      epan := s.ids.epan && c.epan && !v32
      panLate := s.impl.panLate
      v32 := v32
      xo := !v32 && !s.impl.instNeedsRead
      nsNoExec := i == .rl || (i == .s && s.sec.cr0ack.getLsbD 5) }
  if indirect then s1IndirectPerm g c l q.acc.priv (s1OutNs i q.world l)
  else s1Direct g l q.acc.priv (s1OutNs i q.world l)

/-- An unprivileged access that E0PDx turns into a Translation fault (22_cd_vms.md R1075). -/
def e0pdFault (d : Ids) (q : S1Req) (half : Bool) : Bool :=
  d.e0pd && !q.world.single && ttFmt d q.cd.aa64 == .v64 && !q.acc.priv && (if half then q.cd.e0pd1 else q.cd.e0pd0)

/-- The ASID tag of a translation, none for a global one (31_tlb_tagging.md R1260, R1267; 22_cd_vms.md R1078). -/
def asidTag (d : Ids) (i : Sec) (q : S1Req) (half : Bool) (l : Leaf) : Option (BitVec 16) :=
  let fng := d.fng && ttFmt d q.cd.aa64 != .v32 && (if half then q.cd.fng1 else q.cd.fng0)
  if q.world.single then none
  else if l.bit 11 || fng || (i == .s && l.fromNs) then some q.cd.asid
  else none

/-- A translation of stage 1 (R2811). -/
def s1Translate (c : Ctx) (q : S1Req) : X S1Out := do
  let s ← X.state
  let d := s.ids
  let va := c.ev.addr
  match selectTtb d q.world q.cd va with
  | none => s1Fault c q id .translation
  | some half =>
    if e0pdFault d q half then s1Fault c q id .translation
    else do
      let g := (s1WalkCfg d c.sec q half c.ev.pm).inhibited c.inhibit
      let m := s1Mem c q half
      let vmid := steVmid d c.sec q.world q.ste
      let asid := if q.world.single then none else some q.cd.asid
      let found ← oneTlbEntry d false 0 false (tlbMatches s q.world .s1 vmid asid q.cd.aset false va)
      let hit := found.filter fun e => e.serves q.acc g.hd (s1Perm s c.sec q e.leaf)
      let l ← match hit with
        | some e => pure e.leaf
        | none =>
          if (if half then q.cd.effEpd1 q.world else q.cd.effEpd0 q.world) then m.fault .translation 0
          else do
            X.miss c .walk
            walk g m va
      let ns := s1OutNs c.sec q.world l
      let k : LeafCheck :=
        ⟨.s1, s1Perm s c.sec q, fun _ p => s1Refuse s c.ev.pm q p, fun f => s1Fault c q f .permission⟩
      let (l', p) ← checkLeaf g m k q.acc l
      if hit.isNone && l'.mayCache d then do
        if ← X.cacheNow then
          let e : TlbEntry := { world := q.world, stage := .s1, vmid := vmid, asid := asidTag d c.sec q half l', aset := q.cd.aset
                                nsIpa := false, va := alignDown va l'.sizeLog2, sizeLog2 := l'.sizeLog2, level := l'.level
                                tg := tgCode g.gran, isLeaf := true, dirty := true, leaf := l' }
          X.caches fun t => { t with tlb := tlbAdd e t.tlb }
      let off := BitVec.ofNat 64 (va.toNat % 2 ^ l'.sizeLog2)
      pure { addr := alignDown l'.base l'.sizeLog2 + off, ns := ns, perm := p, leaf := l', ds := g.ds, half := half }

/-- The attributes that a stage 1 leaf gives (22_cd_vms.md R1084, R1086; 24_attributes.md R1442). A VMSAv8-32 descriptor has no
AttrIndx[3]: R1086 places that bit for the other two formats only (DEDUCED, log entry 12). -/
def s1LeafAttrs (d : Ids) (c : Cd) (o : S1Out) : Attrs :=
  let hi := if o.leaf.d128 then o.leaf.raw.getLsbD 5 else c.aa64 && o.leaf.bit 59
  let idx := fieldNat o.leaf.desc 2 3 + (if d.aie && c.aie && hi then 8 else 0)
  let sh := if o.ds then shField (if o.half then c.sh1 else c.sh0) else descSh (fieldNat o.leaf.desc 8 2)
  { mairAttrs (c.mair idx) with sh := sh }

/-- The PBHA bits of a stage 1 leaf, those that hardware does not use zero (22_cd_vms.md R1082). -/
def s1Pbha (d : Ids) (c : Cd) (o : S1Out) : BitVec 4 :=
  if d.pbha && !d.d128 && (if o.half then c.had1 else c.had0) then
    o.leaf.desc.extractLsb' 59 4 &&& BitVec.ofNat 4 (if o.half then c.hwu1 else c.hwu0)
  else 0

end Sys2Proof.Machine
end

