-- ==== Sys2Proof/Machine/Translate.lean ====
section
/-! DEFINITION. The path of a transaction through both stages (23_translation.md section 6): permissions, output address and
space, memory attributes, MPAM and MECID. -/

namespace Sys2Proof.Machine

/-! ## What the STE overrides -/

/-- The overrides of an STE as far as SMMU_IDR1 says they take effect (21_streams_ste.md R882 to R887; 24_attributes.md R1412,
R1414). With MTCOMB and MTCFG zero ALLOCCFG follows the parameter alloccfgWithoutMtcfg (R884, log entry 2). -/
def steOverrides (s : State) (x : Ste) (pcie : Bool) : Overrides :=
  let types := s.ids.attrTypesOvr && (s.ids.mtcomb || !pcie || s.impl.pcieTypeOverridesApply)
  let perms := s.ids.attrPermsOvr
  { mt := if types && x.mtcfg then some (memAttrOverride x.memAttr) else none
    sh := if types then shCfg x.shcfg else none
    alloc := if types && (s.ids.mtcomb || x.mtcfg || s.impl.alloccfgWithoutMtcfg) then allocCfg x.alloccfg else none
    inst := if perms then boolCfg x.instcfg else none
    priv := if perms then boolCfg x.privcfg else none }

/-- The Non-secure attribute after STE.NSCFG, of a transaction that stage 1 does not translate (21_streams_ste.md R886;
65_security_states.md R2432, R2433); where the client supplies none, Non-secure for a Secure stream and Realm for a Realm
stream (24_attributes.md R1410). -/
def nsAfterCfg (d : Ids) (i : Sec) (x : Ste) (incoming : Option Bool) : Bool :=
  match i with
  | .ns => true
  | .s =>
    if !d.attrPermsOvr then incoming.getD true
    else
      match x.nscfg with
      | 2 => false
      | 3 => true
      | _ => incoming.getD true
  | .rl =>
    match x.nscfg with
    | 2 => false
    | 3 => true
    | _ => incoming.getD false

/-- The PA space of an output with an NS attribute, where stage 2 does not translate (24_attributes.md R1450). -/
def nsPas (i : Sec) (ns : Bool) : Pas := if ns then .ns else i.pas

/-! ## The path through the stages -/

/-- A transaction to be taken through the stages: its STE, the access after the overrides, the attributes after the
overrides, the incoming NS attribute, whether XT is given (26_ats_pri.md R1726), and the VMS if it is enabled. -/
structure PathReq where
  ste : Ste
  acc : Acc
  attrs : Attrs
  nsAttr : Option Bool
  xt : Bool
  vms : Option (BitVec 512)
  deriving DecidableEq, Repr

/-- What the stages give. -/
structure Path where
  addr : DWord
  /-- the stage 1 output address -/
  ipa : DWord
  pas : Pas
  p1 : Perm
  p2 : Perm
  attrs : Attrs
  /-- the attributes that come out if those that enter stage 2, or leave where there is none, count as Inner and Outer Write-Back,
  Shareable -/
  fromWb : Attrs
  /-- a stage of translation was applied -/
  applied : Bool
  /-- stage 1 was applied -/
  s1 : Bool
  forcedWb : Bool
  /-- log2 of the region of constant translation -/
  sizeLog2 : Nat
  global : Bool
  /-- the SubstreamID's CD, where stage 1 was applied -/
  cd : Option Cd
  /-- PBHA of the stage 1 and of the stage 2 leaf (log entry 43) -/
  pbha1 : BitVec 4 := 0
  pbha2 : BitVec 4 := 0
  /-- PARTID and PMG of the transaction (62_ras_mpam_mec.md R2662) -/
  mpam : Mpam
  deriving DecidableEq, Repr

/-- A fault of a transaction that skips stage 1: always terminated with an abort, always recorded (64_fault_model.md R2302). -/
def skipFault {α : Type} (k : TrfKind) : X α :=
  X.stop (.trf { kind := k, s2 := false, cls := .inp, ipa := 0, nsIpa := false } true true false)

/-- An instruction access to Non-secure space that the SIF rule or the Realm rule forbids (23_translation.md R2814). -/
def sifForbids (s : State) (i : Sec) (ind ns : Bool) : Bool :=
  ind && ns && (i == .rl || (i == .s && s.sec.cr0ack.getLsbD 5))

/-- The first half: what enters stage 2, or leaves the SMMU (R2807, R2809 to R2811). -/
structure Half where
  addr : DWord
  ns : Bool
  perm : Perm
  attrs : Attrs
  s1 : Bool
  assured : Bool
  sizeLog2 : Nat
  global : Bool
  cd : Option Cd
  pbha : BitVec 4
  mpam : Mpam
  deriving DecidableEq, Repr

/-- Stage 1, or its skipping; the region of an identity mapping is at most the OAS (26_ats_pri.md R1695). -/
def pathS1 (c : Ctx) (q : PathReq) : X Half := do
  let s ← X.state
  let d := s.ids
  match ← selectCd c q.ste with
  | none =>
    let ns := nsAfterCfg d c.sec q.ste q.nsAttr
    let limit := if q.ste.config = 4 then d.oas else d.ias
    if 2 ^ limit ≤ c.ev.addr.toNat then skipFault .addrSize
    else
      let forbidden := sifForbids s c.sec true ns && !(c.sec == .rl && q.ste.s2On)
      let p : Perm := { Perm.all with x := !forbidden }
      if !q.acc.permitted p then skipFault .permission
      else do
        let m ← requestMpam c q.ste q.vms none
        pure { addr := c.ev.addr, ns := ns, perm := p, attrs := q.attrs, s1 := false, assured := false
               sizeLog2 := min limit d.oas, global := false, cd := none, pbha := 0, mpam := m }
  | some ss =>
    let (cd, as) ← fetchCd c q.ste ss
    let w := streamWorld s c.sec q.ste
    let m ← requestMpam c q.ste q.vms (some cd)
    let r : S1Req := ⟨q.ste, cd, w, as, q.acc, m⟩
    let o ← s1Translate c r
    pure { addr := o.addr, ns := o.ns, perm := o.perm
           attrs := stage1Attrs d.mtcomb cd.mtop q.attrs (s1LeafAttrs d cd o)
           s1 := true, assured := as && o.leaf.assured, sizeLog2 := o.leaf.sizeLog2
           global := (asidTag d c.sec r o.half o.leaf).isNone && !w.single, cd := some cd, pbha := s1Pbha d cd o
           mpam := m }

/-- A Translation Request whose stage 1 grants it nothing stops there (26_ats_pri.md R1662): no read, or no execution where
INSTCFG makes its reads instruction fetches, and no write, `nwGrants` saying that write is granted to requests that do not ask
for it (R1700); a speculative request goes on to learn that the translation is writable-clean
(29_speculation_coherency_embedded.md R652). A write is wanted of stage 2 only if stage 1 grants it (28_httu.md R1336). -/
def accAfterS1 (nwGrants : Bool) (a : Acc) (p : Perm) : Option Acc :=
  match a.need with
  | .wants w spec =>
    if (if a.ind then p.x else p.r) || ((w || nwGrants) && p.w && (spec || !p.wClean)) then
      some { a with need := .wants (w && p.w) spec }
    else none
  | _ => some a

/-- SH of a stage 2 leaf: from S2SH0 with 52-bit tables (21_streams_ste.md R908). -/
def s2LeafSh (d : Ids) (i : Sec) (x : Ste) (l : Leaf) : Nat :=
  if x.effDs d i then (if x.s2sh0 = 1 then 0 else x.s2sh0) else fieldNat l.desc 8 2

/-- The PBHA bits of a stage 2 leaf, those that hardware does not use zero (21_streams_ste.md R869). -/
def s2Pbha (d : Ids) (x : Ste) (l : Leaf) : BitVec 4 :=
  if d.pbha && !l.d128 then l.desc.extractLsb' 59 4 &&& BitVec.ofNat 4 x.hwu else 0

/-- The output of stage 2 is one that the SIF rule forbids to a Secure instruction access (23_translation.md R2814; that it is
recorded as the stage 1 F_PERMISSION is DEDUCED, log entry 44). -/
def sifAfterS2 (s : State) (i : Sec) (ind : Bool) (pas : Pas) : Bool := i == .s && sifForbids s i ind (pas == .ns)

/-- Both stages (R2809 to R2812). -/
def pathThrough (c : Ctx) (q : PathReq) : X Path := do
  let s ← X.state
  let d := s.ids
  let x := q.ste
  let h ← pathS1 c q
  let out ←
    if x.s2On then do
      match accAfterS1 s.impl.atsGrantWOnNw q.acc h.perm with
      | none => skipFault .permission
      | some acc => do
        let o ← s2Translate c ⟨x, .inp, h.addr, c.sec == .s && h.ns, acc, !h.assured, none⟩
        if sifAfterS2 s c.sec q.acc.ind o.pas then
          match h.cd with
          | some cd =>
            stopTrf c { kind := .permission, s2 := false, cls := .inp, ipa := 0, nsIpa := false } cd.abort cd.record
              (cd.stall && !x.s1stalld)
          | none => skipFault .permission
        let ma : BitVec 4 := o.leaf.desc.extractLsb' 2 4
        let fwb := x.s2fwb && d.fwb
        let sh := s2LeafSh d c.sec x o.leaf
        pure ({ addr := o.pa, ipa := h.addr, pas := o.pas, p1 := h.perm, p2 := o.perm
                attrs := stage2Attrs d.mtcomb d.mtePerm fwb h.attrs ma sh
                fromWb := stage2Attrs d.mtcomb d.mtePerm fwb .sharedWb ma sh
                applied := true, s1 := h.s1, forcedWb := fwb && forcedWb d.mtePerm ma
                sizeLog2 := min h.sizeLog2 o.leaf.sizeLog2, global := h.global, cd := h.cd
                pbha1 := h.pbha, pbha2 := s2Pbha d x o.leaf, mpam := h.mpam } : Path)
    else
      pure { addr := s.truncOas h.addr, ipa := h.addr, pas := nsPas c.sec h.ns, p1 := h.perm, p2 := Perm.all
             attrs := h.attrs, fromWb := .sharedWb, applied := h.s1, s1 := h.s1, forcedWb := false, sizeLog2 := h.sizeLog2
             global := h.global, cd := h.cd, pbha1 := h.pbha, mpam := h.mpam }
  if c.sec = .rl && d.xt && x.nscfg == 1 && q.xt && (out.pas == .ns) != q.nsAttr.getD false then do
    let s2 := x.s2On
    let f : TrfInfo := { kind := .permission, s2 := s2, cls := .inp, ipa := out.ipa, nsIpa := false, xt := true }
    if s2 then stopTrf c f true x.s2r x.s2s
    else
      match out.cd with
      | some cd => stopTrf c f cd.abort cd.record cd.stall
      | none => stopTrf c f true true false
  else pure out

/-! ## MECID of client transactions -/

/-- The Input MECID of a PM access, in the bits that SMMU_MECIDR.PMECIDSIZE says are supported (11_regs_id.md R111). -/
def Ids.inputMecid (d : Ids) (v : BitVec 16) : BitVec 16 := BitVec.ofNat 16 (v.toNat % 2 ^ (d.pmecidSize + 1))

/-- The MECID of a client transaction (62_ras_mpam_mec.md R2672; 21_streams_ste.md R914). -/
def clientMecid (d : Ids) (i : Sec) (x : Option Ste) (pas : Pas) (pm : Bool) (supplied : BitVec 16) : BitVec 16 :=
  match pas with
  | .rl => match x with
    | some x => x.mecid d i
    | none => 0
  | .nsp => if pm then d.inputMecid supplied else 0
  | _ => 0

end Sys2Proof.Machine
end

