-- ==== Sys2Proof/Machine/Client.lean ====
section
/-! DEFINITION. Client transactions: ordinary ones from arrival to response (23_translation.md R2800 to R2815), termination and
stalling (64_fault_model.md), the output stage (24_attributes.md, 32_special_transactions.md), and accesses without a
StreamID (25_dpt_gpc.md R1602). -/

namespace Sys2Proof.Machine

/-! ## Classes of transactions -/

/-- Recorded as a write (32_special_transactions.md R1509, R1523; 24_attributes.md R1403). -/
def TxnKind.isWrite : TxnKind → Bool
  | .write | .wdcp | .atomic => true
  | _ => false

/-- Hints: they never fault and are never answered with an abort (32_special_transactions.md R1508, R1523). -/
def TxnKind.isHint : TxnKind → Bool
  | .nwdcp | .dh => true
  | _ => false

/-- What a class of transaction asks of the stages (32_special_transactions.md R1505 to R1508, R1523, R1526). -/
def TxnKind.need : TxnKind → Need
  | .write | .wdcp => .must false true
  | .atomic => .must true true
  | .nwdcp => .any
  | _ => .must true false

/-- Always Data, INSTCFG being ignored (24_attributes.md R1403, R1405, R1413). -/
def TxnKind.alwaysData : TxnKind → Bool
  | .nwdcp => true
  | k => k.isWrite

/-- A PCIe transaction without a PASID prefix: Data, Unprivileged (26_ats_pri.md R1652). -/
def Txn.plainPcie (t : Txn) : Bool := t.pcie && t.ssid.isNone

/-- The incoming instruction attribute. -/
def Txn.inInstr (t : Txn) : Bool := t.instr.getD false && !t.kind.alwaysData && !t.plainPcie

/-- The incoming privilege attribute. -/
def Txn.inPriv (t : Txn) : Bool := t.priv.getD false && !t.plainPcie

/-- The transaction with the Protected Mode attribute that the machine sees: that of Non-secure streams, with GDI (25_dpt_gpc.md
R1623). -/
def Txn.arrive (d : Ids) (t : Txn) : Txn := { t with pm := t.pm && d.gdi && t.sec == .ns }

/-- The transaction as events record it, with its attributes after overrides (61_event_records.md R2251). -/
def Txn.ev (t : Txn) (o : Overrides) : EvTxn :=
  { sec := t.sec
    sid := t.sid
    ssid := t.ssid
    addr := t.addr
    rnw := !t.kind.isWrite
    ind := o.inst.getD t.inInstr && !t.kind.alwaysData
    pnu := o.priv.getD t.inPriv
    inInd := t.inInstr
    inPnu := t.inPriv
    pm := t.pm && t.sec == .ns }

/-- No overrides. -/
def Overrides.none : Overrides := ⟨Option.none, Option.none, Option.none, Option.none, Option.none⟩

/-- Granule protection faults of the transaction are quiet (25_dpt_gpc.md R1603). -/
def Txn.quiet (t : Txn) : Bool := t.speculative || t.kind.isHint

/-! ## Termination and stalling -/

/-- The response to a client. -/
def State.respond (s : State) (tag : Nat) (r : Response) : State := s.send (.response tag r)

/-- An STAG that no stalled transaction holds (64_fault_model.md R2319; its choice is log entry 23). -/
def freshStag (s : State) : BitVec 16 :=
  BitVec.ofNat 16 (((List.range (s.stalls.length + 1)).find? fun n => !s.stalls.any fun x => x.recorded && x.stag.toNat == n).getD 0)

/-- A transaction or access stalls: its event is recorded with Stall set if the Event queue is writable and fewer than STALL_MAX stalls
are recorded; else it is retried later (64_fault_model.md R2315, R2320; 11_regs_id.md R105). -/
def stallAccess (s : State) (w : Stalled) (ev : EvTxn) (f : TrfInfo) : State :=
  let recorded := (s.stalls.filter (·.recorded)).length
  if s.eventqWritable w.sec && decide (recorded < s.ids.stallMax) then
    let stag := freshStag s
    match s.recordOf ev (.trf f (some stag)) with
    | (rec, s) =>
      match writeRecord s w.sec rec with
      | (ok, s) => { s with stalls := s.stalls ++ [⟨stag, w, ok⟩] }
  else { s with stalls := s.stalls ++ [⟨0, w, false⟩] }

/-- A stalled access is terminated: a client's gets a response; a DCMDQ's is the failed translation of R743 in 27_queues.md,
unless the queue has stopped meanwhile (log entry 23). -/
def endStall (s : State) (w : Stalled) (r : Response) : State :=
  match w with
  | .txn t => s.respond t.tag r
  | .dcmdq i n _ => if (s.ecmdqAt i n).any fun e => e.dcEnabled && !e.hsErrActive then hsErrorOf s i n .ipa else s

/-- An event is recorded; C_BAD_STREAMID only if RECINVSID is set (12_regs_control.md R172). -/
def emitFor (s : State) (ev : EvTxn) (e : Event) : State :=
  if e = .badStreamid ∧ !(s.iface ev.sec).cr2.getLsbD 1 then s else emitEvent s ev e

/-- How a transaction that was stopped ends (22_cd_vms.md R1111; 64_fault_model.md R2308; hints complete, speculative accesses
leave no record, R2332). -/
def endStopped (s : State) (t : Txn) (ev : EvTxn) (why : Stop) : State :=
  if t.kind.isHint then s.respond t.tag (.done [])
  else if t.speculative then s.respond t.tag .abort
  else
    match why with
    | .silent => s.respond t.tag .abort
    | .event e => (emitFor s ev e).respond t.tag .abort
    | .trf f a r st =>
      if st then stallAccess s (.txn t) ev f
      else (if r then emitEvent s ev (.trf f none) else s).respond t.tag (if a then .abort else .razWi)

/-! ## Output -/

/-- A transaction ready for output. -/
structure OutReq where
  pas : Pas
  addr : DWord
  attrs : Attrs
  ind : Bool
  priv : Bool
  /-- the class after the STE's enables and the stages' permissions; none is a no-op -/
  kind : Option TxnKind
  partid : BitVec 16
  pmg : BitVec 8
  mpamSp : BitVec 2
  mecid : BitVec 16
  pbha1 : BitVec 4 := 0
  pbha2 : BitVec 4 := 0
  deriving DecidableEq, Repr

/-- The downgraded form of a class, none for a no-op (32_special_transactions.md R1503, R1522). -/
def TxnKind.downgrade : TxnKind → Option TxnKind
  | .dr => some .read
  | .wdcp => some .write
  | .nwdcp => none
  | .invalidate => some .cleanInvalidate
  | .dh => none
  | k => some k

/-- A class that passes no stage of translation: SMMUv3.0 downgrades it all the same (32_special_transactions.md R1501). -/
def TxnKind.throughBypass (d : Ids) (k : TxnKind) : Option TxnKind := if d.atLeast 1 then some k else k.downgrade

/-- Classes whose write permission may be missing (R1506, R1523). -/
def TxnKind.softWrite : TxnKind → Bool
  | .dr | .invalidate | .dh => true
  | _ => false

/-- The combined permissions of the stages grant a directed cache prefetch (32_special_transactions.md R1508). -/
def combinedGrant (p q : Perm) : Bool := (p.r && q.r) || (p.x && q.x) || (p.w && !p.wClean && q.w && !q.wClean)

/-- The class after STE.DRE, STE.DCP and the permissions of the stages (32_special_transactions.md R1502, R1506, R1508,
R1522, R1523); `hardW` is write permission without a dirty-state update. A prefetch without write data whose stages grant
disjoint permissions goes on only if they are evaluated per stage (parameter dcpPermPerStage, log entry 2). -/
def kindAfterStages (s : State) (x : Ste) (p : Path) (k : TxnKind) : Option TxnKind :=
  let hardW := p.p1.w && !p.p1.wClean && p.p2.w && !p.p2.wClean
  let dre := x.dre && !(s.ids.mtcomb && p.forcedWb)
  if !s.ids.atLeast 1 || !p.applied then k.throughBypass s.ids
  else if k.softWrite then (if dre && hardW then some k else k.downgrade)
  else if k = .nwdcp ∧ !s.impl.dcpPermPerStage ∧ !combinedGrant p.p1 p.p2 then none
  else if k = .wdcp ∨ k = .nwdcp then (if x.dcp then some k else k.downgrade)
  else some k

/-- The class after the final attributes: destructive and prefetching classes need a cacheable type (R1510). -/
def kindAfterAttrs (a : Attrs) (k : TxnKind) : Option TxnKind :=
  if a.mt.cacheable then some k
  else
    match k with
    | .dr | .wdcp | .nwdcp | .dh => k.downgrade
    | _ => some k

/-- An Exclusive access stays Exclusive unless it goes to a Shareable cacheable location (32_special_transactions.md R1527;
AXI's Shareable domain, log entry 24). -/
def staysExclusive (t : Txn) (a : Attrs) : Bool := t.exclusive && !(a.mt.cacheable && a.sh != .nsh)

/-- An access that left the SMMU as Exclusive, answered by the interconnect: a read with EXOK, a write with EXOK, or with OK and
nothing stored, as its exclusive monitor decides, a free value (32_special_transactions.md R1527; log entry 24). -/
def exclusiveAccess (s : State) (t : Txn) (k : TxnKind) (pas : Pas) (addr : DWord) : State :=
  match k with
  | .write =>
    match s.takeFree with
    | (u, s) =>
      if u.getLsbD 0 then (s.storeBytes pas addr t.data).respond t.tag (.exOkay []) else s.respond t.tag (.done [])
  | _ => s.respond t.tag (.exOkay (s.mem.bytes pas addr t.len))

/-- The memory access of a forwarded transaction, answered by the interconnect (64_fault_model.md R2305). An atomic access
replaces the bytes and returns the old ones (log entry 24). -/
def memAccess (s : State) (t : Txn) (k : TxnKind) (pas : Pas) (addr : DWord) : State :=
  let n := max 1 (max t.data.length t.len)
  if s.extAbort pas addr n then s.respond t.tag .abort
  else
    match k with
    | .read | .rci | .dr => s.respond t.tag (.done (s.mem.bytes pas addr t.len))
    | .write | .wdcp => (s.storeBytes pas addr t.data).respond t.tag (.done [])
    | .atomic => (s.storeBytes pas addr t.data).respond t.tag (.done (s.mem.bytes pas addr t.data.length))
    | _ => s.respond t.tag (.done [])

/-- The granule protection check of an output with a class: a class that lacks only write permission is downgraded
(25_dpt_gpc.md R1624; 32_special_transactions.md R1506, R1523). -/
def gpcForKind (s : State) (o : GpcFrom) (pas : Pas) (addr : DWord) (k : TxnKind) : Option TxnKind × GpcResult :=
  if k.softWrite then
    match gpcCheck s o pas addr true with
    | .pass p => (some k, .pass p)
    | _ => (k.downgrade, gpcCheck s o pas addr false)
  else (some k, gpcCheck s o pas addr k.isWrite)

/-- The output stage: consistency of attributes (24_attributes.md R1430), No_snoop without MTCOMB (R1460), the granule
protection check (25_dpt_gpc.md R1600), the access. A hint that only lacks write permission of the check does nothing; one
that it does not even let read may be reported (R1603). Output INST and PRIV are Data and Privileged from SMMUv3.4 on
(24_attributes.md R1406). -/
def outputTxn (s : State) (t : Txn) (q : OutReq) : State :=
  let o : GpcFrom := .stream t.sec t.pm
  let attrs := q.attrs.consistent
  let attrs := if t.noSnoop && !s.ids.mtcomb then noSnoopAttrs attrs else attrs
  match q.kind.bind (kindAfterAttrs attrs) with
  | none => s.respond t.tag (.done [])
  | some k =>
    let s := noteGpt s (.stream t.sec t.sid t.pm) (q.partid, q.pmg, q.mpamSp) q.addr
    match gpcForKind s o q.pas q.addr k with
    | (none, .pass _) => s.respond t.tag (.done [])
    | (none, r) => (reportGpc s t.quiet r q.pas q.addr .transaction).respond t.tag (.done [])
    | (some k, .pass pas) =>
      let s := cacheGpi s q.addr
      let fixed := s.ids.atLeast 4
      let f : Forward :=
        { tag := t.tag, device := some (.client (t.sec == .s) t.sid), pas := pas, addr := q.addr, kind := k, instr := q.ind && !fixed, priv := q.priv || fixed
          attrs := attrs, partid := q.partid, pmg := q.pmg, mpamSp := q.mpamSp
          mecid := if pas = .nsp then (if t.pm then s.ids.inputMecid t.mecid else 0) else q.mecid
          pbha1 := q.pbha1, pbha2 := q.pbha2, exclusive := staysExclusive t attrs && (k == .read || k == .write) }
      let s := s.send (.forward f)
      if f.exclusive && !s.extAbort pas q.addr (max 1 (max t.data.length t.len)) then exclusiveAccess s t k pas q.addr
      else memAccess s t k pas q.addr
    | (some k, r) =>
      let s := reportGpc s t.quiet r q.pas q.addr .transaction
      s.respond t.tag (if k.isHint then .done [] else .abort)

/-! ## Ordinary transactions -/

/-- PARTID and PMG that SMMU_(S_)GBPMPAM gives (62_ras_mpam_mec.md R2662; 14_regs_secure.md R371). -/
def gbpMpam (s : State) (i : Sec) : Mpam × State :=
  let g := (s.iface i).gbpmpamEff
  s.mpamWithin (regMpamLimit s.ids i g) (regMpam s.ids i g)

/-- A transaction while SMMUEN is zero: it bypasses with the attributes of SMMU_(S_)GBPA, or is aborted; Realm streams are
aborted (R2801; 12_regs_control.md R180; 14_regs_secure.md R357; 24_attributes.md R1450). -/
def bypassGlobal (s : State) (t : Txn) : State :=
  let r := s.iface t.sec
  let g := r.gbpaEff
  let ov := gbpaOverrides s g t.pcie
  let ev := t.ev ov
  let ns := match t.sec with
    | .s => match fieldNat g 14 2 with
      | 2 => false
      | 3 => true
      | _ => t.nsAttr.getD true
    | _ => true
  if t.sec = .rl ∨ g.getLsbD 20 ∨ 2 ^ s.ids.oas ≤ t.addr.toNat ∨ sifForbids s t.sec ev.ind ns then
    s.respond t.tag (if t.kind.isHint then .done [] else .abort)
  else
    match gbpMpam s t.sec with
    | (m, s) =>
      outputTxn (s.noteMpam m) t
        { pas := nsPas t.sec ns, addr := t.addr, attrs := ov.apply (t.inputAttrs s), ind := ev.ind, priv := ev.pnu
          kind := t.kind.throughBypass s.ids, partid := m.1, pmg := m.2.1, mpamSp := m.2.2, mecid := 0 }

/-- The configuration of an ordinary transaction: the STE, the VMS if it is enabled, and Config other than disabled
(R2804 to R2807; 92_eei_decisions.md D62, D64). -/
def otConfig (c : Ctx) : X (Ste × Option (BitVec 512)) := do
  let s ← X.state
  if isQsid s.ids c.sec c.ev.sid then X.stop .silent
  else do
    let x ← fetchValidSte c
    if x.config < 4 then X.stop .silent
    else do
      let v ← if vmsEnabled s.ids c.sec x then some <$> fetchVms c x else pure none
      pure (x, v)

/-- The stages of an ordinary transaction, and what it leaves with (R2807 to R2814). -/
def otPath (c : Ctx) (t : Txn) (x : Ste) (vms : Option (BitVec 512)) (ov : Overrides) : X OutReq := do
  let acc : Acc := ⟨t.kind.need, c.ev.ind, c.ev.pnu⟩
  let s ← X.state
  let p ← pathThrough c ⟨x, acc, ov.apply (t.inputAttrs s), t.nsAttr, t.xt, vms⟩
  let s ← X.state
  pure
    { pas := p.pas, addr := p.addr, attrs := p.attrs, ind := c.ev.ind, priv := c.ev.pnu
      kind := kindAfterStages s x p t.kind
      partid := p.mpam.1, pmg := p.mpam.2.1, mpamSp := p.mpam.2.2
      mecid := clientMecid s.ids t.sec (some x) p.pas t.pm t.mecid, pbha1 := p.pbha1, pbha2 := p.pbha2 }

/-- DVM operations and barriers, CMOs that are not address-based, and CMOs that the output interconnect does not support end
silently (32_special_transactions.md R1520, R1521; parameter terminatedCmos, log entry 2). -/
def TxnKind.silentlyEnded (m : Impl) (k : TxnKind) : Bool := k == .dvm || (k.isCmo && m.terminatedCmos.contains k)

/-- A class that the implementation does not support: it ends silently, or as F_UUT (32_special_transactions.md R1520, R1521,
R1525; 23_translation.md R2800). -/
def unsupported (s : State) (t : Txn) : Option State :=
  if t.kind.silentlyEnded s.impl then some (s.respond t.tag (if t.kind.isHint then .done [] else .abort))
  else if s.impl.unsupportedKinds.contains t.kind then some (endStopped s t (t.ev .none) (.event .uut))
  else none

/-- An ordinary transaction (R2800 to R2815). -/
def processOt (s : State) (t : Txn) : State :=
  match unsupported s t with
  | some s => s
  | none =>
    if !s.smmuEn t.sec then bypassGlobal s t
    else
      let ev0 := t.ev .none
      match X.run (otConfig { ev := ev0, quiet := t.quiet }) s with
      | (.error e, s) => endStopped s t ev0 e
      | (.ok (x, vms), s) =>
        let ov := steOverrides s x t.pcie
        let ev := t.ev ov
        match X.run (otPath { ev := ev, quiet := t.quiet } t x vms ov) s with
        | (.error e, s) => endStopped s t ev e
        | (.ok q, s) => outputTxn s t q

/-! ## Accesses without a StreamID -/

/-- The PARTID space that goes with a PA space (62_ras_mpam_mec.md R2668). -/
def pasMpamSp : Pas → BitVec 2
  | .s => 0
  | .ns | .nsp | .sa => 1
  | .root => 2
  | .rl => 3

/-- The PARTID space of an access without a StreamID (62_ras_mpam_mec.md R2668). -/
def NoSidTxn.space (m : NoSidMpam) (t : NoSidTxn) : BitVec 2 :=
  match t.pas with
  | .sa =>
    match m.sa with
    | .device => t.mpamSp
    | .nonSecure => 1
    | .root => 2
  | .nsp => if m.nsp = .device then t.mpamSp else 1
  | pas =>
    if m.deviceIds then t.mpamSp
    else
      match m.space with
      | .device => t.mpamSp
      | .target => pasMpamSp pas
      | .mpamNs => if pas = .s ∨ pas = .root then 0 else 1

/-- PARTID, PMG and PARTID space of an access without a StreamID: the device's, or zero (62_ras_mpam_mec.md R2663, R2668;
parameter noSidMpam, log entry 2). -/
def NoSidTxn.mpam (s : State) (t : NoSidTxn) : Mpam :=
  let m := s.impl.noSidMpam
  if m.deviceIds then (t.partid, t.pmg, t.space m) else (0, 0, t.space m)

/-- The MECID of an access without a StreamID: the device's for Realm memory with MEC, and for SA and NSP memory; else zero
(62_ras_mpam_mec.md R2670, R2672). -/
def noSidMecid (d : Ids) (pas : Pas) (supplied : BitVec 16) : BitVec 16 :=
  match pas with
  | .rl => if d.present .rl && d.mec then supplied else 0
  | .sa | .nsp => supplied
  | _ => 0

/-- An access of a client without a StreamID: the granule protection check only (25_dpt_gpc.md R1602). It has no INSTCFG and no
PRIVCFG to result from, and leaves as Data, Privileged in every version, where 24_attributes.md R1406 says so from SMMUv3.4 on
(DESIGN CHOICE, log entry 54). -/
def processNoSid (s : State) (t : NoSidTxn) : State :=
  if 2 ^ s.ids.oas ≤ t.addr.toNat then s.respond t.tag .abort
  else
  let m := t.mpam s
  let s := noteGpt (s.noteMpam m) (.noSid t.pas) m t.addr
  match gpcCheck s .noSid t.pas t.addr t.write with
  | .pass pas =>
    let s := cacheGpi s t.addr
    let s := s.send (.forward { tag := t.tag, device := none, pas := pas, addr := t.addr, kind := if t.write then .write else .read
                                instr := false, priv := true, attrs := t.attrs.consistent, partid := m.1
                                pmg := m.2.1, mpamSp := m.2.2, mecid := noSidMecid s.ids pas t.mecid })
    if s.extAbort pas t.addr (max 1 (max t.data.length t.len)) then s.respond t.tag .abort
    else if t.write then (s.storeBytes pas t.addr t.data).respond t.tag (.done [])
    else s.respond t.tag (.done (s.mem.bytes pas t.addr t.len))
  | r => (recordGpc s r t.pas t.addr .transaction).respond t.tag .abort

end Sys2Proof.Machine
end

