-- ==== Sys2Proof/Machine/Dpt.lean ====
section
/-! DEFINITION. The Device Permission Table: its walk, its check and its faults (25_dpt_gpc.md part A). -/

namespace Sys2Proof.Machine

/-- What a DPT lookup grants (R1531). -/
structure DptGrant where
  w : Bool
  ac : BitVec 2
  fwb : Bool
  vmid : BitVec 16
  deriving DecidableEq, Repr

/-- DPTPS in bits, none for an invalid value. 0b111 is 56 bits in 13_regs_tables_queues.md R271 and invalid in 25_dpt_gpc.md
R1547: a parameter says which holds (dptps56, log entry 45). -/
def dptPs (s : State) (cfg : BitVec 32) : Option Nat :=
  let n := match fieldNat cfg 0 3 with
    | 0 => 32
    | 1 => 36
    | 2 => 40
    | 3 => 42
    | 4 => 44
    | 5 => 48
    | 6 => 52
    | _ => 56
  if n ≤ s.ids.oas ∧ (fieldNat cfg 0 3 = 7 → s.impl.dptps56) then some n else none

/-- log2 of DPTGS, none for an invalid value (R271). -/
def dptGs (d : Ids) (cfg : BitVec 32) : Option Nat :=
  match fieldNat cfg 14 2 with
  | 0 => if d.gran4 then some 12 else none
  | 1 => if d.gran64 then some 16 else none
  | 2 => if d.gran16 then some 14 else none
  | _ => none

/-- L0DPTSZ in bits, none for an invalid value (R271). -/
def dptL0 (d : Ids) (cfg : BitVec 32) (ps : Nat) : Option Nat :=
  match fieldNat cfg 20 4 with
  | 0 => if 30 ≤ ps then some 30 else none
  | 4 => if 34 ≤ d.oas ∧ 34 ≤ ps then some 34 else none
  | 6 => if 36 ≤ d.oas ∧ 36 ≤ ps then some 36 else none
  | 9 => if 39 ≤ d.oas ∧ 39 ≤ ps then some 39 else none
  | _ => none

/-- A DPT lookup fault is recorded in SMMU_(R_)DPT_CFG_FAR unless one is active, and made a global error, its address zero for a
Protected Mode access (60_exceptions.md R2174); a speculative access leaves no record (64_fault_model.md R2332). The
transaction ends with F_TRANSL_FORBIDDEN (R1547, R1548). -/
def dptFault {α : Type} (c : Ctx) (addr : DWord) (code level : Nat) : X α := do
  let s ← X.state
  if !(s.iface c.sec).dptFar.getLsbD 0 && !c.quiet then do
    let addr := if c.ev.pm then 0 else fieldNat addr 12 44
    let v := putField (putField (putField (0 : BitVec 64) 12 44 addr) 4 4 code) 1 1 level ||| 1
    set (raiseGerror (s.setIface c.sec fun r => { r with dptFar := v }) c.sec .dpt)
  X.stop (.event .translForbidden)

/-- Half `k` of a level 1 entry, or a level 0 Block's low half (R1542, R1545). -/
def dptHalf (d : Ids) (e : DWord) (k : Nat) : DptGrant :=
  { w := e.getLsbD (32 * k + 4)
    ac := e.extractLsb' (32 * k + 2) 2
    fwb := d.mtcomb && e.getLsbD (32 * k + 5)
    vmid := e.extractLsb' (32 * k + 16) 16 }

/-- The fields of half `k` hold no Reserved value (R1542, R1545, R1546). -/
def dptHalfValid (d : Ids) (e : DWord) (k : Nat) : Bool :=
  let g := dptHalf d e k
  g.ac != 3 && !(g.ac == 2 && g.vmid != 0) && (d.vmid16 || fieldNat g.vmid 8 8 == 0)
    && (d.mtcomb || !e.getLsbD (32 * k + 5))

/-- log2 of a contiguous region, none for a Reserved value (R1545). -/
def dptContig (v gs l0 : Nat) : Option Nat :=
  let n := match v with
    | 1 => if gs = 16 then 64 else 16
    | 2 => 21
    | 3 => 25
    | 4 => 29
    | 5 => 30
    | 6 => 34
    | 7 => 36
    | _ => 64
  if n ≤ l0 then some n else none

/-- A level 1 entry decoded for a half: none is invalid, some none is No Access, else what it grants and log2 of the region
(R1545, R1546). -/
def dptLevel1 (d : Ids) (e : DWord) (half gs l0 : Nat) : Option (Option (DptGrant × Nat)) :=
  let a := fieldNat e 0 2
  let contig := fieldNat e 8 4
  let zero := fieldNat e 38 10 == 0 && fieldNat e 32 2 == 0 && fieldNat e 12 4 == 0 && fieldNat e 6 2 == 0
  let hiZero := fieldNat e 32 32 == 0
  let loZero := fieldNat e 2 30 == 0
  if !zero then none
  else if a = 0 then (if hiZero && loZero then some none else none)
  else if a = 1 then
    (if hiZero && contig == 0 && dptHalfValid d e 0 then some (if half = 0 then some (dptHalf d e 0, gs) else none) else none)
  else if a = 2 then
    (if loZero && dptHalfValid d e 1 then some (if half = 1 then some (dptHalf d e 1, gs) else none) else none)
  else if contig = 0 then
    (if dptHalfValid d e 0 && dptHalfValid d e 1 then some (some (dptHalf d e half, gs)) else none)
  else
    match dptContig contig gs l0 with
    | some n => if hiZero && dptHalfValid d e 0 then some (some (dptHalf d e 0, n)) else none
    | none => none

/-- The low bits of DPT_BASE.BADDR that the alignment of the level 0 table leaves unused (13_regs_tables_queues.md R270); 4KB
where the configuration is invalid. -/
def dptBaseAlign (s : State) (cfg : BitVec 32) : Nat :=
  match dptPs s cfg with
  | some ps => match dptL0 s.ids cfg ps with
    | some l0 => max 12 (ps - l0 + 3)
    | none => 12
  | none => 12

/-- A level 0 Table entry: the bits that must be zero are, those of the address above the OAS among them (R1544, R1546). -/
def dptTableValid (d : Ids) (e : DWord) : Bool :=
  fieldNat e 56 8 == 0 && fieldNat e 2 10 == 0 && fieldNat e 12 44 < 2 ^ (d.oas - 12)

/-- A DPT entry put in the TLB (R1533; log entry 10). -/
def dptInsert (c : Ctx) (addr : DWord) (g : DptGrant) (size : Nat) (fromAts isTable : Bool) : X Unit := do
  if ← X.cacheNow then
    X.caches fun k => { k with dpt := ⟨c.sec, alignDown addr size, size, g.w, g.ac, g.fwb, g.vmid, fromAts, isTable⟩ :: k.dpt }

/-- The walk of the DPT for an address, its reads with the PARTID and PMG of the stream's STE (R1538): none is No Access (R1539
to R1547). -/
def dptWalk (c : Ctx) (x : Ste) (addr : DWord) : X (Option DptGrant) := do
  let s ← X.state
  let d := s.ids
  let r := s.iface c.sec
  if !r.cr0ack.getLsbD 10 then dptFault c addr 0 0
  else
    match dptPs s r.dptCfg, dptGs d r.dptCfg with
    | some ps, some gs =>
      match dptL0 d r.dptCfg ps with
      | none => dptFault c addr 1 0
      | some l0 =>
        if 2 ^ ps ≤ addr.toNat then pure none
        else do
          let base := s.truncOas (alignDown (r.dptBase &&& maskAt 64 12 44) (dptBaseAlign s r.dptCfg))
          let o := c.acc (cr1Type r true) (← steMpam c x)
          match ← X.read c o c.sec.pas (base + BitVec.ofNat 64 (addr.toNat / 2 ^ l0 * 8)) 8 .walk with
          | .error .gpf => dptFault c addr 2 0
          | .error .eabt => dptFault c addr 3 0
          | .ok v =>
            let e : DWord := BitVec.ofNat 64 v
            match fieldNat e 0 2 with
            | 0 => if e = 0 then pure none else dptFault c addr 1 0
            | 1 =>
              if fieldNat e 32 32 = 0 ∧ fieldNat e 6 10 = 0 ∧ dptHalfValid d e 0 then do
                dptInsert c addr (dptHalf d e 0) l0 false false
                pure (some (dptHalf d e 0))
              else dptFault c addr 1 0
            | 3 =>
              if dptTableValid d e then do
                dptInsert c addr (dptHalf d e 0) l0 false true
                let table := alignDown (e &&& maskAt 64 12 44) (l0 - gs - 1 + 3)
                let idx := addr.toNat % 2 ^ l0 / 2 ^ (gs + 1)
                let o := c.acc (cr1Type r true) (← steMpam c x)
                match ← X.read c o c.sec.pas (table + BitVec.ofNat 64 (idx * 8)) 8 .walk with
                | .error .gpf => dptFault c addr 2 1
                | .error .eabt => dptFault c addr 3 1
                | .ok v =>
                  match dptLevel1 d (BitVec.ofNat 64 v) (addr.toNat / 2 ^ gs % 2) gs l0 with
                  | none => dptFault c addr 1 1
                  | some none => pure none
                  | some (some (g, n)) => do
                    dptInsert c addr g n false false
                    pure (some g)
              else dptFault c addr 1 0
            | _ => dptFault c addr 1 0
    | _, _ => dptFault c addr 1 0

/-- A grant lets an access pass: W for a write, and the VMID as DPT_VMATCH asks (R1531). -/
def dptAllows (d : Ids) (i : Sec) (x : Ste) (g : DptGrant) (write : Bool) : Bool :=
  let need := match x.dptVmatch, g.ac.toNat with
    | 2, _ => i == .rl && g.ac != 2
    | 1, 0 => true
    | 1, 1 => i == .rl
    | 1, _ => false
    | _, 2 => false
    | _, _ => true
  (g.w || !write) && (!need || g.vmid == (if d.vmid16 then x.s2vmid else x.s2vmid &&& 0xFF))

/-- The output space of a checked access (R1532). -/
def dptPas (i : Sec) (g : DptGrant) : Pas := if i = .rl ∧ g.ac = 0 then .rl else .ns

/-- A DPT TLB entry for an address. -/
def findDpt (s : State) (i : Sec) (addr : DWord) : Option DptEntry :=
  s.caches.dpt.find? fun e => e.sec == i && !e.isTable && addr.toNat / 2 ^ e.sizeLog2 == e.base.toNat / 2 ^ e.sizeLog2

/-- What a lookup grants to a stream: writing is always granted to a fully-coherent client whose protocol cannot separate it
from reading (R1531; parameter coherentSids, log entry 2). -/
def DptGrant.toStream (s : State) (c : Ctx) (g : DptGrant) : DptGrant :=
  { g with w := g.w || s.impl.coherentSids.contains (c.sec, c.ev.sid) }

/-- The DPT check of a Translated transaction: a Device Access fault is F_TRANSL_FORBIDDEN; an entry made from an ATS
completion that does not grant the access leads to a walk (R1531, R1536). -/
def dptCheck (c : Ctx) (x : Ste) (addr : DWord) (write : Bool) : X DptGrant := do
  let s ← X.state
  let cached := (findDpt s c.sec addr).map fun e =>
    (DptGrant.toStream s c { w := e.w, ac := e.ac, fwb := e.fwb, vmid := e.vmid }, e.fromAts)
  match cached.filter fun g => dptAllows s.ids c.sec x g.1 write || !g.2 with
  | some (g, _) => if dptAllows s.ids c.sec x g write then pure g else X.stop (.event .translForbidden)
  | none =>
    match (← dptWalk c x addr).map (DptGrant.toStream s c) with
    | some g => if dptAllows s.ids c.sec x g write then pure g else X.stop (.event .translForbidden)
    | none => X.stop (.event .translForbidden)

end Sys2Proof.Machine
end

