-- ==== Sys2Proof/Machine/Ats.lean ====
section
/-! DEFINITION. PCIe ATS: Translation Requests and Translated transactions (26_ats_pri.md sections 3 to 11). -/

namespace Sys2Proof.Machine

/-- SMMU_(R_)CR2.REC_CFG_ATS in effect (12_regs_control.md R172). -/
def State.recCfgAts (s : State) (i : Sec) : Bool := s.ids.atsRecErr && (s.iface i).cr2.getLsbD 3

/-- SMMU_(R_)CR0.ATSCHK in effect (R1659). -/
def State.atschk (s : State) (i : Sec) : Bool := (s.iface i).cr0ack.getLsbD 4

/-! ## Translation Requests -/

/-- The XT bit of a request, where R_IDR3.XT has it mean something (R1725, R1727). -/
def AtsReq.xtBit (d : Ids) (r : AtsReq) : Bool := d.xt && r.xt && r.sec == .rl

/-- The T bit of a request (R1720, R1725). -/
def AtsReq.tBit (d : Ids) (r : AtsReq) : Bool := r.sec == .rl && !(r.xtBit d && r.nsAttr == some true)

/-- A completion without an address or permissions; it carries the T and XT bits of its request (R1720, R1727). -/
def AtsCompletion.failed (d : Ids) (r : AtsReq) (st : AtsStatus) : AtsCompletion where
  tag := r.tag
  status := st
  addr := 0
  sizeLog2 := 0
  r := false
  w := false
  exe := false
  priv := false
  global := false
  nonSnooped := false
  untranslatedOnly := false
  attrs := none
  te := false
  t := r.tBit d
  xt := r.xtBit d
  cxlIo := false
  writableClean := false

/-- The request with the Protected Mode attribute that the machine sees (25_dpt_gpc.md R1623). -/
def AtsReq.arrive (d : Ids) (r : AtsReq) : AtsReq := { r with pm := r.pm && d.gdi && r.sec == .ns }

/-- The requester of a Translation Request as events record it, with its attributes after the STE's overrides; RnW is UNKNOWN
(R1663; 61_event_records.md R2251). -/
def AtsReq.ev (r : AtsReq) (rnw ind priv : Bool) : EvTxn :=
  ⟨r.sec, r.sid, r.ssid, r.addr, rnw, ind, priv, r.exe, r.priv, r.pm && r.sec == .ns⟩

/-- A denied request: Unsupported Request, with F_BAD_ATS_TREQ if `rec` and the request is not speculative (R1661;
61_event_records.md R2259; 64_fault_model.md R2332). -/
def denyTr (s : State) (r : AtsReq) (rec : Bool) : State :=
  let pas := r.ssid.isSome
  let s := if rec && !r.speculative then
      emitEvent s (r.ev true false r.priv) (.badAtsTreq true (!r.nw) (r.exe && pas) (r.priv && pas) r.stus)
    else s
  s.send (.atsCompletion (.failed s.ids r .ur))

/-- The Completer Abort of a configuration error, its event recorded if REC_CFG_ATS (R1663), not of a speculative request
(64_fault_model.md R2332). -/
def abortTr (s : State) (r : AtsReq) (ev : EvTxn) (e : Option Event) : State :=
  let s := match e with
    | some e => if s.recCfgAts r.sec && !r.speculative then emitFor s ev e else s
    | none => s
  s.send (.atsCompletion (.failed s.ids r .ca))

/-- log2 of the Smallest Translation Unit (R1658). -/
def Ids.stu (d : Ids) : Nat := if d.gran4 then 12 else if d.gran16 then 14 else 16

/-- Success with R and W zero; the address has zeros above the PA size (R1662, R1711). `wc`: the translation is valid but
writable-clean (29_speculation_coherency_embedded.md R652). -/
def emptyTr (s : State) (r : AtsReq) (eats : Nat) (wc : Bool) : State :=
  s.send (.atsCompletion { AtsCompletion.failed s.ids r .success with
    sizeLog2 := s.ids.stu, priv := r.priv && r.ssid.isSome, addr := s.truncOas r.addr, cxlIo := r.srcCxl && eats == 2
    writableClean := wc })

/-- The memory type of a translation is one that CXL.cache may use: Inner and Outer Write-Back, Shareable (R1686). -/
def Attrs.cxlCache (a : Attrs) : Bool := a.mt == .normal .wb .wb && a.consistent.sh != .nsh

/-- The attributes of a translation for the CXL.io bit: where stage 1 gives none and an override leaves the type or the
Shareability to the transaction, they cannot be determined, and are Inner and Outer Write-Back, Shareable (R1686), which stage
2, where it translates, combines with its own (DESIGN CHOICE, log entry 28). -/
def cxlAttrs (ov : Overrides) (p : Path) : Attrs :=
  if !p.s1 && (ov.mt.isNone || ov.sh.isNone) then p.fromWb else p.attrs

/-- The answer to a speculative request for write whose translation is valid but has a writable-clean descriptor
(29_speculation_coherency_embedded.md R652). -/
def AtsReq.onlyClean (r : AtsReq) (p : Path) : Bool :=
  r.speculative && !r.nw && p.p1.w && p.p2.w && (p.p1.wClean || p.p2.wClean)

/-- The attributes that a completion carries where the implementation encodes them into ATS: those an Untranslated transaction
would leave with (R1690, R1710; parameter atsAttrs, log entry 2). -/
def completionAttrs (s : State) (p : Path) : Option Attrs :=
  match s.impl.atsAttrs with
  | .carried => some p.attrs.consistent
  | .normal => none

/-- R, W and Exe of a completion from the permissions of the enabled stages (R1700 to R1702). -/
def trGrants (s : State) (x : Ste) (r : AtsReq) (p : Path) : Bool × Bool × Bool :=
  if !p.applied then (true, true, false)
  else
    let rd := p.p1.r && p.p2.r
    let ex := p.p1.x && p.p2.x
    let wr := p.p1.w && !p.p1.wClean && p.p2.w && !p.p2.wClean
    let exe := r.exe && r.ssid.isSome
    let w := if r.nw then s.impl.atsGrantWOnNw && wr else wr
    match if s.ids.attrPermsOvr then boolCfg x.instcfg else none with
    | none => (rd, w, exe && rd && ex)
    | some true => (ex, w, exe && ex)
    | some false => (rd, w, exe && rd)

/-- The output address of a Translation Request is checked at translation time: always with RME_IMPL; without it a free value
says so of each request, for R1604 permits the check and R1603 leaves its time to a choice (25_dpt_gpc.md; log entry 7). -/
def trChecked (s : State) : Bool × State :=
  if s.ids.rmeImpl then (true, s)
  else
    match s.takeFree with
    | (u, s) => (u.getLsbD 0, s)

/-- The granule protection check of a request's output address, where it is made (25_dpt_gpc.md R1604, R1605): write
permission left, or a failure, reported of a speculative request as R1603 says. -/
def trGpc (s : State) (r : AtsReq) (m : Mpam) (pas : Pas) (addr : DWord) (w : Bool) : Option Bool × State :=
  match trChecked s with
  | (false, s) => (some w, s)
  | (true, s) =>
    let s := noteGpt s (.stream r.sec r.sid r.pm) m addr
    let o : GpcFrom := .stream r.sec r.pm
    match gpcCheck s o pas addr w with
    | .pass _ => (some w, s)
    | f =>
      match r.pm && w, gpcCheck s o pas addr false with
      | true, .pass _ => (some false, s)
      | _, _ => (none, reportGpc s r.speculative f pas addr .transaction)

/-- The completion of a request that translated (R1690, R1695, R1700, R1712, R1722; 25_dpt_gpc.md R1533, R1535). The IPA of
Split-stage ATS and the address of an identity mapping are given whole (R1690, R1697). Under Split-stage ATS, where the
completion carries no physical address, there is no granule protection check at the request, of which 25_dpt_gpc.md R1604 says
nothing (DESIGN CHOICE, log entry 28): the Translated transaction is checked. -/
def completeTr (s : State) (r : AtsReq) (c : Ctx) (x : Ste) (eats : Nat) (ov : Overrides) (p : Path) : State :=
  let g := trGrants s x r p
  if !(g.1 || g.2.1) then emptyTr s r eats (r.onlyClean p)
  else
    match if eats = 2 then (some g.2.1, s) else trGpc s r p.mpam p.pas p.addr g.2.1 with
    | (none, s) => s.send (.atsCompletion (.failed s.ids r .ca))
    | (some w, s) =>
      if !(g.1 || w) then emptyTr s r eats (r.onlyClean p)
      else
        let lim := if s.ids.rootImpl then (gptPgs s.ids s.root.gptCfg).getD 12 else 52
        let size := max s.ids.stu (min p.sizeLog2 lim)
        let mtop := match p.cd with
          | some cd => cd.mtop
          | none => true
        let n := s.ids.mtcomb && (p.forcedWb || (p.s1 && !mtop && p.attrs.mt == .normal .wb .wb))
        let s :=
          if eats = 3 ∧ p.applied then
            let gr : DptGrant := ⟨w, if r.sec = .rl ∧ p.pas = .ns then 1 else 0, p.forcedWb && s.ids.mtcomb, x.s2vmid⟩
            let l0 := ((dptPs s (s.iface r.sec).dptCfg).bind (dptL0 s.ids (s.iface r.sec).dptCfg)).getD 30
            (X.run (dptInsert c p.addr gr (min p.sizeLog2 l0) true false) s).2
          else s
        s.send (.atsCompletion
          { AtsCompletion.failed s.ids r .success with
            addr := alignDown (if eats = 2 ∨ !p.applied then p.ipa else p.addr) 12
            sizeLog2 := size, r := g.1, w := w, exe := g.2.2, priv := r.priv && r.ssid.isSome
            nonSnooped := n, attrs := completionAttrs s p, writableClean := r.onlyClean p
            te := s.ids.xt && r.sec == .rl && p.pas != .ns
            cxlIo := r.srcCxl && (eats == 2 || !(cxlAttrs ov p).cxlCache) })

/-- The configuration of a Translation Request: the STE, and the VMS if it is enabled (92_eei_decisions.md D64). -/
def trConfig (c : Ctx) : X (Ste × Option (BitVec 512)) := do
  let x ← fetchValidSte c
  let s ← X.state
  let v ← if vmsEnabled s.ids c.sec x then some <$> fetchVms c x else pure none
  pure (x, v)

/-- A Translation Request as the machine sees it (23_translation.md section 6; R1661 to R1666; the VMS is fetched after the
checks on the STE, 92_eei_decisions.md D64). Its accesses have the PARTID and PMG of an equivalent Untranslated transaction
(62_ras_mpam_mec.md R2664). A speculative request marks nothing dirty, so write is granted only by descriptors that are writable-dirty
(29_speculation_coherency_embedded.md R652). -/
def trAsSeen (s : State) (r : AtsReq) : State :=
  if r.sec = .s || !s.smmuEn r.sec then denyTr s r true
  else
    match s.takeFree with
    | (u, s) =>
      let ev := r.ev (u.getLsbD 0) false r.priv
      if isQsid s.ids r.sec r.sid then abortTr s r ev none
      else
        match X.run (trConfig { ev := ev, quiet := r.speculative }) s with
        | (.error (.event e), s) => abortTr s r ev (some e)
        | (.error _, s) => abortTr s r ev none
        | (.ok (x, vms), s) =>
          let eats := effEats s r.sec x
          if x.config < 4 then denyTr s r false
          else if eats = 0 then denyTr s r true
          else
            let ov := steOverrides s x true
            let priv := ov.priv.getD (r.priv && r.ssid.isSome)
            let ind := ov.inst == some true
            let c : Ctx := { ev := r.ev (u.getLsbD 0) ind priv, quiet := r.speculative }
            let run : X Path :=
              pathThrough c ⟨x, ⟨.wants (!r.nw) r.speculative, ind, priv⟩, ov.apply (pcieAttrs s.impl), r.nsAttr, r.xt, vms⟩
            match X.run run s with
            | (.error (.trf _ _ _ _), s) => emptyTr s r eats false
            | (.error (.event e), s) => abortTr s r c.ev (some e)
            | (.error .silent, s) => abortTr s r c.ev none
            | (.ok p, s) => completeTr s r c x eats ov p

/-- A Translation Request. -/
def processTr (s : State) (r : AtsReq) : State := trAsSeen s (r.arrive s.ids)

/-! ## Translated transactions -/

/-- A Translated transaction that may not pass: F_TRANSL_FORBIDDEN and an abort (R1670). -/
def forbidTt (s : State) (t : Txn) (ev : EvTxn) : State :=
  endStopped s t ev (.event .translForbidden)

/-- The faults of stage 2 for a Translated transaction's own address that are recorded as for an ordinary one (R1671). -/
def Event.ofTtStage2 : Event → Bool
  | .walkEabt true .inp _ _ _ => true
  | .tlbConflict .. => true
  | .translForbidden => true
  | _ => false

/-- A Translated transaction stopped by its configuration: the event is recorded if REC_CFG_ATS, whatever RECINVSID says
(R1671), and not of a hint (25_dpt_gpc.md R1603); Translation-related faults never stall it (23_translation.md R2812). -/
def endTt (s : State) (t : Txn) (ev : EvTxn) (why : Stop) : State :=
  match why with
  | .event e =>
    if e.ofTtStage2 then endStopped s t ev (.event e)
    else endStopped (if s.recCfgAts t.sec && !t.quiet then emitEvent s ev e else s) t ev .silent
  | .trf f _ r _ => endStopped s t ev (.trf f true r false)
  | .silent => endStopped s t ev .silent

/-- The attributes a Translated transaction arrives with: where the implementation encodes attributes into ATS those it carries,
which its completion gave it, else Normal cacheable shareable; with MTCOMB No_snoop is applied before, and gives Normal
Non-cacheable (R1691, R1710; parameter atsAttrs, log entry 2). -/
def Txn.ttAttrs (s : State) (t : Txn) : Attrs :=
  let fixed := pcieAttrs s.impl
  let a : Attrs := match s.impl.atsAttrs with
    | .normal => fixed
    | .carried =>
      let h := t.hints.getD (fixed.inner, fixed.outer)
      ⟨t.mt.getD fixed.mt, t.sh.getD fixed.sh, h.1, h.2⟩
  if s.ids.mtcomb && t.noSnoop then noSnoopAttrs a else a

/-- The effective EATS forbids a Translated transaction (R1670, R1675 item 5, R1726). -/
def ttForbidden (s : State) (t : Txn) (x : Ste) (eats : Nat) : Bool :=
  eats == 0 || (eats == 2 && t.paOnly && s.impl.splitStageProtocolCheck) || (t.sec == .rl && s.ids.xt && x.nscfg == 1 && !t.xt)

/-- The overrides of a Translated transaction: types are those of the transaction, ALLOCCFG applies with MTCOMB and without it
follows the parameter alloccfgTranslated (24_attributes.md R1414, log entry 2); PRIVCFG and INSTCFG as 24_attributes.md R1413
says (R1674; R1415). -/
def ttOverrides (s : State) (x : Ste) (eats : Nat) (pasid : Bool) : Overrides :=
  let o := steOverrides s x true
  let perms := eats == 2 || pasid || s.impl.translatedPermcfgApplies
  { mt := none, sh := none
    alloc := if s.ids.attrTypesOvr && (s.ids.mtcomb || s.impl.alloccfgTranslated) then allocCfg x.alloccfg else none
    inst := if perms then o.inst else none, priv := if perms then o.priv else none }

/-- The CD whose PARTID and PMG a Translated transaction uses (62_ras_mpam_mec.md R2664): none if UseS1MPAM is 0. Without
PASIDTT a PASID that selects no CD selects none (log entry 2). -/
def ttCd (c : Ctx) (t : Txn) (x : Ste) : X (Option Cd) := do
  let s ← X.state
  let d := s.ids
  let sel ← selectCd c x
  let use := t.ssid.isSome && x.s1On && x.s1mpam && (d.pasidTt || s.impl.mpamPasidWithoutPasidtt)
  let sel := if d.pasidTt then sel else (t.ssid.map (·.toNat)).filter fun n => decide (n < 2 ^ x.cdMax d)
  match use, sel with
  | true, some ss => some <$> (Prod.fst <$> fetchCd c x ss)
  | _, _ => pure none

/-- The address of a Translated transaction that bypasses: one beyond the PA size is truncated, or none and the transaction is
aborted (R1672; parameter translatedTruncates, log entry 2). -/
def ttAddr (s : State) (a : DWord) : Option DWord :=
  if a.toNat < 2 ^ s.ids.oas then some a
  else if s.impl.translatedTruncates then some (s.truncOas a)
  else none

/-- What a Translated transaction leaves with (R1672 to R1677, R1691, R1726). -/
def ttPath (c : Ctx) (t : Txn) (x : Ste) (vms : Option (BitVec 512)) (eats : Nat) (ov : Overrides) : X OutReq := do
  let cd ← ttCd c t x
  let s ← X.state
  let d := s.ids
  let attrs := ov.apply (t.ttAttrs s)
  let m ← requestMpam c x vms cd
  let isW := t.kind.isWrite
  let out (pas : Pas) (addr : DWord) (a : Attrs) (p : Path) (applies : Bool) : OutReq :=
    { pas := pas, addr := addr, attrs := a, ind := c.ev.ind, priv := c.ev.pnu
      kind := if applies then kindAfterStages s x p t.kind else t.kind.throughBypass d
      partid := m.1, pmg := m.2.1, mpamSp := m.2.2
      mecid := clientMecid d t.sec (some x) pas t.pm t.mecid, pbha2 := p.pbha2 }
  let path (p2 : Perm) (fwb : Bool) (pbha : BitVec 4) : Path :=
    { addr := 0, ipa := 0, pas := .ns, p1 := Perm.all, p2 := p2, attrs := attrs, fromWb := attrs, applied := true, s1 := false
      forcedWb := fwb, sizeLog2 := 0, global := false, cd := none, pbha2 := pbha
      mpam := m }
  if eats = 2 then do
    if 2 ^ d.ias ≤ t.addr.toNat then skipFault .addrSize
    else do
      let o ← s2Translate c ⟨x, .inp, t.addr, false, ⟨t.kind.need, c.ev.ind, c.ev.pnu⟩, false, none⟩
      let ma : BitVec 4 := o.leaf.desc.extractLsb' 2 4
      let fwb := x.s2fwb && d.fwb
      if t.sec = .rl && d.xt && x.nscfg == 1 && (o.pas == .ns) != t.nsAttr.getD false then
        X.stop (.trf { kind := .permission, s2 := true, cls := .inp, ipa := t.addr, nsIpa := false, xt := true } true x.s2r false)
      else
        pure (out o.pas o.pa (stage2Attrs d.mtcomb d.mtePerm fwb attrs ma (s2LeafSh d t.sec x o.leaf))
          (path o.perm (fwb && forcedWb d.mtePerm ma) (s2Pbha d x o.leaf)) true)
  else
    match ttAddr s t.addr with
    | none => X.stop .silent
    | some addr =>
      if eats = 3 then do
        let g ← dptCheck c x addr isW
        let pas := dptPas t.sec g
        if t.sec = .rl && pas == .ns && c.ev.ind then X.stop (.event .translForbidden)
        else if t.sec = .rl && d.xt && x.nscfg == 1 && (pas == .ns) != t.nsAttr.getD false then X.stop (.event .translForbidden)
        else
          let hints (h : Hints) : Hints := if attrs.mt.cacheable then h else .none
          let a : Attrs := if g.fwb then ⟨.normal .wb .wb, attrs.sh, hints attrs.inner, hints attrs.outer⟩ else attrs
          pure (out pas addr a (path { Perm.all with w := g.w } g.fwb 0) true)
      else
        let ns := nsAfterCfg d t.sec x t.nsAttr
        if t.sec = .rl && ns && c.ev.ind then X.stop (.event .translForbidden)
        else pure (out (nsPas t.sec ns) addr attrs (path Perm.all false 0) (d.dpt t.sec || s.impl.dreTranslated))

/-- A Translated transaction of an unsupported kind is aborted; whether F_UUT is recorded, as 23_translation.md R2800 and
32_special_transactions.md R1525 have it, or not, as R1671 has it, is the parameter ttUutRecorded (log entry 52). -/
def unsupportedTt (s : State) (t : Txn) (ev : EvTxn) : Option State :=
  if s.impl.unsupportedKinds.contains t.kind && !t.kind.silentlyEnded s.impl && s.impl.ttUutRecorded then
    some (endStopped s t ev (.event .uut))
  else if t.kind.silentlyEnded s.impl || s.impl.unsupportedKinds.contains t.kind then
    some (s.respond t.tag (if t.kind.isHint then .done [] else .abort))
  else none

/-- A Translated transaction (23_translation.md section 6; R1670 to R1677); none passes where SMMU_(R_)IDR0.ATS is zero
(21_streams_ste.md R880). With ATSCHK zero it leaves as Data, Unprivileged before SMMUv3.4, also with PASIDTT one and a PASID:
R1660 says that it might not carry these attributes, 24_attributes.md R1406 speaks of INSTCFG and PRIVCFG, which are not looked
at (DESIGN CHOICE, log entry 54). -/
def processTt (s : State) (t : Txn) : State :=
  let ev0 := t.ev .none
  let pasid := s.ids.pasidTt && t.ssid.isSome
  let ev1 := if pasid then ev0 else { ev0 with ssid := none, ind := false, pnu := false }
  match unsupportedTt s t ev1 with
  | some s => s
  | none =>
    if t.sec = .s || !s.smmuEn t.sec || !s.ids.atsOf t.sec then forbidTt s t ev1
    else if !s.atschk t.sec then
      match ttAddr s t.addr with
      | none => endStopped s t ev1 .silent
      | some addr =>
        match gbpMpam s t.sec with
        | (m, s) =>
          outputTxn (s.noteMpam m) t
            { pas := t.sec.pas, addr := addr, attrs := t.ttAttrs s, ind := false, priv := false
              kind := t.kind.throughBypass s.ids, partid := m.1, pmg := m.2.1, mpamSp := m.2.2, mecid := 0 }
    else
      match X.run (otConfig { ev := ev1, quiet := t.quiet }) s with
      | (.error e, s) => endTt s t ev1 e
      | (.ok (x, vms), s) =>
        let eats := effEats s t.sec x
        if ttForbidden s t x eats then forbidTt s t ev1
        else
          let ov := ttOverrides s x eats pasid
          let t' := if pasid then t else { t with instr := some false, priv := some false }
          let ev := { t'.ev ov with ssid := if pasid then t.ssid else none }
          match X.run (ttPath { ev := ev, quiet := t.quiet } t x vms eats ov) s with
          | (.error e, s) => endTt s t ev e
          | (.ok q, s) => outputTxn s t q

/-- A client transaction: aborted in Service Failure Mode (62_ras_mpam_mec.md R2654), for a Security state that is not
implemented, or if it is a write marked speculative (29_speculation_coherency_embedded.md R650), else processed. -/
def processTxn (s : State) (t : Txn) : State :=
  let t := t.arrive s.ids
  if s.sfm || !s.ids.present t.sec || (t.speculative && t.kind.isWrite) then s.respond t.tag .abort
  else if t.translated then processTt s t
  else processOt s t

/-! ## Performance events of transactions -/

/-- A transaction left under a tag. -/
def forwarded (s : State) (tag : Nat) : Bool :=
  s.outputs.any fun o =>
    match o with
    | .forward f => f.tag == tag
    | _ => false

/-- A client transaction, processed and counted with the PARTID and PMG that it got; event 7 is an ATS Translated transaction
that passed (17_regs_pmcg.md R508, R516). -/
def takeTxn (s : State) (t : Txn) : State :=
  let t := t.arrive s.ids
  let s := processTxn s t
  noteRequest s (.stream t.sec t.sid t.pm) s.reqMpam (if t.translated && forwarded s t.tag then [7] else [])

/-- A stalled access is retried: a client's transaction as though it had just arrived (44_cmd_fault_sync.md R2050); a DCMDQ
fetches its command again. A transaction that is retried counts again exactly as a new one, or triggers no counter
(17_regs_pmcg.md R508; parameter pmcgRetryCounts, log entry 2). -/
def retryAccess (s : State) : Stalled → State
  | .txn t => if s.impl.pmcgRetryCounts then takeTxn s t else { processTxn s t with pmuLog := s.pmuLog }
  | .dcmdq _ _ _ => s

end Sys2Proof.Machine
end

