-- ==== Sys2Proof/Machine/Dcmdq.lean ====
section
/-! DEFINITION. Direct-mode Enhanced Command queues: the translation of their fetches and MSIs through the STE of the queue
StreamID (27_queues.md section 4), and the translation of virtual StreamIDs (section 6; 22_cd_vms.md section 6). -/

namespace Sys2Proof.Machine

/-! ## The queue StreamID -/

/-- The qSID of a DCMDQ: QSID_BASE with its low bits replaced by the index of the control page (R734). -/
def qsidOf (d : Ids) (i : Sec) (n : Nat) : BitVec 32 := putField (d.idr7Of i) 0 (d.dcmdqLog2NumP i) (dcmdqPage d i n)

/-- A DCMDQ's access as events record it: Privileged Data (R736). -/
def qsidEv (d : Ids) (i : Sec) (n : Nat) (addr : DWord) (write : Bool) : EvTxn :=
  { sec := i, sid := qsidOf d i n, ssid := none, addr := addr, rnw := !write, ind := false, pnu := true
    inInd := false, inPnu := true, pm := false }

/-! ## Translation of a fetch or MSI address (R735, R743) -/

/-- How the translation of a DCMDQ's access ends. -/
inductive DcmdqOut where
  /-- the access is made, by `o` -/
  | done (addr : DWord) (pas : Pas) (attrs : Attrs) (o : AccFrom)
  /-- it is terminated, and any event recorded -/
  | failed
  | stalled
  deriving DecidableEq, Repr

/-- A failed translation: an event is recorded as with S2S = 0 and S2R = 1, but not for a granule protection fault
(R743; 60_exceptions.md R2173; 25_dpt_gpc.md R1614). An STE that is used as it is has its S2S and S2R followed: the access may stall (R735). -/
def dcmdqFailed (s : State) (i : Sec) (n : Nat) (ev : EvTxn) (why : Stop) : DcmdqOut × State :=
  match why with
  | .silent | .event (.steFetch _ true) | .event (.walkEabt _ _ _ true _) | .event (.cdFetch _ true)
  | .event (.vmsFetch _ true) => (.failed, s)
  | .event e => (.failed, emitFor s ev e)
  | .trf f _ r st =>
    let asIs := s.impl.dcmdqSte == .asIs
    if asIs && st then (.stalled, stallAccess s (.dcmdq i n ev.sid) ev f)
    else (.failed, if asIs && !r then s else emitEvent s ev (.trf f none))

/-- The path of a DCMDQ's access through the stages that STE[qSID] configures (R735, R736); its PARTID and PMG are those of a
command fetch, STE.PARTID and STE.PMG (62_ras_mpam_mec.md R2665). -/
def dcmdqPath (c : Ctx) (write : Bool) (attrs : Attrs) : X Path := do
  let x ← fetchValidSte c
  let s ← X.state
  if x.config < 4 then X.stop .silent
  else do
    let vms ← if vmsEnabled s.ids c.sec x then some <$> fetchVms c x else pure none
    let p ← pathThrough c
      ⟨x, ⟨.must (!write) write, false, true⟩, (steOverrides s x false).apply attrs, some (c.sec == .ns), false, vms⟩
    let m ← steMpam c x
    pure { p with mpam := m }

/-- A DCMDQ's access of a memory type, with the PARTID and PMG `m` of a command fetch; an MSI is an access with those of
SMMU_(*_)GMPAM (62_ras_mpam_mec.md R2665). -/
def dcmdqAcc (s : State) (c : Ctx) (msi : Bool) (t : MemType) (m : Mpam) : AccFrom :=
  if msi then { c.tableAcc s with type := t } else c.acc t m

/-- The address of a DCMDQ's fetch or MSI: translated through STE[qSID]; with SMMUEN zero it bypasses as SMMU_(*_)GBPA says
(12_regs_control.md R161; R735, R736, R743), with the attributes that come out. A fetch then has PARTID and PMG of
SMMU_(S_)GBPMPAM, as a client's access has, there being no STE (62_ras_mpam_mec.md R2662, R2665; DEDUCED, log entry 53). -/
def dcmdqTranslate (s : State) (i : Sec) (n : Nat) (addr : DWord) (write : Bool) (attrs : Attrs) : DcmdqOut × State :=
  let ev := qsidEv s.ids i n addr write
  let c : Ctx := { ev := ev }
  if !s.smmuEn i then
    let g := (s.iface i).gbpaEff
    if i = .rl ∨ g.getLsbD 20 ∨ 2 ^ s.ids.oas ≤ addr.toNat then (.failed, s)
    else
      match gbpMpam s i with
      | (m, s) =>
        let a := ((gbpaOverrides s g false).apply attrs).consistent
        (.done addr (nsPas i (i == .ns || fieldNat g 14 2 == 3)) a (dcmdqAcc s c write a.mt m), s)
  else
    match X.run (dcmdqPath c write attrs) s with
    | (.ok p, s) => (.done p.addr p.pas p.attrs.consistent (dcmdqAcc s c write p.attrs.consistent.mt p.mpam), s)
    | (.error e, s) => dcmdqFailed s i n ev e

/-- The VMID that replaces the one of a CMD_TLBI_NH_* or CMD_TLBI_NSNH_ALL on a DCMDQ: STE[qSID].S2VMID; a free value where
there is no such STE or its S2VMID is IGNORED (42_cmd_tlbi.md R1910; R735; log entry 7). -/
def dcmdqVmid (s : State) (i : Sec) (n : Nat) : BitVec 16 × State :=
  match s.takeFree with
  | (u, s) =>
    if !s.smmuEn i then (u.extractLsb' 0 16, s)
    else
      match lookupSte s i (qsidOf s.ids i n) true with
      | (.ok x, s) => (if s2vmidIgnored s.ids i x then u.extractLsb' 0 16 else x.s2vmid, s)
      | (.error _, s) => (u.extractLsb' 0 16, s)

/-! ## vSID translation (R755 to R759) -/

/-- The outcome of the translation of a virtual StreamID. -/
inductive VsidOut where
  | psid (sid : BitVec 32)
  /-- the command is IGNORED -/
  | ignored
  | failed (e : HsErr)
  deriving DecidableEq, Repr

/-- A computation that a vSID translation is made of. -/
abbrev V (α : Type) := ExceptT VsidOut (StateM State) α

/-- A read of a CIT or VSTT structure; it is a configuration structure access if the parameter pmcgVsidIsConfig says so
(17_regs_pmcg.md R508, log entry 2). -/
def vsidRead (s : State) (i : Sec) (qsid : BitVec 32) (addr : DWord) (n : Nat) (code : FarCode) : Except MemErr Nat × State :=
  let src : PmuSrc := .stream i qsid false
  let r := smmuRead s { s.ownAcc i code with src := src } i.pas (s.truncOas addr) n code
  (r.1, if s.impl.pmcgVsidIsConfig && readErr r.1 != some .gpf then { r.2 with pmuLog := r.2.pmuLog ++ [{ event := 5, src := src, mpam := none }] } else r.2)

/-- Such a read in a computation; an abort or granule protection fault is HERROR_SID_EABT (R759; 25_dpt_gpc.md R1614). -/
def V.read (i : Sec) (qsid : BitVec 32) (addr : DWord) (n : Nat) (code : FarCode) : V (BitVec 128) := do
  let s ← (get : V State)
  let r := vsidRead s i qsid addr n code
  set r.2
  match r.1 with
  | .ok v => pure (BitVec.ofNat 128 v)
  | .error _ => throw (.failed .sidEabt)

/-- A free value. -/
def V.free : V DWord := do
  let s ← (get : V State)
  let r := s.takeFree
  set r.2
  pure r.1

/-- A structure that serves a group of 2^`span` qSIDs, from its cache, or fetched and then perhaps cached (R758; log entry
10). -/
def V.cached (i : Sec) (qsid : BitVec 32) (span k : Nat) (look : Caches → List VsidEntry)
    (keep : Caches → List VsidEntry → Caches) (fetch : V (BitVec 128)) : V (BitVec 128) := do
  let s ← (get : V State)
  match ((look s.caches).find? fun e => e.serves i qsid && e.vsid == k).map (·.bits) with
  | some b => pure b
  | none => do
    let b ← fetch
    let s ← (get : V State)
    let r := s.cacheNow
    set (if r.1 then { r.2 with caches := keep r.2.caches (⟨i, qsid, span, k, b⟩ :: look r.2.caches) } else r.2)
    pure b

/-- SPLIT of SMMU_(R_)CITAB_BASE_CFG in use (15_regs_ecmdq_dcmdq.md R401). -/
def citSplit (cfg : BitVec 32) : Nat :=
  match fieldNat cfg 6 5 with
  | 10 => 10
  | 12 => 12
  | _ => 8

/-- SPLIT of a CITE in use; RES0, which behaves as 9, without two-level tables (22_cd_vms.md R1130). -/
def vsttSplit (d : Ids) (cite : BitVec 128) : Nat :=
  if !d.stLevel2 then 9
  else
    match fieldNat cite 123 5 with
    | 11 => 11
    | 13 => 13
    | _ => 9

/-- The address of an entry of the level 2 table that a level 1 descriptor points to (R756; 22_cd_vms.md R1131, R1132; `esize`
is log2 of the bytes of an entry). -/
def l2Entry (l1 : BitVec 128) (span idx esize : Nat) : DWord :=
  alignDown (l1.extractLsb' 0 64 &&& maskAt 64 esize (56 - esize)) (esize + span - 1) +
    BitVec.ofNat 64 (idx % 2 ^ (span - 1) * 2 ^ esize)

/-- The CITE of a control page (R756 steps 1 to 5, R759): outside the table it is a free choice whether an unpredictable
qSID is used or HERROR_SID_CONFIG is reported (log entry 7). The base is aligned by LOG2SIZE as the register holds it
(15_regs_ecmdq_dcmdq.md R400, R401 do not say whether by that or by the effective one: DESIGN CHOICE, log entry 48). -/
def fetchCite (i : Sec) (page : Nat) (qsid : BitVec 32) : V (BitVec 128) := do
  let s ← (get : V State)
  let r := s.iface i
  let cfg := r.citabCfg
  let size := fieldNat cfg 0 6
  let used := min size (s.ids.dcmdqLog2NumP i)
  let u ← if 2 ^ used ≤ page then V.free else pure 0
  if 2 ^ used ≤ page && u.getLsbD 0 then throw (.failed .sidConfig)
  else
    let idx := if 2 ^ used ≤ page then u.toNat / 2 % 2 ^ used else page
    let qsid := putField qsid 0 (s.ids.dcmdqLog2NumP i) idx
    let base := r.citabBase &&& maskAt 64 4 52
    let fetch : V (BitVec 128) :=
      if s.ids.stLevel2 && fieldNat cfg 16 2 == 1 then do
        let split := citSplit cfg
        let l1 ← V.cached i qsid split 0 (·.l1cits) (fun k l => { k with l1cits := l })
          (V.read i qsid (alignDown base (max 4 (size - split + 3)) + BitVec.ofNat 64 (idx / 2 ^ split * 8)) 8 .citFetch)
        let span := fieldNat l1 59 5
        if span = 0 ∨ 13 < span ∨ split + 1 < span ∨ 2 ^ (span - 1) ≤ qsid.toNat % 2 ^ split then throw (.failed .sidConfig)
        else V.read i qsid (l2Entry l1 span idx 4) 16 .citFetch
      else V.read i qsid (alignDown base (size + 4) + BitVec.ofNat 64 (idx * 16)) 16 .citFetch
    let cite ← V.cached i qsid 0 0 (·.cites) (fun k l => { k with cites := l }) fetch
    if cite.getLsbD 0 then pure cite else throw (.failed .sidConfig)

/-- The VSTTE of a vSID (R756 steps 6 to 10, R759). The base is aligned by LOG2SIZE as the CITE holds it (22_cd_vms.md R1130
does not say whether by that or by the effective one: DESIGN CHOICE, log entry 48). -/
def fetchVstte (i : Sec) (qsid : BitVec 32) (cite : BitVec 128) (vsid : Nat) : V (BitVec 128) :=
  V.cached i qsid 0 vsid (·.vsttes) (fun k l => { k with vsttes := l }) do
    let s ← (get : V State)
    let size := fieldNat cite 58 6
    let split := vsttSplit s.ids cite
    let base := cite.extractLsb' 0 64 &&& maskAt 64 3 53
    let l1 ← V.cached i qsid 0 (vsid / 2 ^ split) (·.l1vstts) (fun k l => { k with l1vstts := l })
      (V.read i qsid (alignDown base (max 3 (size - split + 3)) + BitVec.ofNat 64 (vsid / 2 ^ split * 8)) 8 .vsttFetch)
    let span := fieldNat l1 59 5
    if span = 0 ∨ 14 < span then throw .ignored
    else if split + 1 < span then throw (.failed .sidConfig)
    else if 2 ^ (span - 1) ≤ vsid % 2 ^ split then throw .ignored
    else V.read i qsid (l2Entry l1 span vsid 3) 8 .vsttFetch

/-- The translation of a virtual StreamID of a command of the n-th DCMDQ of an interface (R755, R756, R759). -/
def vsidTranslate (s : State) (i : Sec) (n : Nat) (vsid : BitVec 32) : VsidOut × State :=
  let qsid := qsidOf s.ids i n
  let run : V (BitVec 32) := do
    if !(s.iface i).cr0ack.getLsbD 11 then throw (.failed .sidConfig)
    else
      let cite ← fetchCite i (dcmdqPage s.ids i n) qsid
      let size := min (fieldNat cite 58 6) (s.ids.vsidSize i)
      let u ← if 2 ^ size ≤ vsid.toNat then V.free else pure 0
      if 2 ^ s.ids.vsidSize i ≤ vsid.toNat || 2 ^ size ≤ vsid.toNat && u.getLsbD 0 then throw .ignored
      else
        let v := if 2 ^ size ≤ vsid.toNat then u.toNat / 2 % 2 ^ size else vsid.toNat
        let e ← fetchVstte i qsid cite v
        if e.getLsbD 0 then pure (e.extractLsb' 32 32) else throw .ignored
  match StateT.run (ExceptT.run run) s with
  | (.ok p, s) => (.psid p, s)
  | (.error e, s) => (e, s)

/-- vSID translation is on for a DCMDQ: the interface has it and ECMDQ_BASEn.VSID is set (R759; 15_regs_ecmdq_dcmdq.md
R403). -/
def vsidOn (s : State) (i : Sec) (n : Nat) : Bool :=
  s.ids.vsid i &&
  match s.ecmdqAt i n with
  | some e => e.base.getLsbD 61
  | none => false

/-- How a command finds the stream it names: as it is on an ordinary queue; through vSID translation on a DCMDQ (R755, R759). -/
inductive StreamRef where
  | sid (sid : BitVec 32)
  | ignored
  | ill
  | failed (e : HsErr)
  deriving DecidableEq, Repr

/-- The stream of an ATS or PRI command (43_cmd_ats_pri_dpt.md R2003): a Secure DCMDQ or one without vSID translation
cannot name any. -/
def streamRef (s : State) (sid : BitVec 32) : StreamRef × State :=
  match s.cur with
  | .dcmdq i n =>
    if i = .s || !vsidOn s i n then (.ill, s)
    else
      match vsidTranslate s i n sid with
      | (.psid p, s) => (.sid p, s)
      | (.ignored, s) => (.ignored, s)
      | (.failed e, s) => (.failed e, s)
  | _ => (.sid sid, s)

end Sys2Proof.Machine
end

