-- ==== Sys2Proof/Machine/Pri.lean ====
section
/-! DEFINITION. PCIe PRI: the PRI queue, its overflow, and automatic responses (26_ats_pri.md R1730 to R1742). -/

namespace Sys2Proof.Machine

/-- The PASID of a request in use: none without substream support (R1731). -/
def PriReq.pasid (d : Ids) (r : PriReq) : Option (BitVec 20) := if d.ssidSize = 0 then none else r.ssid

/-- A Stop PASID marker (R1732). -/
def PriReq.isStop (d : Ids) (r : PriReq) : Bool := r.last && !r.uW && !r.uR && (r.pasid d).isSome

/-- The PRI queue entry of a request; without a PASID the SubstreamID is UNKNOWN (R1731). -/
def priEntry (d : Ids) (r : PriReq) (u : DWord) : BitVec 128 :=
  let ssv := (r.pasid d).isSome
  let v := putField (0 : BitVec 128) 0 32 r.sid.toNat
  let v := putField v 32 20 ((r.pasid d).getD (u.extractLsb' 0 20)).toNat
  let v := putBit (putBit v 58 (r.priv && ssv)) 59 (r.uX && ssv)
  let v := putBit (putBit (putBit v 60 r.uR) 61 r.uW) 62 r.last
  let v := putField (putBit v 63 ssv) 64 9 r.prgIndex.toNat
  putField v 76 52 (fieldNat r.addr 12 52)

/-- The codes of a PRG Response (R1742). -/
inductive PrgCode where
  | success | invalid | failure
  deriving DecidableEq, Repr

/-- The ResponseCode of a PRG Response (R1742). -/
def PrgCode.code : PrgCode → BitVec 4
  | .success => 0b0000
  | .invalid => 0b0001
  | .failure => 0b1111

/-- An automatic response to a request (R1741); a Stop marker gets none (R1732). -/
def priRespond (s : State) (r : PriReq) (pasid : Option (BitVec 20)) (c : PrgCode) : State :=
  if r.isStop s.ids then s else s.send (.prgResponse r.sec r.sid pasid r.prgIndex c.code)

/-- The refusal of a request with Failure and without a PASID (R1740, R1741). -/
def priRefuse (s : State) (r : PriReq) : State := priRespond s r none .failure

/-- The PROD register of the PRI queue changed. -/
def State.setPriqProd (s : State) (i : Sec) (f : BitVec 32 → BitVec 32) : State :=
  s.setIface i fun r => { r with priq := { r.priq with prod := f r.priq.prod } }

/-- The check of STE.PPAR for an automatic response (R1736, R1737): PPAR of a valid STE, none if there is no valid STE; events
only where REC_CFG_ATS is set. -/
def priPpar (s : State) (r : PriReq) : Option Bool × State :=
  if !s.smmuEn r.sec then (none, s)
  else
    let ev : EvTxn := ⟨r.sec, r.sid, r.pasid s.ids, r.addr, !r.uW, r.uX, r.priv, r.uX, r.priv, false⟩
    let c : Ctx := { ev := ev }
    let run : X Ste := do
      let x ← fetchValidSte c
      if vmsEnabled s.ids r.sec x then discard (fetchVms c x)
      pure x
    match X.run run s with
    | (.ok x, s) => (some x.ppar, s)
    | (.error (.event e), s) => (none, if s.recCfgAts r.sec then emitFor s ev e else s)
    | (.error _, s) => (none, s)

/-- The automatic response on overflow to a request with Last set (R1736, R1737); a Stop marker is only discarded (R1735). -/
def priOverflowResponse (s : State) (r : PriReq) : State :=
  if !r.last || r.isStop s.ids then s
  else
    match r.pasid s.ids with
    | none =>
      if s.ids.ssidSize = 0 && s.impl.priqOverflowSteCheck then
        match priPpar s r with
        | (some _, s) => priRespond s r none .success
        | (none, s) => priRespond s r none .failure
      else priRespond s r none .success
    | some p =>
      if s.ids.pps then priRespond s r (some p) .success
      else
        match priPpar s r with
        | (some true, s) => priRespond s r (some p) .success
        | (some false, s) => priRespond s r none .success
        | (none, s) => priRespond s r none .failure

/-- The PRI queue interrupt on Last is selected (13_regs_tables_queues.md R263). -/
def priLastOnly (s : State) (i : Sec) : Bool := (s.iface i).priqIrq.cfg2.getLsbD 31

/-- PROD moves past a request, with the interrupt if the queue was `empty`, or if Last is set where only that raises it
(R1734; 13_regs_tables_queues.md R263). -/
def priAdvance (s : State) (r : PriReq) (empty : Bool) : State :=
  let i := r.sec
  let s := s.setPriqProd i fun p => putField p 0 20 ((indexOf p (queueLog2 (s.iface i).priq.base s.ids.priqs) + 1) %
    2 ^ (queueLog2 (s.iface i).priq.base s.ids.priqs + 1))
  if (if priLastOnly s i then r.last else empty) then raiseIrq s i .priq else s

/-- A Page Request (R1734 to R1741; 62_ras_mpam_mec.md R2654): written to the PRI queue, or discarded with the response that
its rule gives. An aborted write refuses it, or, detected asynchronously (parameter priqAbortSync, log entry 2), loses it with
PROD advanced (R1739). Inconsistent indexes are treated as a full queue (27_queues.md R705, log entry 18). -/
def processPri (s : State) (r : PriReq) : State :=
  let i := r.sec
  if i = .s || !s.ids.priOf i || !s.priqEn i || gerrActive (s.iface i) .priqAbt || s.sfm then priRefuse s r
  else
    let q := (s.iface i).priq
    let n := queueLog2 q.base s.ids.priqs
    let full := queueFull q.prod q.cons n || !queueConsistent q.prod q.cons n
    if overflowed q || full then
      let s := if overflowed q then s else s.setPriqProd i (toggleBit · 31)
      let s := priOverflowResponse s r
      if r.last && priLastOnly s i then raiseIrq s i .priq else s
    else
      match s.takeFree with
      | (u, s) =>
        let addr := s.entryAt q.base n 4 q.prod
        match smmuWrite s (s.ownAcc i .priq) i.pas addr (natBytes 16 (priEntry s.ids r u).toNat) .priq with
        | (some _, s) =>
          if s.impl.priqAbortSync then priRefuse (raiseGerror s i .priqAbt) r
          else raiseGerror (priAdvance s r (queueEmpty q.prod q.cons n)) i .priqAbt
        | (none, s) => priAdvance s r (queueEmpty q.prod q.cons n)

/-- A device's page request hint is the event E_PAGE_REQUEST, converted to F_PROTECTED where the hint has the Protected Mode
attribute (61_event_records.md R2254, R2272); with SMMUEN zero the event is not generated (60_exceptions.md R2162). -/
def processPageHint (s : State) (r : PageHint) : State :=
  if !s.smmuEn r.sec then s
  else
    let pm := r.pm && s.ids.gdi && r.sec == .ns
    let ev : EvTxn := ⟨r.sec, r.sid, r.ssid, r.addr, true, false, false, false, false, pm⟩
    emitEvent s ev (.pageRequest r.pR r.pW r.pX r.uR r.uW r.uX r.span)

end Sys2Proof.Machine
end

