-- ==== Sys2Proof/Machine/AtsPri.lean ====
section
/-! DEFINITION. The meanings of the ATS, PRI and DPT maintenance commands (43_cmd_ats_pri_dpt.md). -/

namespace Sys2Proof.Machine

/-! ## ATS and PRI -/

/-- The Security state of the StreamID of an ATS or PRI command: never Secure (R2000, R2003). -/
def atsSec (s : State) : Sec := if s.cur.sec = .rl then .rl else .ns

/-- A DCMDQ that cannot name a stream: Secure, or without vSID translation (R2003, R2006; 27_queues.md R759). -/
def dcmdqNoSid (s : State) : Bool :=
  match s.cur with
  | .dcmdq i n => i == .s || !vsidOn s i n
  | _ => false

/-- The legality of CMD_ATC_INV beside its Size (R2003). -/
def atcIll (s : State) : Bool :=
  (match s.cur.sec with
    | .ns => !s.ids.ats
    | .s => !s.ids.ats || s.ids.sams
    | .rl => !s.ids.atsOf .rl)
  || dcmdqNoSid s || !queueAccepts s .atc

/-- The legality of CMD_PRI_RESP beside its Resp (R2006). -/
def priIll (s : State) : Bool :=
  (match s.cur.sec with
    | .ns => !s.ids.pri
    | .s => !s.ids.pri || s.ids.sams
    | .rl => !s.ids.priOf .rl)
  || dcmdqNoSid s || !queueAccepts s .pri

/-- A legal CMD_ATC_INV is IGNORED: the system does not support ATS, or SMMUEN is zero (R2003; parameter systemAts, log entry
2). -/
def atsIgnored (s : State) : Bool := !s.impl.systemAts || !s.smmuEn s.cur.sec

/-- A legal CMD_PRI_RESP is IGNORED: the system does not support PRI, or SMMUEN is zero (R2006; parameter systemPri). -/
def priIgnored (s : State) : Bool := !s.impl.systemPri || !s.smmuEn s.cur.sec

/-- The command acts on the stream its StreamID names; out of range it has no effect (30_encoding.md R1804, log entry 19). -/
def onStream (s : State) (sid : BitVec 32) (ssid : Option (BitVec 20)) (eff : State → BitVec 32 → State) : CmdOut :=
  match streamRef s sid with
  | (.ill, s) => .error .ill s
  | (.ignored, s) => .consumed s
  | (.failed e, s) => .hsError e s
  | (.sid p, s) =>
    .consumed (if sidInRange s (atsSec s) p && (ssid.map (ssidInRange s)).getD true then eff s p else s)

/-- The PASID of an ATS or PRI command; without substream support SSV is taken as zero (R2002, R2005). -/
def cmdPasid (d : Ids) (ssv : Bool) (ssid : BitVec 20) : Option (BitVec 20) :=
  if ssv && d.ssidSize != 0 then some ssid else none

/-- An Invalidation Request is sent; it is outstanding until its completion arrives (R2001, R2002, R2004). -/
def sendAtcInv (s : State) (sid : BitVec 32) (pasid : Option (BitVec 20)) (g : Bool) (size : Nat) (addr : DWord) : State :=
  let s : State := { s with atcInvs := s.atcInvs ++ [⟨s.itag, s.cur, false⟩], itag := s.itag + 1 }
  s.send (.atsInvReq (s.itag - 1) (atsSec s) sid pasid (g && pasid.isSome) (alignDown addr (12 + size)) size)

/-- CMD_ATC_INV (R2001 to R2004); a Size above 52 is CERROR_ILL. -/
def execAtcInv (g ssv : Bool) (ssid : BitVec 20) (sid : BitVec 32) (size : BitVec 6) (addr : BitVec 52) (s : State) :
    Host.Outcome State Fault Refusal :=
  finish
    (if atcIll s || decide (52 < size.toNat) then .error .ill s
     else if atsIgnored s then .consumed s
     else
       onStream s sid (cmdPasid s.ids ssv ssid) fun s p =>
         sendAtcInv s p (cmdPasid s.ids ssv ssid) g size.toNat (vaOf addr))

/-- What CMD_PRI_RESP answers, none for the Reserved Resp (R2005). -/
def respCode (resp : BitVec 2) : Option PrgCode :=
  match resp.toNat with
  | 0 => some .failure
  | 1 => some .invalid
  | 2 => some .success
  | _ => none

/-- CMD_PRI_RESP (R2005, R2006). -/
def execPriResp (ssv : Bool) (ssid : BitVec 20) (sid : BitVec 32) (prgIndex : BitVec 9) (resp : BitVec 2) (s : State) :
    Host.Outcome State Fault Refusal :=
  finish
    (match respCode resp with
     | none => .error .ill s
     | some c =>
       if priIll s then .error .ill s
       else if priIgnored s then .consumed s
       else
         onStream s sid (cmdPasid s.ids ssv ssid) fun s p =>
           s.send (.prgResponse (atsSec s) p (cmdPasid s.ids ssv ssid) prgIndex c.code))

/-! ## DPT maintenance -/

/-- The legality of CMD_DPTI_* (R2010). -/
def dptiIll (s : State) : Bool :=
  (match s.cur.sec with
    | .ns => !s.ids.dpt .ns
    | .s => !s.ids.dpt .ns || s.ids.sams
    | .rl => !s.ids.dpt .rl)
  || s.cur.isDirect || !queueAccepts s .dpti

/-- The DPT entries removed. -/
def dropDpt (s : State) (p : DptEntry → Bool) : State :=
  { s with caches := { s.caches with dpt := s.caches.dpt.filter fun e => !p e } }

/-- CMD_DPTI_ALL (R2010). -/
def execDptiAll (s : State) : Host.Outcome State Fault Refusal :=
  command s (dptiIll s) fun s => dropDpt s fun e => e.sec == atsSec s

/-- log2 of the size that SIZE codes, none for a Reserved value (R2011). -/
def dptiSize (v : Nat) : Option Nat :=
  match v with
  | 0 => some 12
  | 1 => some 14
  | 2 => some 16
  | 3 => some 21
  | 4 => some 25
  | 5 => some 29
  | 6 => some 30
  | 7 => some 34
  | 8 => some 36
  | 9 => some 39
  | _ => none

/-- CMD_DPTI_PA (R2011): a Reserved SIZE or a misaligned address removes nothing. -/
def execDptiPa (leaf : Bool) (size : BitVec 4) (addr : BitVec 44) (s : State) : Host.Outcome State Fault Refusal :=
  command s (dptiIll s) fun s =>
    let a := s.truncOas (paOf s.ids addr)
    match dptiSize size.toNat with
    | none => s
    | some n =>
      if a.toNat % 2 ^ n != 0 then s
      else dropDpt s fun e => e.sec == atsSec s && !(leaf && e.isTable) && regionMeets e.base e.sizeLog2 a (2 ^ n)

end Sys2Proof.Machine
end

