-- ==== Sys2Proof/Machine/Cfgi.lean ====
section
/-! DEFINITION. The meanings of the configuration invalidation commands (41_cmd_cfgi.md). Each removes what its rule asks for
and nothing else (R1871). -/

namespace Sys2Proof.Machine

/-- The caches changed. -/
def State.dropCaches (s : State) (f : Caches → Caches) : State := { s with caches := f s.caches }

/-- An entry of a Security state covers a StreamID of the range that starts at `lo` and has `len` StreamIDs. -/
def StreamEntry.covers (e : StreamEntry) (i : Sec) (lo len : Nat) : Bool :=
  let base := e.sid.toNat / 2 ^ e.span * 2 ^ e.span
  e.sec == i && decide (base < lo + len ∧ lo < base + 2 ^ e.span)

/-- An entry that was fetched through a StreamID of the range. -/
def StreamEntry.through (e : StreamEntry) (i : Sec) (lo len : Nat) : Bool :=
  e.sec == i && decide (lo ≤ e.sid.toNat ∧ e.sid.toNat < lo + len)

/-- The structures of a range of StreamIDs: STEs, L1STDs if asked for, CDs, L1CDs, VMS information by StreamID (R1872,
R1873). -/
def Caches.dropStes (k : Caches) (i : Sec) (lo len : Nat) (l1 : Bool) : Caches :=
  { k with
    stes := k.stes.filter fun e => !e.covers i lo len
    l1stds := k.l1stds.filter fun e => !(l1 && e.covers i lo len)
    cds := k.cds.filter fun e => !e.through i lo len
    l1cds := k.l1cds.filter fun e => !e.through i lo len
    vmsBySid := k.vmsBySid.filter fun e => !e.through i lo len }

/-- Everything cached from CIT and VSTT structures for a Security state (R1873, R1880; 27_queues.md R758). -/
def Caches.dropVsid (k : Caches) (i : Sec) : Caches :=
  { k with
    cites := k.cites.filter fun e => e.sec != i
    l1cits := k.l1cits.filter fun e => e.sec != i
    vsttes := k.vsttes.filter fun e => e.sec != i
    l1vstts := k.l1vstts.filter fun e => e.sec != i }

/-- A CMD_CFGI_* with SSec: CERROR_ILL if SSec is misused (30_encoding.md R1803), on a DCMDQ, on a RECMDQ that does not take
the command, or for the command's own reason. -/
def cfgiCommand (s : State) (ssec : Bool) (ill : Sec → Bool) (eff : Sec → State → State) : Host.Outcome State Fault Refusal :=
  match targetSec s ssec with
  | none => finish (.error .ill s)
  | some i => command s (s.cur.isDirect || !queueAccepts s .cfgi || ill i) (eff i)

/-- CMD_CFGI_STE (R1872); an out-of-range StreamID has no effect (30_encoding.md R1804; log entry 19). -/
def execCfgiSte (ssec : Bool) (sid : BitVec 32) (leaf : Bool) (s : State) : Host.Outcome State Fault Refusal :=
  cfgiCommand s ssec (fun _ => false) fun i s =>
    if sidInRange s i sid then s.dropCaches (·.dropStes i sid.toNat 1 !leaf) else s

/-- CMD_CFGI_STE_RANGE (R1873): an aligned block of StreamIDs. -/
def execCfgiSteRange (ssec : Bool) (sid : BitVec 32) (range : BitVec 5) (s : State) : Host.Outcome State Fault Refusal :=
  cfgiCommand s ssec (fun _ => false) fun i s =>
    let n := range.toNat + 1
    let s := s.dropCaches (·.dropStes i (sid.toNat / 2 ^ n * 2 ^ n) (2 ^ n) true)
    if range = 31 && s.ids.dcmdq i then s.dropCaches (·.dropVsid i) else s

/-- CMD_CFGI_ALL (R1880). -/
def execCfgiAll (ssec : Bool) (_sid : BitVec 32) (s : State) : Host.Outcome State Fault Refusal :=
  cfgiCommand s ssec (fun _ => false) fun i s =>
    let s := s.dropCaches fun k =>
      { k.dropStes i 0 (2 ^ 32) true with vmsByVmid := k.vmsByVmid.filter fun e => e.sec != i }
    if s.ids.dcmdq i then s.dropCaches (·.dropVsid i) else s

/-- CMD_CFGI_CD (R1874). -/
def execCfgiCd (ssec : Bool) (ssid : BitVec 20) (sid : BitVec 32) (leaf : Bool) (s : State) :
    Host.Outcome State Fault Refusal :=
  cfgiCommand s ssec (fun _ => !s.ids.s1p) fun i s =>
    if sidInRange s i sid && ssidInRange s ssid then
      s.dropCaches fun k =>
        { k with
          cds := k.cds.filter fun e => !(e.sec == i && e.sid == sid && e.idx == ssid.toNat)
          l1cds := k.l1cds.filter fun e => !(!leaf && e.sec == i && e.sid == sid) }
    else s

/-- CMD_CFGI_CD_ALL (R1875). -/
def execCfgiCdAll (ssec : Bool) (sid : BitVec 32) (s : State) : Host.Outcome State Fault Refusal :=
  cfgiCommand s ssec (fun _ => !s.ids.s1p) fun i s =>
    if sidInRange s i sid then
      s.dropCaches fun k =>
        { k with
          cds := k.cds.filter fun e => !(e.sec == i && e.sid == sid)
          l1cds := k.l1cds.filter fun e => !(e.sec == i && e.sid == sid) }
    else s

/-- CMD_CFGI_VMS_PIDM (R1876): an 8-bit VMID with non-zero upper bits matches nothing (42_cmd_tlbi.md R1901). -/
def execCfgiVmsPidm (ssec : Bool) (vmid : BitVec 16) (s : State) : Host.Outcome State Fault Refusal :=
  cfgiCommand s ssec (fun i => !s.ids.mpamOf i || !vmsSupported s.ids i) fun i s =>
    if s.ids.vmid16 || fieldNat vmid 8 8 == 0 then
      s.dropCaches fun k => { k with vmsByVmid := k.vmsByVmid.filter fun e => !(e.sec == i && e.vmid == vmid) }
    else s

/-- The legality of the commands on CIT and VSTT: only with vSID translation, and not on a DCMDQ (R1877). -/
def vsidIll (s : State) : Bool := !s.ids.vsid s.cur.sec || s.cur.isDirect || !queueAccepts s .cfgi

/-- CMD_CFGI_CIT (R1877): the CITE and VSTT of the qSID, and the L1CITD that it shares with others. -/
def execCfgiCit (sid : BitVec 32) (s : State) : Host.Outcome State Fault Refusal :=
  command s (vsidIll s) fun s =>
    if sidInRange s s.cur.sec sid then
      let keep (e : VsidEntry) : Bool := !e.serves s.cur.sec sid
      s.dropCaches fun k =>
        { k with cites := k.cites.filter keep, l1cits := k.l1cits.filter keep
                 vsttes := k.vsttes.filter keep, l1vstts := k.l1vstts.filter keep }
    else s

/-- CMD_CFGI_VSTT_VSID (R1878; 27_queues.md R758). -/
def execCfgiVsttVsid (sid : BitVec 32) (vsid : BitVec 16) (s : State) : Host.Outcome State Fault Refusal :=
  command s (vsidIll s) fun s =>
    if sidInRange s s.cur.sec sid && decide (vsid.toNat < 2 ^ s.ids.vsidSize s.cur.sec) then
      s.dropCaches fun k =>
        { k with
          vsttes := k.vsttes.filter fun e => !(e.sec == s.cur.sec && e.qsid == sid && e.vsid == vsid.toNat)
          l1vstts := k.l1vstts.filter fun e => !(e.sec == s.cur.sec && e.qsid == sid) }
    else s

/-- CMD_CFGI_VSTT (R1879). -/
def execCfgiVstt (sid : BitVec 32) (s : State) : Host.Outcome State Fault Refusal :=
  command s (vsidIll s) fun s =>
    if sidInRange s s.cur.sec sid then
      let keep (e : VsidEntry) : Bool := !(e.sec == s.cur.sec && e.qsid == sid)
      s.dropCaches fun k => { k with vsttes := k.vsttes.filter keep, l1vstts := k.l1vstts.filter keep }
    else s

end Sys2Proof.Machine
end

