-- ==== Sys2Proof/Machine/FaultSync.lean ====
section
/-! DEFINITION. The meanings of the fault response and synchronization commands (44_cmd_fault_sync.md). -/

namespace Sys2Proof.Machine

/-! ## Stalled transactions -/

/-- The legality of CMD_RESUME and CMD_STALL_TERM (R2051, R2054). -/
def stallIll (s : State) : Bool :=
  s.stallModel s.cur.sec == 1 || s.cur.sec == .rl || s.cur.isDirect || !queueAccepts s .fault

/-- A stall is of a stream. -/
def Stall.of (x : Stall) (i : Sec) (sid : BitVec 32) : Bool := x.what.sec == i && x.what.sid == sid

/-- A stalled transaction is resumed: retried, or terminated (R2050). -/
def resumeAccess (s : State) (w : Stalled) (ac ab : Bool) : State :=
  if ac then retryAccess s w
  else endStall s w (if ab || s.ids.termModel then .abort else .razWi)

/-- The effect of CMD_RESUME: the recorded stall of the stream with the STAG, if there is one (R2051); a stall whose record
is not yet visible is resumed or not as a free value says (R2052; log entry 7). -/
def resumeStall (s : State) (i : Sec) (sid : BitVec 32) (stag : BitVec 16) (ac ab : Bool) : State :=
  match s.stalls.find? fun x => x.recorded && x.of i sid && x.stag == stag with
  | some x => resumeAccess { s with stalls := s.stalls.erase x } x.what ac ab
  | none =>
    match s.stalls.find? fun x => !x.recorded && x.of i sid with
    | none => s
    | some x =>
      match s.takeFree with
      | (u, s) => if u.getLsbD 0 then resumeAccess { s with stalls := s.stalls.erase x } x.what ac ab else s

/-- CMD_RESUME (R2050 to R2053). -/
def execResume (ssec ac ab : Bool) (sid : BitVec 32) (stag : BitVec 16) (s : State) : Host.Outcome State Fault Refusal :=
  match targetSec s ssec with
  | none => finish (.error .ill s)
  | some i => command s (stallIll s) fun s => resumeStall s i sid stag ac ab

/-- The stalled transactions of a stream are terminated with an abort (R2054). -/
def termStalls (s : State) (i : Sec) (sid : BitVec 32) : State :=
  (s.stalls.filter (·.of i sid)).foldl (fun s x => endStall s x.what .abort)
    { s with stalls := s.stalls.filter fun x => !x.of i sid }

/-- New transactions of the stream are terminated and do not stall: the STE is not found or not valid, or has Config 0b0xx
(R2055). -/
def steTerminates (s : State) (i : Sec) (sid : BitVec 32) : Bool × State :=
  if !s.smmuEn i then (true, s)
  else
    match lookupSte s i sid true with
    | (.ok x, s) => (decide (x.config < 4), s)
    | (.error _, s) => (true, s)

/-- CMD_STALL_TERM (R2054, R2055): where its precondition does not hold a free value says whether the stalls end (log
entry 7). -/
def execStallTerm (ssec : Bool) (sid : BitVec 32) (s : State) : Host.Outcome State Fault Refusal :=
  match targetSec s ssec with
  | none => finish (.error .ill s)
  | some i =>
    command s (stallIll s) fun s =>
      match steTerminates s i sid with
      | (true, s) => termStalls s i sid
      | (false, s) =>
        match s.takeFree with
        | (u, s) => if u.getLsbD 0 then termStalls s i sid else s

/-! ## CMD_SYNC -/

/-- The PA space of a CMD_SYNC's MSI (R2060, R2061). -/
def syncPas (i : Sec) (msiNs : Bool) : Pas := if i = .rl && msiNs then .ns else i.pas

/-- SIG_IRQ on an ordinary queue: the MSI, an abort of which is a global error, and the wired interrupt (R2061;
60_exceptions.md R2174; 27_queues.md R723). -/
def syncIrq (s : State) (i : Sec) (addr : DWord) (data : BitVec 32) (attrs : Attrs) (msiNs : Bool) : State :=
  let s :=
    if s.ids.msi i && addr != 0 then
      match sendMsi s (s.ownAcc i .msiCmdq) (syncPas i msiNs) addr data attrs .own .msiCmdq with
      | (false, s) => s
      | (true, s) => raiseGerror s i .msiCmdq
    else s
  if s.impl.wiredInterrupts then s.send (.wire (.cmdq i)) else s

/-- SIG_IRQ on a DCMDQ: the MSI address is translated; a failure stops the CMD_SYNC, an abort is reported by the next one
(R2069; 27_queues.md R743, R745). -/
def syncDirect (s : State) (i : Sec) (n : Nat) (addr : DWord) (data : BitVec 32) (attrs : Attrs) : CmdOut :=
  if !s.ids.msi i || addr == 0 then .consumed s
  else
    match dcmdqTranslate s i n addr true attrs with
    | (.failed, s) => .hsError .ipa s
    | (.stalled, s) => .waiting s
    | (.done pa pas attrs o, s) =>
      match sendMsi s o pas pa data attrs (.dcmdq i (qsidOf s.ids i n)) .msiCmdq with
      | (false, s) => .consumed s
      | (true, s) => .consumed (s.setEcmdq i n fun e => { e with msiAborted := true })

/-- The completion signal of a CMD_SYNC (R2061). -/
def syncSignal (s : State) (cs : Nat) (addr : DWord) (data : BitVec 32) (attrs : Attrs) (msiNs : Bool) : CmdOut :=
  match cs, s.cur with
  | 1, .dcmdq i n => syncDirect s i n addr data attrs
  | 1, q => .consumed (syncIrq s q.sec addr data attrs msiNs)
  | 2, _ => .consumed (if s.ids.sev then s.send .sev else s)
  | _, _ => .consumed s

/-- The MSI of the DCMDQ's previous CMD_SYNC was aborted (27_queues.md R745). -/
def msiPending (s : State) : Bool :=
  match s.cur with
  | .dcmdq i n =>
    match s.ecmdqAt i n with
    | some e => e.msiAborted
    | none => false
  | _ => false

/-- The pending report of an aborted MSI is made. -/
def clearMsiPending (s : State) : State :=
  match s.cur with
  | .dcmdq i n => s.setEcmdq i n fun e => { e with msiAborted := false }
  | _ => s

/-- CMD_SYNC (R2060 to R2069): it waits for the earlier CMD_ATC_INV of its queue; one that timed out is CERROR_ATC_INV_SYNC;
every other effect of earlier commands is complete when they are consumed. -/
def execSync (cs msh : BitVec 2) (msiAttr : BitVec 4) (msiData : BitVec 32) (msiAddr : BitVec 54) (msiNs : Bool)
    (s : State) : Host.Outcome State Fault Refusal :=
  finish
    (if cs = 3 then .error .ill s
     else if msiPending s then .hsError .msiAbt (clearMsiPending s)
     else if s.atcInvs.any fun a => a.queue == s.cur && a.timedOut then
       .error .atcInvSync { s with atcInvs := s.atcInvs.filter fun a => !(a.queue == s.cur && a.timedOut) }
     else if s.atcInvs.any fun a => a.queue == s.cur then .waiting s
     else syncSignal s cs.toNat (msiAddrOf s.ids msiAddr) msiData (msiAttrs msiAttr msh.toNat) msiNs)

end Sys2Proof.Machine
end

