-- ==== Sys2Proof/Machine/Prefetch.lean ====
section
/-! DEFINITION. The meanings of the prefetch commands (40_cmd_prefetch.md). -/

namespace Sys2Proof.Machine

/-- The StreamID of a prefetch command: on a Secure DCMDQ, or one without vSID translation, the command is IGNORED (R1852;
27_queues.md R759). -/
def prefetchRef (s : State) (sid : BitVec 32) : StreamRef × State :=
  match s.cur with
  | .dcmdq i n =>
    if i = .s || !vsidOn s i n then (.ignored, s)
    else
      match vsidTranslate s i n sid with
      | (.psid p, s) => (.sid p, s)
      | (.ignored, s) => (.ignored, s)
      | (.failed e, s) => (.failed e, s)
  | _ => (.sid sid, s)

/-- A prefetch looks configuration up as a speculative read would: nothing is recorded or reported (R1850; 25_dpt_gpc.md
R1603). -/
def prefetchCtx (i : Sec) (sid : BitVec 32) (ssid : Option (BitVec 20)) (addr : DWord) (priv : Bool) : Ctx :=
  { ev := ⟨i, sid, ssid, addr, true, false, priv, false, false, false⟩, quiet := true }

/-- The state after a lookup whatever its result: prefetches at invalid configuration fail silently (R1850). -/
def prefetchState {α : Type} (s : State) (x : X α) : State := (X.run x s).2

/-- The prefetch of a stream's configuration: STE, VMS, CD, with the stage 2 Access flags that a CD fetch sets (R1852). -/
def prefetchConfigAt (s : State) (i : Sec) (sid : BitVec 32) (ssid : Option (BitVec 20)) : State :=
  if !sidInRange s i sid then s
  else
    let c := prefetchCtx i sid ssid 0 false
    prefetchState s do
      let x ← fetchValidSte c
      if 4 ≤ x.config then do
        if vmsEnabled s.ids i x then discard (fetchVms c x)
        match ← selectCd c x with
        | some k => discard (fetchCd c x k)
        | none => pure ()

/-- CMD_PREFETCH_CONFIG (R1852); with SMMUEN zero it accesses nothing (12_regs_control.md R161). -/
def execPrefetchConfig (ssec ssv : Bool) (ssid : BitVec 20) (sid : BitVec 32) (s : State) :
    Host.Outcome State Fault Refusal :=
  match targetSec s ssec with
  | none => finish (.error .ill s)
  | some i =>
    if !s.smmuEn i then finish (.consumed s)
    else
      match prefetchRef s sid with
      | (.sid p, s) => finish (.consumed (prefetchConfigAt s i p (if ssv then some ssid else none)))
      | (.failed e, s) => finish (.hsError e s)
      | (_, s) => finish (.consumed s)

/-- The addresses of a CMD_PREFETCH_ADDR; the implementation makes eight translations at most (R1853; log entry 25). -/
def prefetchAddrs (d : Ids) (size stride : BitVec 5) (addr : DWord) : List DWord :=
  let gap := 2 ^ (12 + if d.atLeast 1 then stride.toNat else 0)
  (List.range (min 8 (2 ^ size.toNat))).map fun n => addr + BitVec.ofNat 64 (n * gap)

/-- The prefetch of one address, as a speculative read (R1853): NS is the input to Secure stage 2 where stage 1 does not
translate. -/
def prefetchAddrAt (i : Sec) (sid : BitVec 32) (ssid : Option (BitVec 20)) (ns : Bool) (s : State) (addr : DWord) : State :=
  prefetchState s do
    let c := prefetchCtx i sid ssid addr false
    let x ← fetchValidSte c
    if 4 ≤ x.config then do
      let vms ← if vmsEnabled s.ids i x then some <$> fetchVms c x else pure none
      let ov := steOverrides s x false
      let c := prefetchCtx i sid ssid addr (ov.priv.getD false)
      let x' : Ste := if i = .s then putField x 110 2 0 else x
      discard (pathThrough c ⟨x', ⟨.must true false, ov.inst.getD false, ov.priv.getD false⟩, ov.apply Attrs.default,
        if i = .s then some (ns && s.ids.sel2) else none, false, vms⟩)

/-- CMD_PREFETCH_ADDR (R1853); with SMMUEN zero it accesses nothing (12_regs_control.md R161). -/
def execPrefetchAddr (ssec ssv : Bool) (ssid : BitVec 20) (sid : BitVec 32) (size stride : BitVec 5) (ns : Bool)
    (addr : BitVec 52) (s : State) : Host.Outcome State Fault Refusal :=
  match targetSec s ssec with
  | none => finish (.error .ill s)
  | some i =>
    if !s.smmuEn i then finish (.consumed s)
    else
      match prefetchRef s sid with
      | (.sid p, s) =>
        finish (.consumed
          (if !sidInRange s i p then s
           else (prefetchAddrs s.ids size stride (vaOf addr)).foldl (prefetchAddrAt i p (if ssv then some ssid else none) ns) s))
      | (.failed e, s) => finish (.hsError e s)
      | (_, s) => finish (.consumed s)

end Sys2Proof.Machine
end

