-- ==== Sys2Proof/Machine/Tlbi.lean ====
section
/-! DEFINITION. The meanings of the TLB invalidation commands (42_cmd_tlbi.md). Each removes the minimum that its rule gives
(R1900). -/

namespace Sys2Proof.Machine

/-! ## What the commands have in common -/

/-- The EL1 regime of a queue's Security state (R1910). -/
def el1World (i : Sec) : World := s2World i

/-- The legality of CMD_TLBI_NH_* (R1906; 27_queues.md R750). -/
def nhIll (s : State) : Bool := !s.ids.s1p || !queueAccepts s .tlbiNh

/-- The VMID of a CMD_TLBI_NH_*: on a DCMDQ the one of STE[qSID] (R1910). -/
def nhVmid (s : State) (vmid : BitVec 16) : BitVec 16 × State :=
  match s.cur with
  | .dcmdq i n => dcmdqVmid s i n
  | _ => (vmid, s)

/-- A stage 1 entry of the queue's EL1 regime for a VMID; without stage 2 for the state entries have none, and a non-zero
VMID matches nothing (R1906, R1910). -/
def nhScope (s : State) (vmid : BitVec 16) (e : TlbEntry) : Bool :=
  e.world == el1World s.cur.sec && e.stage == .s1 && vmidMatches s s.cur.sec vmid e.vmid

/-- The legality of CMD_TLBI_EL3_* (R1914). -/
def el3Ill (s : State) : Bool :=
  s.cur.sec != .s || s.cur.isDirect || s.ids.rmeImpl || !s.ids.s1p || !queueAccepts s .tlbi

/-- The legality of CMD_TLBI_EL2_* (R1916, R1917). -/
def el2Ill (s : State) : Bool := !s.ids.hyp || !s.ids.s1p || s.cur.isDirect || !queueAccepts s .tlbi

/-- The Security state that CMD_TLBI_EL2_* act on (R1916). -/
def el2Sec (s : State) : Sec := if s.cur.sec = .rl then .rl else .ns

/-- The legality of CMD_TLBI_S_EL2_* (R1920). -/
def sEl2Ill (s : State) : Bool :=
  s.cur.sec != .s || s.cur.isDirect || !s.ids.s1p || !s.ids.sel2 || !queueAccepts s .tlbi

/-- The StreamWorld of EL2 translations without ASIDs of a Security state (R1260 of 31_tlb_tagging.md). -/
def el2World (i : Sec) : World :=
  match i with
  | .ns => .nsEl2
  | .s => .sEl2
  | .rl => .realmEl2

/-- The StreamWorld of EL2 translations with ASIDs. -/
def el2E2hWorld (i : Sec) : World :=
  match i with
  | .ns => .nsEl2E2h
  | .s => .sEl2E2h
  | .rl => .realmEl2E2h

/-- The E2H that governs an EL2 command by address: SMMU_(*_)CR2.E2H, UNKNOWN from its change on until SMMUEN is Updated to one
(R1918; 12_regs_control.md R171, R172; log entry 7). -/
def el2E2h (s : State) (i : Sec) : Bool × State :=
  if (s.iface i).e2hUnknown then
    match s.takeFree with
    | (u, s) => (u.getLsbD 0, s)
  else (s.e2h i, s)

/-- The entries of an EL2 command by address: with E2H those of the E2H regime by ASID, else those without ASIDs (R1918,
R1919). -/
def el2Scope (i : Sec) (e2h : Bool) (d : Ids) (a : AsidSel) (e : TlbEntry) : Bool :=
  if e2h then e.world == el2E2hWorld i && a.matches d e.asid else e.world == el2World i

/-- An EL2 invalidation by address (R1918, R1919, R1922, R1923). -/
def dropEl2 (s : State) (i : Sec) (a : AsidSel) (rg : TlbiRange) (leaf : Bool) (addr : BitVec 52) : State :=
  match el2E2h s i with
  | (e2h, s) => dropTlbRange s rg leaf (vaOf addr) (el2Scope i e2h s.ids a)

/-- The Security state of stage 2 and all-stage commands of the Non-secure and Realm regimes (R1925, R1926). -/
def s12Sec (s : State) : Sec := if s.cur.sec = .rl then .rl else .ns

/-- The legality of stage 2 and all-stage commands (R1925, R1926). -/
def s12Ill (s : State) : Bool := !s.ids.s2p || s.cur.isDirect || !queueAccepts s .tlbi

/-- The legality of stage 2 and all-stage commands on the Secure regime (R1928). -/
def sS12Ill (s : State) : Bool :=
  s.cur.sec != .s || s.cur.isDirect || !s.ids.stage2Of .s || !queueAccepts s .tlbi

/-- An entry of an EL1 regime for a VMID, at any stage (R1926). -/
def s12Scope (s : State) (i : Sec) (vmid : BitVec 16) (e : TlbEntry) : Bool :=
  e.world == el1World i && vmidMatches s i vmid e.vmid

/-- A stage 2 entry of a regime for a VMID and an IPA space (R1925, R1928). -/
def s2Scope (s : State) (i : Sec) (vmid : BitVec 16) (nsIpa : Bool) (e : TlbEntry) : Bool :=
  e.stage == .s2 && e.nsIpa == nsIpa && s12Scope s i vmid e

/-- An intermediate physical address operand in effect: bits [IAS] and up zero (R1925). -/
def ipaInRange (d : Ids) (addr : BitVec 44) : Bool := decide ((paOf d addr).toNat < 2 ^ d.ias)

/-- Removal of the stage 2 dirty state of entries (R1927). -/
def clearDirty (s : State) (p : TlbEntry → Bool) : State :=
  { s with caches := { s.caches with
      tlb := s.caches.tlb.map fun e => if p e then { e with dirty := false } else e } }

/-- All entries of a regime at all stages (R1931). -/
def dropRegime (s : State) (w : World) : State := dropTlb s fun e => e.world == w

/-! ## Stage 1 -/

/-- CMD_TLBI_NH_ALL (R1910). -/
def execTlbiNhAll (vmid : BitVec 16) (s : State) : Host.Outcome State Fault Refusal :=
  command s (nhIll s) fun s =>
    match nhVmid s vmid with
    | (v, s) => dropTlb s (nhScope s v)

/-- CMD_TLBI_NH_ASID (R1911). -/
def execTlbiNhAsid (vmid asid : BitVec 16) (s : State) : Host.Outcome State Fault Refusal :=
  command s (nhIll s) fun s =>
    match nhVmid s vmid with
    | (v, s) => dropTlb s fun e => nhScope s v e && (AsidSel.nonGlobal asid).matches s.ids e.asid

/-- CMD_TLBI_NH_VA (R1912). -/
def execTlbiNhVa (vmid asid : BitVec 16) (rg : TlbiRange) (leaf : Bool) (addr : BitVec 52) (s : State) :
    Host.Outcome State Fault Refusal :=
  command s (nhIll s || rangeIll s.ids rg) fun s =>
    match nhVmid s vmid with
    | (v, s) =>
      dropTlbRange s rg leaf (vaOf addr) fun e => nhScope s v e && (AsidSel.orGlobal asid).matches s.ids e.asid

/-- CMD_TLBI_NH_VAA (R1913). -/
def execTlbiNhVaa (vmid : BitVec 16) (rg : TlbiRange) (leaf : Bool) (addr : BitVec 52) (s : State) :
    Host.Outcome State Fault Refusal :=
  command s (nhIll s || rangeIll s.ids rg) fun s =>
    match nhVmid s vmid with
    | (v, s) => dropTlbRange s rg leaf (vaOf addr) (nhScope s v)

/-- CMD_TLBI_EL3_ALL (R1914). -/
def execTlbiEl3All (s : State) : Host.Outcome State Fault Refusal :=
  command s (el3Ill s) fun s => dropRegime s .el3

/-- CMD_TLBI_EL3_VA (R1915). -/
def execTlbiEl3Va (rg : TlbiRange) (leaf : Bool) (addr : BitVec 52) (s : State) : Host.Outcome State Fault Refusal :=
  command s (el3Ill s || rangeIll s.ids rg) fun s => dropTlbRange s rg leaf (vaOf addr) fun e => e.world == .el3

/-- CMD_TLBI_EL2_ALL (R1916). -/
def execTlbiEl2All (s : State) : Host.Outcome State Fault Refusal :=
  command s (el2Ill s) fun s => dropRegime (dropRegime s (el2World (el2Sec s))) (el2E2hWorld (el2Sec s))

/-- CMD_TLBI_EL2_ASID (R1917). -/
def execTlbiEl2Asid (asid : BitVec 16) (s : State) : Host.Outcome State Fault Refusal :=
  command s (el2Ill s) fun s => dropTlb s (el2Scope (el2Sec s) true s.ids (.nonGlobal asid))

/-- CMD_TLBI_EL2_VA (R1918). -/
def execTlbiEl2Va (asid : BitVec 16) (rg : TlbiRange) (leaf : Bool) (addr : BitVec 52) (s : State) :
    Host.Outcome State Fault Refusal :=
  command s (el2Ill s || rangeIll s.ids rg) fun s => dropEl2 s (el2Sec s) (.orGlobal asid) rg leaf addr

/-- CMD_TLBI_EL2_VAA (R1919). -/
def execTlbiEl2Vaa (rg : TlbiRange) (leaf : Bool) (addr : BitVec 52) (s : State) : Host.Outcome State Fault Refusal :=
  command s (el2Ill s || rangeIll s.ids rg) fun s => dropEl2 s (el2Sec s) .any rg leaf addr

/-- CMD_TLBI_S_EL2_ALL (R1920). -/
def execTlbiSEl2All (s : State) : Host.Outcome State Fault Refusal :=
  command s (sEl2Ill s) fun s => dropRegime (dropRegime s .sEl2) .sEl2E2h

/-- CMD_TLBI_S_EL2_ASID (R1921). -/
def execTlbiSEl2Asid (asid : BitVec 16) (s : State) : Host.Outcome State Fault Refusal :=
  command s (sEl2Ill s) fun s => dropTlb s (el2Scope .s true s.ids (.nonGlobal asid))

/-- CMD_TLBI_S_EL2_VA (R1922). -/
def execTlbiSEl2Va (asid : BitVec 16) (rg : TlbiRange) (leaf : Bool) (addr : BitVec 52) (s : State) :
    Host.Outcome State Fault Refusal :=
  command s (sEl2Ill s || rangeIll s.ids rg) fun s => dropEl2 s .s (.orGlobal asid) rg leaf addr

/-- CMD_TLBI_S_EL2_VAA (R1923). -/
def execTlbiSEl2Vaa (rg : TlbiRange) (leaf : Bool) (addr : BitVec 52) (s : State) : Host.Outcome State Fault Refusal :=
  command s (sEl2Ill s || rangeIll s.ids rg) fun s => dropEl2 s .s .any rg leaf addr

/-! ## Stage 2 and all stages -/

/-- CMD_TLBI_S2_IPA (R1925). -/
def execTlbiS2Ipa (vmid : BitVec 16) (rg : TlbiRange) (leaf : Bool) (addr : BitVec 44) (s : State) :
    Host.Outcome State Fault Refusal :=
  command s (s12Ill s || rangeIll s.ids rg) fun s =>
    if ipaInRange s.ids addr then dropTlbRange s rg leaf (paOf s.ids addr) (s2Scope s (s12Sec s) vmid false) else s

/-- CMD_TLBI_S12_VMALL (R1926). -/
def execTlbiS12Vmall (vmid : BitVec 16) (s : State) : Host.Outcome State Fault Refusal :=
  command s (s12Ill s) fun s => dropTlb s (s12Scope s (s12Sec s) vmid)

/-- CMD_TLBI_S2_VMALLW (R1927). -/
def execTlbiS2Vmallw (vmid : BitVec 16) (s : State) : Host.Outcome State Fault Refusal :=
  command s (!s.ids.tlbiw || s12Ill s) fun s => clearDirty s (s12Scope s (s12Sec s) vmid)

/-- CMD_TLBI_S_S2_IPA (R1928). -/
def execTlbiSS2Ipa (vmid : BitVec 16) (ns : Bool) (rg : TlbiRange) (leaf : Bool) (addr : BitVec 44) (s : State) :
    Host.Outcome State Fault Refusal :=
  command s (sS12Ill s || rangeIll s.ids rg) fun s =>
    if ipaInRange s.ids addr then dropTlbRange s rg leaf (paOf s.ids addr) (s2Scope s .s vmid ns) else s

/-- CMD_TLBI_S_S12_VMALL (R1929). -/
def execTlbiSS12Vmall (vmid : BitVec 16) (s : State) : Host.Outcome State Fault Refusal :=
  command s (sS12Ill s) fun s => dropTlb s (s12Scope s .s vmid)

/-- CMD_TLBI_S_S2_VMALLW (R1930). -/
def execTlbiSS2Vmallw (vmid : BitVec 16) (s : State) : Host.Outcome State Fault Refusal :=
  command s (!s.ids.tlbiw || sS12Ill s) fun s => clearDirty s (s12Scope s .s vmid)

/-- CMD_TLBI_NSNH_ALL (R1931): on a DCMDQ as CMD_TLBI_NH_ALL, but not on a Secure one. -/
def execTlbiNsnhAll (s : State) : Host.Outcome State Fault Refusal :=
  match s.cur with
  | .dcmdq i n =>
    command s (i == .s || nhIll s) fun s =>
      match dcmdqVmid s i n with
      | (v, s) => dropTlb s (nhScope s v)
  | _ => command s (!queueAccepts s .tlbiNsnh) fun s => dropRegime s (el1World (s12Sec s))

/-- CMD_TLBI_SNH_ALL (R1932). -/
def execTlbiSnhAll (s : State) : Host.Outcome State Fault Refusal :=
  command s (s.cur.sec != .s || s.cur.isDirect || !s.ids.sel2 || !queueAccepts s .tlbi) fun s => dropRegime s .secure

end Sys2Proof.Machine
end

