-- ==== Sys2Proof/Machine/Dispatch.lean ====
section
/-! DEFINITION. The dispatch: one meaning for each command. -/

namespace Sys2Proof.Machine

def exec (i : Instr) (s : State) : Host.Outcome State Fault Refusal :=
  match i with
  | .prefetchConfig ssec ssv ssid sid => Sys2Proof.Machine.execPrefetchConfig ssec ssv ssid sid s
  | .prefetchAddr ssec ssv ssid sid size stride ns addr => Sys2Proof.Machine.execPrefetchAddr ssec ssv ssid sid size stride ns addr s
  | .cfgiSte ssec sid leaf => Sys2Proof.Machine.execCfgiSte ssec sid leaf s
  | .cfgiSteRange ssec sid range => Sys2Proof.Machine.execCfgiSteRange ssec sid range s
  | .cfgiAll ssec sid => Sys2Proof.Machine.execCfgiAll ssec sid s
  | .cfgiCd ssec ssid sid leaf => Sys2Proof.Machine.execCfgiCd ssec ssid sid leaf s
  | .cfgiCdAll ssec sid => Sys2Proof.Machine.execCfgiCdAll ssec sid s
  | .cfgiVmsPidm ssec vmid => Sys2Proof.Machine.execCfgiVmsPidm ssec vmid s
  | .cfgiCit sid => Sys2Proof.Machine.execCfgiCit sid s
  | .cfgiVsttVsid sid vsid => Sys2Proof.Machine.execCfgiVsttVsid sid vsid s
  | .cfgiVstt sid => Sys2Proof.Machine.execCfgiVstt sid s
  | .tlbiNhAll vmid => Sys2Proof.Machine.execTlbiNhAll vmid s
  | .tlbiNhAsid vmid asid => Sys2Proof.Machine.execTlbiNhAsid vmid asid s
  | .tlbiNhVa vmid asid rg leaf addr => Sys2Proof.Machine.execTlbiNhVa vmid asid rg leaf addr s
  | .tlbiNhVaa vmid rg leaf addr => Sys2Proof.Machine.execTlbiNhVaa vmid rg leaf addr s
  | .tlbiEl3All => Sys2Proof.Machine.execTlbiEl3All s
  | .tlbiEl3Va rg leaf addr => Sys2Proof.Machine.execTlbiEl3Va rg leaf addr s
  | .tlbiEl2All => Sys2Proof.Machine.execTlbiEl2All s
  | .tlbiEl2Asid asid => Sys2Proof.Machine.execTlbiEl2Asid asid s
  | .tlbiEl2Va asid rg leaf addr => Sys2Proof.Machine.execTlbiEl2Va asid rg leaf addr s
  | .tlbiEl2Vaa rg leaf addr => Sys2Proof.Machine.execTlbiEl2Vaa rg leaf addr s
  | .tlbiS12Vmall vmid => Sys2Proof.Machine.execTlbiS12Vmall vmid s
  | .tlbiS2Vmallw vmid => Sys2Proof.Machine.execTlbiS2Vmallw vmid s
  | .tlbiS2Ipa vmid rg leaf addr => Sys2Proof.Machine.execTlbiS2Ipa vmid rg leaf addr s
  | .tlbiNsnhAll => Sys2Proof.Machine.execTlbiNsnhAll s
  | .atcInv g ssv ssid sid size addr => Sys2Proof.Machine.execAtcInv g ssv ssid sid size addr s
  | .priResp ssv ssid sid prgIndex resp => Sys2Proof.Machine.execPriResp ssv ssid sid prgIndex resp s
  | .resume ssec ac ab sid stag => Sys2Proof.Machine.execResume ssec ac ab sid stag s
  | .stallTerm ssec sid => Sys2Proof.Machine.execStallTerm ssec sid s
  | .sync cs msh msiAttr msiData msiAddr msiNs => Sys2Proof.Machine.execSync cs msh msiAttr msiData msiAddr msiNs s
  | .tlbiSEl2All => Sys2Proof.Machine.execTlbiSEl2All s
  | .tlbiSEl2Asid asid => Sys2Proof.Machine.execTlbiSEl2Asid asid s
  | .tlbiSEl2Va asid rg leaf addr => Sys2Proof.Machine.execTlbiSEl2Va asid rg leaf addr s
  | .tlbiSEl2Vaa rg leaf addr => Sys2Proof.Machine.execTlbiSEl2Vaa rg leaf addr s
  | .tlbiSS12Vmall vmid => Sys2Proof.Machine.execTlbiSS12Vmall vmid s
  | .tlbiSS2Vmallw vmid => Sys2Proof.Machine.execTlbiSS2Vmallw vmid s
  | .tlbiSS2Ipa vmid ns rg leaf addr => Sys2Proof.Machine.execTlbiSS2Ipa vmid ns rg leaf addr s
  | .tlbiSnhAll => Sys2Proof.Machine.execTlbiSnhAll s
  | .dptiAll => Sys2Proof.Machine.execDptiAll s
  | .dptiPa leaf size addr => Sys2Proof.Machine.execDptiPa leaf size addr s

end Sys2Proof.Machine
end

