-- ==== Sys2Proof/Machine/Broadcast.lean ====
section
/-! DEFINITION. Broadcast TLB maintenance from PEs (31_tlb_tagging.md R1265 to R1275) and the removal of cached granule
protection information (16_regs_root_realm.md R458). -/

namespace Sys2Proof.Machine

/-- The Security state of a regime; EL3 counts as Secure (31_tlb_tagging.md R1260; 12_regs_control.md R172). -/
def World.sec : World → Sec
  | .nsEl1 => .ns
  | .nsEl2 => .ns
  | .nsEl2E2h => .ns
  | .secure => .s
  | .sEl2 => .s
  | .sEl2E2h => .s
  | .el3 => .s
  | .realmEl1 => .rl
  | .realmEl2 => .rl
  | .realmEl2E2h => .rl

/-- The SMMU takes part in a broadcast for a regime: SMMU_IDR0.BTM, and SMMU_(*_)CR2.PTM zero (R1265); with RME there is
nothing to do for EL3 (R1268). A changed PTM acts at once, where R172 leaves open when it takes effect before the next completed
Update of SMMUEN to 1 (DESIGN CHOICE, log entry 47). -/
def btmFor (s : State) (w : World) : Bool :=
  s.ids.btm && !(s.iface w.sec).cr2.getLsbD 2 && !(w == .el3 && s.ids.rmeImpl)

/-- The VMID of a broadcast; one without is VMID 0 (R1265, R1269). -/
def btmVmid (s : State) (i : Sec) (v : Option (BitVec 16)) (t : Option (BitVec 16)) : Bool :=
  vmidMatches s i (v.getD 0) t

/-- A stage 1 entry of a regime for a VMID. -/
def btmS1 (s : State) (w : World) (v : Option (BitVec 16)) (e : TlbEntry) : Bool :=
  e.world == w && e.stage == .s1 && btmVmid s w.sec v e.vmid

/-- The entry's region meets a range, and its level is the last where only that is asked for (R1902 of 42_cmd_tlbi.md). -/
def btmAddr (addr : DWord) (len : Nat) (leaf : Bool) (e : TlbEntry) : Bool :=
  (e.isLeaf || !leaf) && regionMeets e.va e.sizeLog2 addr len

/-- Cached granule protection information is removed: all of it, or what meets a range (R1275; 16_regs_root_realm.md R458). -/
def dropGpt (s : State) (range : Option (DWord × Nat)) (leaf : Bool) : State :=
  { s with caches := { s.caches with gpt := s.caches.gpt.filter fun e =>
      match range with
      | none => false
      | some (a, len) => !(regionMeets e.base e.sizeLog2 a len && (e.lastLevel || !leaf)) } }

/-- The effect of a broadcast in which the SMMU takes part; scopes that match by ASID leave entries with ASET set (R1266),
and an entry without an ASID is not compared by it (R1267, R1271). -/
def broadcastEffect (s : State) : TlbScope → State
  | .vmall w v => dropTlb s (btmS1 s w v)
  | .asid w v a => dropTlb s fun e => btmS1 s w v e && !e.aset && (AsidSel.nonGlobal a).matches s.ids e.asid
  | .va w v a addr len leaf =>
    dropTlb s fun e =>
      btmS1 s w v e && btmAddr addr len leaf e &&
      match a with
      | none => true
      | some a => !e.aset && (e.asid == none || (AsidSel.orGlobal a).matches s.ids e.asid)
  | .vmallS12 w v => dropTlb s fun e => e.world == w && btmVmid s w.sec v e.vmid
  | .all w => dropRegime s w
  | .ipa w v ns addr len leaf =>
    dropTlb s fun e =>
      e.world == w && e.stage == .s2 && e.nsIpa == ns && btmVmid s w.sec v e.vmid && btmAddr addr len leaf e
  | .vmallW w v => clearDirty s fun e => e.world == w && btmVmid s w.sec v e.vmid
  | .pa range leaf => dropGpt s range leaf

/-- Whether the SMMU takes part in a broadcast (R1265, R1275). -/
def takesPart (s : State) : TlbScope → Bool
  | .vmall w _ => btmFor s w
  | .asid w _ _ => btmFor s w
  | .va w _ _ _ _ _ => btmFor s w
  | .vmallS12 w _ => btmFor s w
  | .all w => btmFor s w
  | .ipa w _ _ _ _ _ => btmFor s w
  | .vmallW w _ => btmFor s w
  | .pa _ _ => s.ids.rootImpl && s.ids.bgptm

/-- A broadcast TLB maintenance message (R1265). -/
def processBroadcast (s : State) (op : TlbScope) : State := if takesPart s op then broadcastEffect s op else s

end Sys2Proof.Machine
end

