-- ==== Sys2Proof/Machine/Hacdbs.lean ====
section
/-! DEFINITION. The hardware accelerator for cleaning dirty state (28_httu.md section 7). An entry's format is opaque (log entry
16). -/

namespace Sys2Proof.Machine

/-- Why an entry fails (28_httu.md R1351; 13_regs_tables_queues.md R281). -/
inductive HacdbsErr where
  | structf | ipaf | ipahacf | stef
  deriving DecidableEq, Repr

/-- ERR_REASON (R281). -/
def HacdbsErr.code : HacdbsErr → Nat
  | .structf => 1
  | .ipaf => 2
  | .ipahacf => 3
  | .stef => 4

/-- INDEX of HACDBS_CONS (R281). -/
def hacdbsIndex (r : Iface) : Nat := fieldNat r.hacdbsCons 32 24

/-- The HACDBS is enabled: until the SMMU moves ENACK the old state holds (R1350). -/
def hacdbsEnabled (r : Iface) : Bool := r.hacdbsCons.getLsbD 63

/-- The end is reached (R1349). -/
def hacdbsAtEnd (r : Iface) : Bool := decide (dbsEntries r.hacdbsBase ≤ hacdbsIndex r)

/-- An error is active (R1351). -/
def hacdbsErrActive (r : Iface) : Bool := r.hacdbsBase.getLsbD 62 != r.hacdbsCons.getLsbD 62

/-- There is an entry to process (R1349 to R1351). -/
def hacdbsReady (s : State) (i : Sec) : Bool :=
  let r := s.iface i
  s.ids.hacdbs i && !s.sfm && hacdbsEnabled r && !hacdbsErrActive r && !hacdbsAtEnd r

/-- CONS changed. -/
def State.setHacdbsCons (s : State) (i : Sec) (f : BitVec 64 → BitVec 64) : State :=
  s.setIface i fun r => { r with hacdbsCons := f r.hacdbsCons }

/-- An error: ERR toggles, ERR_REASON is set, the global error becomes active; INDEX stays (R1351). -/
def hacdbsError (s : State) (i : Sec) (e : HacdbsErr) : State :=
  raiseGerror (s.setHacdbsCons i fun c => putField (toggleBit c 62) 59 3 e.code) i .hacdbs

/-- An entry is done: INDEX advances; the end of the structure raises the interrupt (R1349). -/
def hacdbsDone (s : State) (i : Sec) : State :=
  let s := s.setHacdbsCons i fun c => putField c 32 24 (fieldNat c 32 24 + 1)
  if hacdbsAtEnd (s.iface i) then raiseIrq s i .hacdbs else s

/-- The leaf descriptor can be cleaned: it is writable-clean or writable-dirty (R1323, R1351): with direct permissions the
dirty bit modifier is set, or write permission is there, with indirect ones the base permission allows writing (log entry
16). -/
def writableState (p : S2PermCfg) (l : Leaf) : Bool :=
  if p.indirect then
    let (_, w, _, _, mro) := s2Decode (s2Base p l)
    w || mro
  else l.bit 51 || l.bit 7

/-- The descriptor of a stage 2 leaf made writable-clean (28_httu.md R1348): write permission goes, and with direct permissions
the dirty bit modifier is set, which a writable-dirty descriptor need not have (R1323; log entry 16). -/
def Leaf.cleaned (indirect : Bool) (l : Leaf) : Leaf :=
  let d := putBit l.desc 7 false
  let d := if indirect then d else putBit d 51 true
  { l with desc := d, raw := if l.d128 then Config.d128Update l.raw d else d.setWidth 128 }

/-- The cleaning of the descriptor that stage 2 of a stream has for an IPA, with S2HD taken as one (R1348): a writable-dirty one
becomes writable-clean. False: not such a descriptor, or not at the entry's level. -/
def hacdbsClean (c : Ctx) (x : Ste) (ipa : DWord) (level : Nat) (ns : Bool) : X Bool := do
  let s ← X.state
  let g := { s2WalkCfg s.ids c.sec x ns false with hd := true }
  let q : S2Req := ⟨x, .inp, ipa, ns, ⟨.must false true, false, false⟩, false, none⟩
  let m := s2Mem c q
  if 2 ^ g.inSize ≤ ipa.toNat then s2Fault c q id .translation
  else do
    X.miss c .walk
    let l ← walk g m ipa
    let p := s2PermCfg s c.sec x
    if l.level != level || !writableState p l then pure false
    else do
      if l.bit 7 then storeLeaf g m (l.cleaned p.indirect)
      pure true

/-- For whom the HACDBS looks structures and descriptors up: no client's translation, so that a granule protection fault has
REASON GERROR (16_regs_root_realm.md R456). -/
def hacdbsCtx (i : Sec) (sid : BitVec 32) (ipa : DWord) : Ctx :=
  { ev := ⟨i, sid, none, ipa, false, false, false, false, false, false⟩, own := true }

/-- The STE that CONS.STREAMID locates, with its VMS, and the PARTID and PMG; stage 2 must be configured (R1348, R1351). -/
def hacdbsSte (c : Ctx) : X (Option (Ste × Mpam)) := do
  let x ← fetchValidSte c
  let s ← X.state
  if vmsEnabled s.ids c.sec x then discard (fetchVms c x)
  let m ← steMpam c x
  pure (if x.s2On then some (x, m) else none)

/-- The translation that cleans an entry's descriptor, counted as events 1 to 5 (R1349, R1351). -/
def hacdbsTranslate (s : State) (c : Ctx) (ipa : DWord) (level : Nat) (ns : Bool) : Option HacdbsErr × State :=
  match X.run (hacdbsSte c) s with
  | (.error _, s) => (some .stef, noteRequest s c.src none [])
  | (.ok none, s) => (some .stef, noteRequest s c.src none [])
  | (.ok (some (x, m)), s) =>
    match X.run (hacdbsClean c x ipa level ns) s with
    | (.error _, s) => (some .ipaf, noteRequest s c.src (some m) [])
    | (.ok false, s) => (some .ipahacf, noteRequest s c.src (some m) [])
    | (.ok true, s) => (none, noteRequest s c.src (some m) [])

/-- One entry is processed (R1348 to R1351). -/
def runHacdbs (s : State) (i : Sec) : State :=
  let r := s.iface i
  let base := alignDown (r.hacdbsBase &&& maskAt 64 12 44) (dbsSize r.hacdbsBase + 12)
  let addr := s.truncOas (base + BitVec.ofNat 64 (hacdbsIndex r * 8))
  match smmuRead s (s.ownAcc i .hacdbs) i.pas addr 8 .hacdbs with
  | (.error _, s) => hacdbsError s i .structf
  | (.ok v, s) =>
    match Config.hacdbsEntry (BitVec.ofNat 64 v) with
    | none => hacdbsDone s i
    | some (ipa, level, ns) =>
      if !s.smmuEn i then hacdbsError s i .ipaf
      else
        match hacdbsTranslate s (hacdbsCtx i (r.hacdbsCons.extractLsb' 0 32) ipa) ipa level ns with
        | (some e, s) => hacdbsError s i e
        | (none, s) => hacdbsDone s i

end Sys2Proof.Machine
end

