-- ==== Sys2Proof/Machine/Atos.lean ====
section
/-! DEFINITION. Address translation operations by register: the four ATOS groups (45_atos.md). -/

namespace Sys2Proof.Machine

/-- The ATOS groups (R2121). -/
inductive AtosGroup where
  | gatos | sGatos | vatos | sVatos
  deriving DecidableEq, Repr

/-- The registers of a group. -/
def State.atosRegs (s : State) : AtosGroup → AtosRegs
  | .gatos => s.gatos
  | .sGatos => s.sGatos
  | .vatos => s.vatos
  | .sVatos => s.sVatos

/-- The registers of a group changed. -/
def State.setAtos (s : State) (g : AtosGroup) (f : AtosRegs → AtosRegs) : State :=
  match g with
  | .gatos => { s with gatos := f s.gatos }
  | .sGatos => { s with sGatos := f s.sGatos }
  | .vatos => { s with vatos := f s.vatos }
  | .sVatos => { s with sVatos := f s.sVatos }

/-- The programming interface of a group (R2123). -/
def AtosGroup.sec : AtosGroup → Sec
  | .gatos => .ns
  | .vatos => .ns
  | .sGatos => .s
  | .sVatos => .s

/-- A VATOS group (R2121). -/
def AtosGroup.isV : AtosGroup → Bool
  | .vatos => true
  | .sVatos => true
  | _ => false

/-- The group exists (R2121). -/
def AtosGroup.present (d : Ids) : AtosGroup → Bool
  | .gatos => d.atos
  | .sGatos => d.atos && d.secureImpl
  | .vatos => d.vatos
  | .sVatos => d.vatos && d.secureImpl && d.sel2

/-- RUN (R2100). -/
def AtosRegs.run (r : AtosRegs) : Bool := r.ctrl.getLsbD 0

/-- SMMU_(S_)VATOS_SEL.VMID (R2107, R2109). -/
def State.vatosVmid (s : State) (g : AtosGroup) : BitVec 16 :=
  let v : BitVec 16 := if g = .sVatos then s.sVatosSel.extractLsb' 0 16 else s.vatosSel.extractLsb' 0 16
  if s.ids.vmid16 then v else BitVec.ofNat 16 (v.toNat % 2 ^ 8)

/-! ## Requests -/

/-- A request (R2104, R2105, R2108). -/
structure AtosReq where
  sec : Sec
  sid : BitVec 32
  ssid : Option (BitVec 20)
  addr : DWord
  type : Nat
  priv : Bool
  read : Bool
  ind : Bool
  httui : Bool
  ns : Bool
  /-- of a VATOS group -/
  v : Bool
  deriving DecidableEq, Repr

/-- The request that a group's registers hold (R2104, R2105, R2108, R2111). -/
def atosRequest (d : Ids) (g : AtosGroup) (r : AtosRegs) : AtosReq :=
  let sec : Sec := match g with
    | .sVatos => .s
    | .sGatos => if r.sid.getLsbD 53 then .s else .ns
    | _ => .ns
  let read := r.addr.getLsbD 8
  { sec := sec
    sid := r.sid.extractLsb' 0 32
    ssid := if d.ssidSize != 0 && r.sid.getLsbD 52 then some (r.sid.extractLsb' 32 20) else none
    addr := r.addr &&& maskAt 64 12 52
    type := fieldNat r.addr 10 2
    priv := r.addr.getLsbD 9
    read := read
    ind := r.addr.getLsbD 7 && read
    httui := r.addr.getLsbD 6
    ns := g == .sGatos && d.sel2 && sec == .s && r.addr.getLsbD 4
    v := g.isV }

/-- INV_REQ (R2128). -/
def atosInvReq (d : Ids) (g : AtosGroup) (q : AtosReq) : Bool :=
  match q.type with
  | 1 => !d.s1p
  | 2 => g.isV || !d.s2p || q.ssid.isSome
  | 3 => g.isV || !d.s1p || !d.s2p
  | _ => true

/-! ## Results -/

/-- What a successful request found. -/
structure AtosOk where
  addr : DWord
  sizeLog2 : Nat
  attr : BitVec 8
  sh : Nat
  ns : Bool
  deriving DecidableEq, Repr

/-- Why a request fails (R2133). -/
inductive AtosFail where
  | invReq | invStage | internal
  | stop (why : Stop)
  deriving DecidableEq, Repr

/-- A nibble of a MAIR byte (22_cd_vms.md R1086). -/
def mairNibble (c : CachePol) (h : Hints) : Nat :=
  let rw := 2 * h.ra.toNat + h.wa.toNat
  match c with
  | .nc => 4
  | .wt => if h.tr && rw != 0 then rw else 8 + rw
  | .wb => if h.tr && rw != 0 then 4 + rw else 12 + rw

/-- Memory attributes as a MAIR byte (R2106). -/
def attrsMair (a : Attrs) : BitVec 8 :=
  match a.mt with
  | .normal i o => BitVec.ofNat 8 (16 * mairNibble o a.outer + mairNibble i a.inner)
  | .nGnRnE => 0x00
  | .nGnRE => 0x04
  | .nGRE => 0x08
  | .gre => 0x0C

/-- Shareability as PAR.SH: a Device type is Outer Shareable (R2106). -/
def attrsSh (a : Attrs) : Nat :=
  if a.mt.isDevice then 2
  else
    match a.sh with
    | .nsh => 0
    | .osh => 2
    | .ish => 3

/-- Attributes that stage 2 alone gives: RA and WA one, TR zero (R2106). -/
def atosS2Attrs (d : Ids) (i : Sec) (x : Ste) (l : Leaf) (input : Attrs) : Attrs :=
  stage2Attrs d.mtcomb d.mtePerm (x.s2fwb && d.fwb) input (l.desc.extractLsb' 2 4) (s2LeafSh d i x l)

/-- The effective VMID tag matches SMMU_(S_)VATOS_SEL (R2130). -/
def vatosScope (s : State) (g : AtosGroup) (i : Sec) (x : Ste) : Bool :=
  let w := streamWorld s i x
  4 < x.config && w.isEl1 && steVmid s.ids i w x == some (s.vatosVmid g)

/-- The STE's stages suit the request (R2128). -/
def atosStageOk (q : AtosReq) (x : Ste) : Bool :=
  match q.type with
  | 1 => x.s1On
  | 2 => x.s2On
  | _ => x.s1On && x.s2On

/-- Stage 1 of a request: the output address, its space and the assurance of the walk; its attributes and size where stage 1
translates (R2129). Where it is bypassed and stage 2 is not performed, ADDR.NS is ignored and the NS attribute, which the SIF
rule sees, is IMPLEMENTATION DEFINED (R2108): a free value (log entry 7). -/
def atosS1 (c : Ctx) (q : AtosReq) (x : Ste) (vms : Option (BitVec 512)) (acc : Acc) : X (Half × Option Attrs) := do
  let s ← X.state
  match ← selectCd c x with
  | none =>
    let ns ← if q.type = 1 then (·.getLsbD 0) <$> X.free else pure q.ns
    if 2 ^ s.ids.ias ≤ q.addr.toNat then skipFault .addrSize
    else if sifForbids s q.sec q.ind (q.sec == .ns || ns) then skipFault .permission
    else do
      let m ← clientMpam c x vms none
      pure (({ addr := q.addr, ns := ns, perm := Perm.all, attrs := Attrs.default, s1 := false, assured := false
               sizeLog2 := s.ids.ias, global := false, cd := none, pbha := 0, mpam := m } : Half), none)
  | some k =>
    let (cd, as) ← fetchCd c x k
    let w := streamWorld s q.sec x
    let m ← clientMpam c x vms (some cd)
    let o ← s1Translate c ⟨x, cd, w, as, acc, m⟩
    pure (({ addr := o.addr, ns := o.ns, perm := o.perm, attrs := s1LeafAttrs s.ids cd o, s1 := true
             assured := as && o.leaf.assured, sizeLog2 := o.leaf.sizeLog2, global := false, cd := some cd, pbha := 0, mpam := m } : Half),
      some (s1LeafAttrs s.ids cd o))

/-- ATTR and SH of PAR from attributes made consistent (R2106; 24_attributes.md R1430). -/
def parAttrs (a : Attrs) : BitVec 8 × Nat := (attrsMair a.consistent, attrsSh a.consistent)

/-- The lookup (R2120, R2126, R2128 to R2131; 65_security_states.md R2418; log entry 44 for REASON). A granule protection
fault of one of its fetches is recorded with REASON TRANSLATION (R2132; log entry 46). A lookup of TYPE 0b10 has no stage 1 and
so no Assured Translation property, also on a nested stream, of which 25_dpt_gpc.md R1633 does not speak (DESIGN CHOICE, log
entry 15). -/
def atosLookup (g : AtosGroup) (q : AtosReq) (c : Ctx) : X (AtosOk ⊕ AtosFail) := do
  let x ← fetchValidSte c
  let s ← X.state
  if g.isV && !vatosScope s g q.sec x then X.stop (.event .badSte)
  else do
    let vms ← if vmsEnabled s.ids q.sec x then some <$> fetchVms c x else pure none
    if x.config ≤ 4 || !atosStageOk q x then pure (.inr .invStage)
    else do
      let acc : Acc := ⟨.must q.read (!q.read), q.ind, q.priv⟩
      if q.type = 2 then do
        let forbidden : Stop :=
          .trf { kind := .permission, s2 := true, cls := .inp, ipa := q.addr, nsIpa := q.ns } true true false
        if 2 ^ s.ids.ias ≤ q.addr.toNat then skipFault .addrSize
        else if sifForbids s q.sec q.ind (q.sec == .s && q.ns) then X.stop forbidden
        else do
          let o ← s2Translate c ⟨x, .inp, q.addr, q.sec == .s && q.ns, acc, true, none⟩
          let a := parAttrs (atosS2Attrs s.ids q.sec x o.leaf Attrs.default)
          if sifAfterS2 s q.sec q.ind o.pas then X.stop forbidden
          else pure (.inl ⟨o.pa, o.leaf.sizeLog2, a.1, a.2, o.pas == .ns⟩)
      else do
        let (h, a1) ← atosS1 c q x vms acc
        if q.type = 1 then do
          let u ← X.free
          match a1 with
          | some a => pure (.inl ⟨h.addr, h.sizeLog2, (parAttrs a).1, (parAttrs a).2, h.ns⟩)
          | none => pure (.inl ⟨h.addr, s.ids.stu, u.extractLsb' 0 8, fieldNat u 8 2, h.ns⟩)
        else do
          let o ← s2Translate c ⟨x, .inp, h.addr, q.sec == .s && h.ns, acc, !h.assured, none⟩
          let a := parAttrs (atosS2Attrs s.ids q.sec x o.leaf h.attrs)
          if sifAfterS2 s q.sec q.ind o.pas then skipFault .permission
          else pure (.inl ⟨o.pa, min h.sizeLog2 o.leaf.sizeLog2, a.1, a.2, o.pas == .ns⟩)

/-! ## SMMU_*ATOS_PAR (R2106, R2108) -/

/-- The result of a success: the address with its size encoded (R2106). -/
def parOk (secure : Bool) (d : Ids) (r : AtosOk) : BitVec 64 :=
  let big := decide (12 < r.sizeLog2)
  let a := alignDown r.addr r.sizeLog2 ||| (if big then maskAt 64 (r.sizeLog2 - 1) 1 else 0)
  let v := putField (0 : BitVec 64) 12 44 (fieldNat a 12 44 % 2 ^ (d.oas - 12))
  let v := putBit (putBit v 11 big) 10 (r.ns && secure)
  putField (putField v 8 2 r.sh) 56 8 r.attr.toNat

/-- REASON of a stage 2 fault (R2106). -/
def EvClass.reason : EvClass → Nat
  | .cd => 1
  | .tt => 2
  | .inp => 3

/-- FAULTCODE, REASON, FADDR and NSIPA of a failure (R2133, R2135); a VATOS group has REASON 0b00 only (R2110, R2111). -/
def parFields (q : AtosReq) (w : AtosFail) : Nat × Nat × DWord × Bool :=
  let misc (code : Nat) : Nat × Nat × DWord × Bool := (code, if q.type = 2 && !q.v then 3 else 0, 0, false)
  match w with
  | .invReq => (0xFF, 0, 0, false)
  | .invStage => (0xFE, 0, 0, false)
  | .internal => misc 0xFD
  | .stop .silent => misc 0xFD
  | .stop (.event (.walkEabt s2 cls _ _ _)) =>
    match q.type with
    | 1 => (if s2 && cls == .cd then 0x09 else 0x0B, 0, 0, false)
    | 2 => (0x0B, 3, 0, false)
    | _ => (0x0B, if s2 then cls.reason else 0, 0, false)
  | .stop (.event e) => misc e.number
  | .stop (.trf f _ _ _) =>
    if !f.s2 then (f.kind.number, 0, 0, false)
    else
      match q.type with
      | 1 => (if f.cls == .cd then 0x09 else 0x0B, 0, 0, false)
      | 2 => (f.kind.number, 3, 0, false)
      | _ => (f.kind.number, f.cls.reason, f.ipa, f.nsIpa)

/-- The result of a failure; its IMPLEMENTATION DEFINED bits are zero (93_implementation_defined.md, the row of R2106; log entry
20). -/
def parFail (secure : Bool) (d : Ids) (q : AtosReq) (w : AtosFail) : BitVec 64 :=
  let r := parFields q w
  let v := putField (1 : BitVec 64) 12 44 (fieldNat r.2.2.1 12 44)
  let v := putField (putField v 4 8 r.1) 1 2 r.2.1
  putBit v 3 (r.2.2.2 && secure && d.sel2 && q.sec == .s)

/-- With HTTUI set the operation changes no state: descriptors, caches and HDBSS stay; a granule protection fault is still
reported (R2105, R2127, R2132). -/
def atosInhibit (before after : State) : State :=
  { after with
    mem := before.mem
    caches := before.caches
    ns := before.ns
    sec := before.sec
    rlm := before.rlm
    outputs := before.outputs ++ (after.outputs.drop before.outputs.length).filter fun o =>
      o == .wire .gpfFar || o == .wire .gptCfgFar }

/-- The result of a request and the state after it (R2120 to R2135). -/
def atosResult (s : State) (g : AtosGroup) (q : AtosReq) : BitVec 64 × State :=
  let secure := g.sec == .s
  if atosInvReq s.ids g q then (parFail secure s.ids q .invReq, s)
  else if !s.smmuEn g.sec || !s.smmuEn q.sec then (parFail secure s.ids q .internal, s)
  else
    let ev : EvTxn := ⟨q.sec, q.sid, q.ssid, q.addr, q.read, q.ind, q.priv, q.ind, q.priv, false⟩
    match X.run (atosLookup g q { ev := ev, inhibit := q.httui }) s with
    | (r, s') =>
      let t := if q.httui then atosInhibit s s' else s'
      match r with
      | .ok (.inl r) => (parOk secure s.ids r, t)
      | .ok (.inr w) => (parFail secure s.ids q w, t)
      | .error e => (parFail secure s.ids q (.stop e), t)

/-- A running operation completes: the result is in PAR and RUN is clear (R2100, R2122). -/
def runAtos (s : State) (g : AtosGroup) : State :=
  match atosResult s g (atosRequest s.ids g (s.atosRegs g)) with
  | (par, s) => s.setAtos g fun r => { r with par := par, ctrl := 0 }

/-- A running operation is ended by an Update of SMMUEN to zero (R2103, R2133). -/
def endAtos (s : State) (g : AtosGroup) : State :=
  if (s.atosRegs g).run then
    let q := atosRequest s.ids g (s.atosRegs g)
    s.setAtos g fun r => { r with par := parFail (g.sec == .s) s.ids q .internal, ctrl := 0 }
  else s

end Sys2Proof.Machine
end

