-- ==== Sys2Proof/Machine/RegMap.lean ====
section
/-! DEFINITION. The register map: the registers of a programming interface, their offsets, their presence, and who can reach
them (10_state.md sections 2 and 3). -/

namespace Sys2Proof.Machine

/-- The registers that a programming interface has in its Page 0 or Page 1, ATOS apart (R65, R66, R70). -/
inductive Reg where
  | idr (n : Nat) | iidr | aidr | cr0 | cr0ack | cr1 | cr2 | s2pii | sInit | statusr | gbpa | agbpa
  | irqCtrl | irqCtrlAck | gerror | gerrorn
  /-- SMMU_(*_)x_IRQ_CFGk -/
  | irqCfg (x : IrqSrc) (k : Nat)
  | strtabBase | strtabCfg | cmdqBase | cmdqProd | cmdqCons | eventqBase | eventqProd | eventqCons
  | priqBase | priqProd | priqCons | mpamidr | gmpam | gbpmpam | vatosSel | dptBase | dptCfg | dptFar | mecidr | gmecid
  | hdbssBase (n : Nat) | hdbssProd (n : Nat) | hdbssMpam | hdbssMecid
  | hacdbsBase | hacdbsCons | hacdbsMpam | hacdbsMecid | citabBase | citabCfg
  | idSpace (n : Nat) | cpBase (n : Nat) | cpCfg (n : Nat) | cpStatus (n : Nat)
  deriving DecidableEq, Repr

/-- What a register access reaches. -/
inductive RegTarget where
  | iface (i : Sec) (r : Reg)
  /-- BASE, PROD or CONS of the ECMDQ of global index n -/
  | ecmdq (i : Sec) (n k : Nat)
  /-- BASE, PROD or CONS of the DCMDQ of global index n -/
  | dcmdq (i : Sec) (n k : Nat)
  | dcErr (i : Sec) (n : Nat)
  | dcErrn (i : Sec) (n : Nat)
  /-- CTRL, SID, ADDR or PAR of an ATOS group -/
  | atos (g : AtosGroup) (k : Nat)
  deriving DecidableEq, Repr

/-- A register with the offset it is at and its bytes. -/
structure RegPlace (α : Type) where
  base : Nat
  width : Nat
  reg : α
  deriving DecidableEq, Repr

/-- The identification and control registers of Page 0, relative to the interface's part (R65, R70). -/
def regsControl : List (RegPlace Reg) :=
  [⟨0x00, 4, .idr 0⟩, ⟨0x04, 4, .idr 1⟩, ⟨0x08, 4, .idr 2⟩, ⟨0x0C, 4, .idr 3⟩, ⟨0x10, 4, .idr 4⟩, ⟨0x14, 4, .idr 5⟩,
   ⟨0x18, 4, .iidr⟩, ⟨0x1C, 4, .aidr⟩, ⟨0x20, 4, .cr0⟩, ⟨0x24, 4, .cr0ack⟩, ⟨0x28, 4, .cr1⟩, ⟨0x2C, 4, .cr2⟩,
   ⟨0x30, 8, .s2pii⟩, ⟨0x3C, 4, .sInit⟩, ⟨0x40, 4, .statusr⟩, ⟨0x44, 4, .gbpa⟩, ⟨0x48, 4, .agbpa⟩,
   ⟨0x50, 4, .irqCtrl⟩, ⟨0x54, 4, .irqCtrlAck⟩, ⟨0x60, 4, .gerror⟩, ⟨0x64, 4, .gerrorn⟩,
   ⟨0x68, 8, .irqCfg .gerror 0⟩, ⟨0x70, 4, .irqCfg .gerror 1⟩, ⟨0x74, 4, .irqCfg .gerror 2⟩,
   ⟨0x130, 4, .mpamidr⟩, ⟨0x138, 4, .gmpam⟩, ⟨0x13C, 4, .gbpmpam⟩, ⟨0x180, 4, .vatosSel⟩,
   ⟨0x190, 4, .idr 6⟩, ⟨0x194, 4, .idr 7⟩, ⟨0x198, 4, .idr 8⟩, ⟨0x220, 4, .mecidr⟩, ⟨0x228, 4, .gmecid⟩]

/-- The table, queue and structure registers of Page 0 (R65, R70). -/
def regsTables : List (RegPlace Reg) :=
  [⟨0x80, 8, .strtabBase⟩, ⟨0x88, 4, .strtabCfg⟩, ⟨0x90, 8, .cmdqBase⟩, ⟨0x98, 4, .cmdqProd⟩, ⟨0x9C, 4, .cmdqCons⟩,
   ⟨0xA0, 8, .eventqBase⟩, ⟨0xB0, 8, .irqCfg .eventq 0⟩, ⟨0xB8, 4, .irqCfg .eventq 1⟩, ⟨0xBC, 4, .irqCfg .eventq 2⟩,
   ⟨0xC0, 8, .priqBase⟩, ⟨0xD0, 8, .irqCfg .priq 0⟩, ⟨0xD8, 4, .irqCfg .priq 1⟩, ⟨0xDC, 4, .irqCfg .priq 2⟩,
   ⟨0x200, 8, .dptBase⟩, ⟨0x208, 4, .dptCfg⟩, ⟨0x210, 8, .dptFar⟩,
   ⟨0x240, 8, .hdbssBase 0⟩, ⟨0x248, 8, .hdbssProd 0⟩, ⟨0x250, 8, .hdbssBase 1⟩, ⟨0x258, 8, .hdbssProd 1⟩,
   ⟨0x260, 8, .irqCfg .hdbss 0⟩, ⟨0x268, 4, .irqCfg .hdbss 1⟩, ⟨0x26C, 4, .irqCfg .hdbss 2⟩,
   ⟨0x270, 4, .hdbssMpam⟩, ⟨0x274, 4, .hdbssMecid⟩, ⟨0x440, 8, .hacdbsBase⟩, ⟨0x448, 8, .hacdbsCons⟩,
   ⟨0x450, 8, .irqCfg .hacdbs 0⟩, ⟨0x458, 4, .irqCfg .hacdbs 1⟩, ⟨0x45C, 4, .irqCfg .hacdbs 2⟩,
   ⟨0x460, 4, .hacdbsMpam⟩, ⟨0x464, 4, .hacdbsMecid⟩, ⟨0x540, 8, .citabBase⟩, ⟨0x548, 4, .citabCfg⟩]

/-- The index registers: in Page 1, but the Secure ones in Page 0 (R65, R66; 14_regs_secure.md R369). -/
def regsIndex : List (RegPlace Reg) :=
  [⟨0xA8, 4, .eventqProd⟩, ⟨0xAC, 4, .eventqCons⟩, ⟨0xC8, 4, .priqProd⟩, ⟨0xCC, 4, .priqCons⟩]

/-- The register whose bytes hold an offset. -/
def findPlace (l : List (RegPlace Reg)) (off : Nat) : Option (RegPlace Reg) :=
  l.find? fun p => decide (p.base ≤ off ∧ off < p.base + p.width)

/-- A Command queue control page register (15_regs_ecmdq_dcmdq.md R402), at an offset from the first. -/
def cpPlace (off : Nat) : Option (RegPlace Reg) :=
  let b := off / 32 * 32
  if 256 * 32 ≤ off then none
  else if off < b + 8 then some ⟨b, 8, .cpBase (off / 32)⟩
  else if off < b + 12 then some ⟨b + 8, 4, .cpCfg (off / 32)⟩
  else if off < b + 16 then some ⟨b + 12, 4, .cpStatus (off / 32)⟩
  else none

/-- The presence of a register in an interface (12_regs_control.md to 16_regs_root_realm.md, the presence condition of each
register). The Command queue control pages from 2^CMDQ_CONTROL_PAGE_LOG2NUMP on, of which 15_regs_ecmdq_dcmdq.md R402 says
nothing, are absent: they read as zero (DESIGN CHOICE, log entry 17). -/
def Reg.present (d : Ids) (i : Sec) : Reg → Bool
  | .idr n => n != 5 || i == .ns
  | .iidr => i == .ns
  | .aidr => i != .s
  | .cr0 => true
  | .cr0ack => true
  | .cr1 => true
  | .cr2 => true
  | .s2pii => d.s2pi
  | .sInit => i == .s
  | .statusr => i == .ns
  | .gbpa => true
  | .agbpa => true
  | .irqCtrl => true
  | .irqCtrlAck => true
  | .gerror => true
  | .gerrorn => true
  | .irqCfg .gerror _ => d.msi i
  | .irqCfg .eventq _ => d.msi i
  | .irqCfg .priq k => d.priOf i && (d.msi i || (k == 2 && i != .rl))
  | .irqCfg .hdbss _ => d.hdbss i && d.msi i
  | .irqCfg .hacdbs _ => d.hacdbs i && d.msi i
  | .strtabBase => true
  | .strtabCfg => true
  | .cmdqBase => true
  | .cmdqProd => true
  | .cmdqCons => true
  | .eventqBase => true
  | .eventqProd => true
  | .eventqCons => true
  | .priqBase => d.priOf i
  | .priqProd => d.priOf i
  | .priqCons => d.priOf i
  | .mpamidr => d.mpamRegs i
  | .gmpam => d.mpamRegs i
  | .gbpmpam => d.mpamRegs i && i != .rl
  | .vatosSel => d.vatos && (i == .ns || (i == .s && d.sel2))
  | .dptBase => d.dpt i
  | .dptCfg => d.dpt i
  | .dptFar => d.dpt i
  | .mecidr => i == .ns || (i == .rl && d.mec)
  | .gmecid => i == .rl && d.mec
  | .hdbssBase _ => d.hdbss i
  | .hdbssProd _ => d.hdbss i
  | .hdbssMpam => d.hdbss i && d.mpam
  | .hdbssMecid => i == .rl && d.hdbss i && d.mec
  | .hacdbsBase => d.hacdbs i
  | .hacdbsCons => d.hacdbs i
  | .hacdbsMpam => d.hacdbs i && d.mpam
  | .hacdbsMecid => i == .rl && d.hacdbs i && d.mec
  | .citabBase => d.vsid i
  | .citabCfg => d.vsid i
  | .idSpace _ => i == .ns
  | .cpBase n => (d.ecmdq i || d.recmdq i) && decide (n < 2 ^ d.cmdqLog2NumP i)
  | .cpCfg n => (d.ecmdq i || d.recmdq i) && decide (n < 2 ^ d.cmdqLog2NumP i)
  | .cpStatus n => (d.ecmdq i || d.recmdq i) && decide (n < 2 ^ d.cmdqLog2NumP i)

/-! ## Pages (R55) -/

/-- The first byte of the optional page that a count of 64KB pages from 0x20000 names (R55). -/
def optPage (ba : Nat) : Nat := 0x20000 + ba * 0x10000

/-- The ATOS registers of a group from an offset relative to its CTRL (45_atos.md R2100, R2110). -/
def atosPlace (base : Nat) (g : AtosGroup) (off : Nat) : Option (RegPlace RegTarget) :=
  if off < base then none
  else
    match (off - base) / 4 with
    | 0 => some ⟨base, 4, .atos g 0⟩
    | 2 | 3 => some ⟨base + 8, 8, .atos g 1⟩
    | 4 | 5 => some ⟨base + 16, 8, .atos g 2⟩
    | 6 | 7 => some ⟨base + 24, 8, .atos g 3⟩
    | _ => none

/-- A register of an interface's part of a page, if the interface has it. -/
def ifacePlace (d : Ids) (i : Sec) (start : Nat) (p : Option (RegPlace Reg)) : Option (RegPlace RegTarget) :=
  match p with
  | some p => if d.present i && p.reg.present d i then some ⟨start + p.base, p.width, .iface i p.reg⟩ else none
  | none => none

/-- A Page 0 of an interface, from its first byte: ATOS, control pages, identification space, registers. -/
def pageZero (d : Ids) (i : Sec) (start off : Nat) : Option (RegPlace RegTarget) :=
  let o := off - start
  let g : AtosGroup := if i = .s then .sGatos else .gatos
  if 0x4000 ≤ o then ifacePlace d i (start + 0x4000) (cpPlace (o - 0x4000))
  else if 0xFD0 ≤ o ∧ o < 0x1000 then ifacePlace d i start (some ⟨o / 4 * 4, 4, .idSpace ((o - 0xFD0) / 4)⟩)
  else if 0x100 ≤ o ∧ o < 0x120 then
    (if i != .rl && g.present d then atosPlace (start + 0x100) g off else none)
  else ifacePlace d i start (findPlace (regsControl ++ regsTables ++ if i = .s then regsIndex.take 2 else []) o)

/-- BASE, PROD and CONS of 16 bytes, at an offset from the first. -/
def queuePlace (start o : Nat) (t : Nat → RegTarget) : Option (RegPlace RegTarget) :=
  if o < 8 then some ⟨start, 8, t 0⟩
  else if o < 12 then some ⟨start + 8, 4, t 1⟩
  else if o < 16 then some ⟨start + 12, 4, t 2⟩
  else none

/-- The registers of a queue on control pages of 2^q queues (R68). -/
def queuePage (start off q pages : Nat) (t : Nat → Nat → RegTarget) : Option (RegPlace RegTarget) :=
  let page := (off - start) / 0x10000
  let stride := 2 ^ (16 - q)
  let o := (off - start) % 0x10000
  let n := queueIndex q page (o / stride)
  if off < start || pages ≤ page then none
  else queuePlace (start + page * 0x10000 + o / stride * stride) (o % stride) (t n)

/-- The first 64KB page, counted from Page 0, of an interface's Command queue control pages (15_regs_ecmdq_dcmdq.md R402). -/
def Ids.cpPageOf (d : Ids) : Sec → Nat
  | .ns => d.cpPage
  | .s => d.sCpPage
  | .rl => d.rCpPage

/-- The Command queue pages of an interface: ECMDQ, DCMDQ and DCMDQ global (R55, R68). -/
def queuePages (d : Ids) (i : Sec) (off : Nat) : Option (RegPlace RegTarget) :=
  if !d.present i then none
  else
    let e := if d.ecmdq i || d.recmdq i then
        queuePage (d.cpPageOf i * 0x10000) off (d.cmdqLog2NumQ i) (2 ^ d.cmdqLog2NumP i) (.ecmdq i)
      else none
    let c := if d.dcmdq i then
        queuePage (optPage (fieldNat (d.idr8Of i) 14 18)) off (d.dcmdqLog2NumQ i) (2 ^ d.dcmdqLog2NumP i) (.dcmdq i)
      else none
    let g := optPage (fieldNat (d.idr8Of i) 0 10)
    let o := off - g
    let gl : Option (RegPlace RegTarget) :=
      if !d.dcmdq i || off < g || 0x10000 ≤ o then none
      else if o < 0x2000 then some ⟨g + o / 8 * 8, 8, .dcErr i (o / 8)⟩
      else if 0xE000 ≤ o then some ⟨g + o / 8 * 8, 8, .dcErrn i ((o - 0xE000) / 8)⟩
      else none
    e.or (c.or gl)

/-- The register at an offset of the register file, none for RES0 locations (R55, R62, R65 to R68, R70). An undefined location
of Page 1, which R62 leaves RES0 or an alias of the same offset of Page 0, is RES0 (DESIGN CHOICE, log entry 17). -/
def regAt (d : Ids) (off : Nat) : Option (RegPlace RegTarget) :=
  let realm := optPage (fieldNat d.rootIdr0 22 10)
  let vatos := optPage (fieldNat d.idr2 0 10)
  let sVatos := optPage (fieldNat d.sIdr2 0 10)
  if off < 0x8000 then pageZero d .ns 0 off
  else if off < 0x10000 then pageZero d .s 0x8000 off
  else if off < 0x20000 then ifacePlace d .ns 0x10000 (findPlace regsIndex (off - 0x10000))
  else if d.realmImpl ∧ realm ≤ off ∧ off < realm + 0x10000 then pageZero d .rl realm off
  else if d.realmImpl ∧ realm + 0x10000 ≤ off ∧ off < realm + 0x20000 then
    ifacePlace d .rl (realm + 0x10000) (findPlace regsIndex (off - realm - 0x10000))
  else if AtosGroup.vatos.present d ∧ vatos ≤ off ∧ off < vatos + 0x10000 then atosPlace (vatos + 0xA00) .vatos off
  else if AtosGroup.sVatos.present d ∧ sVatos ≤ off ∧ off < sVatos + 0x10000 then atosPlace (sVatos + 0xA00) .sVatos off
  else (queuePages d .ns off).or ((queuePages d .s off).or (queuePages d .rl off))

/-- The interface of what an access reaches. -/
def RegTarget.sec : RegTarget → Sec
  | .iface i _ => i
  | .ecmdq i _ _ => i
  | .dcmdq i _ _ => i
  | .dcErr i _ => i
  | .dcErrn i _ => i
  | .atos g _ => g.sec

/-- The registers of an interface are reachable from a PA space (R63; 14_regs_secure.md R350; 16_regs_root_realm.md R465). -/
def reaches (i : Sec) (pas : Pas) : Bool :=
  match i, pas with
  | _, .root => true
  | .ns, .ns => true
  | .ns, .s => true
  | .ns, .rl => true
  | .s, .s => true
  | .rl, .rl => true
  | _, _ => false

/-- An access of a supported size, aligned, to a register of `width` bytes: 32 bits, or 64 bits to a 64-bit register; every
other access is RAZ/WI (R61; log entry 17). -/
def accessLegal (off size width : Nat) : Bool :=
  (size == 4 && off % 4 == 0) || (size == 8 && width == 8 && off % 8 == 0)

/-- What an access reads of a register's value. -/
def readPart (v : DWord) (p : Nat) (off size : Nat) : DWord :=
  if size = 8 then v else if off = p then v &&& maskAt 64 0 32 else v >>> 32

/-- The register's value that a write asks for: a half leaves the other as it is (R60). -/
def writePart (old v : DWord) (p : Nat) (off size : Nat) : DWord :=
  if size = 8 then v
  else if off = p then mergeBits old v (maskAt 64 0 32)
  else mergeBits old (v <<< 32) (maskAt 64 32 32)

end Sys2Proof.Machine
end

