-- ==== Sys2Proof/Machine/Regs.lean ====
section
/-! DEFINITION. What the registers of a programming interface read as, which of their bits software may write now, and what a
write does (12_regs_control.md to 16_regs_root_realm.md). A write that a guard forbids is IGNORED (log entry 17), but for the
guards of the Stream table, the queues and the MSI configuration before SMMUv3.2 (13_regs_tables_queues.md R251, R256;
12_regs_control.md R192). -/

namespace Sys2Proof.Machine

/-! ## Guards and masks -/

/-- A field of SMMU_(*_)CR0 and its acknowledge are zero (10_state.md R64). -/
def crZero (r : Iface) (b : Nat) : Bool := !r.cr0.getLsbD b && !r.cr0ack.getLsbD b

/-- A mask, or nothing. -/
def maskIf (b : Bool) (lo n : Nat) : DWord := if b then maskAt 64 lo n else 0

/-- An address field from bit `lo`: bits at and above the OAS are RES0 (13_regs_tables_queues.md R250). -/
def addrMask (d : Ids) (lo : Nat) : DWord := maskAt 64 lo (min d.oas 56 - lo)

/-- The HDBSS tables of an interface are disabled (R278). -/
def hdbssOff (r : Iface) : Bool :=
  !r.hdbssBase0.getLsbD 63 && !r.hdbssProd0.getLsbD 63 && !r.hdbssBase1.getLsbD 63 && !r.hdbssProd1.getLsbD 63

/-- The HACDBS of an interface is disabled (R281). -/
def hacdbsOff (r : Iface) : Bool := !r.hacdbsBase.getLsbD 63 && !r.hacdbsCons.getLsbD 63

/-- No ECMDQ of the interface is enabled or in transition (12_regs_control.md R165). -/
def ecmdqsOff (s : State) (i : Sec) : Bool :=
  !(s.ids.ecmdq i || s.ids.recmdq i) || (s.iface i).ecmdqs.all (·.disabled)

/-- The fields of SMMU_(*_)CR0 (12_regs_control.md R150; 14_regs_secure.md R356; 16_regs_root_realm.md R473). -/
def crMask (d : Ids) : Sec → DWord
  | .s =>
    maskIf (fieldNat d.sIdr0 24 2 == 0) 9 1 ||| maskIf d.vmwImpl 6 3 ||| maskAt 64 5 1 ||| maskAt 64 2 2 ||| maskAt 64 0 1
  | i =>
    maskIf (d.vsid i) 11 1 ||| maskIf (d.dpt i) 10 1 ||| maskIf d.vmwImpl 6 3 ||| maskIf (i == .ns && d.atsOf i) 4 1 |||
      maskIf (d.priOf i) 1 1 ||| maskAt 64 2 2 ||| maskAt 64 0 1

/-- The bits of fields whose Update is not complete: a different value is ignored (12_regs_control.md R153). -/
def inTransition (cr ack : BitVec 32) : BitVec 32 :=
  let x := cr ^^^ ack
  if fieldNat x 6 3 = 0 then x else x ||| maskAt 32 6 3

/-- The width of a PMG or PARTID whose largest value is `n` (12_regs_control.md R195). -/
def valueBits (n : Nat) : Nat := if n = 0 then 0 else Nat.log2 n + 1

/-- MPAM_NS, PMG and PARTID of an interface's MPAM registers (12_regs_control.md R196; 14_regs_secure.md R371). Where MPAM_NS
may choose between two maxima, the width is that of the larger (DESIGN CHOICE, log entry 17). -/
def mpamMask (d : Ids) (i : Sec) : DWord :=
  let m := d.mpamidrOf i
  let w (lo n : Nat) : Nat :=
    max (valueBits (fieldNat m lo n)) (if d.hasMpamNs i then valueBits (fieldNat d.mpamidr lo n) else 0)
  maskIf (d.hasMpamNs i) 24 1 ||| maskAt 64 16 (w 16 8) ||| maskAt 64 0 (w 0 16)

/-- MECID of an interface's MECID registers (16_regs_root_realm.md R487). -/
def mecidMask (d : Ids) : DWord := maskAt 64 0 (d.mecidSize + 1)

/-- The attribute fields of SMMU_(*_)GBPA (12_regs_control.md R180; 14_regs_secure.md R363). Fields fixed at "use incoming"
because SMMU_IDR1 has no override read as zero, where the spec leaves zero or the last value written (DESIGN CHOICE, log entry
17). -/
def gbpaMask (d : Ids) (i : Sec) : DWord :=
  maskAt 64 20 1 ||| maskIf d.attrPermsOvr 16 4 ||| maskIf (d.attrPermsOvr && i == .s) 14 2 |||
    maskIf d.attrTypesOvr 8 6 ||| maskIf d.attrTypesOvr 0 5

/-- The flags of SMMU_(*_)GERROR that the interface has (12_regs_control.md R190). -/
def gerrMask (d : Ids) (i : Sec) : DWord :=
  [GErr.cmdq, .eventqAbt, .priqAbt, .msiCmdq, .msiEventq, .msiPriq, .msiGerror, .sfm, .cmdqp, .dpt, .hdbss, .msiHdbss,
    .hacdbs, .msiHacdbs, .dcmdqp].foldl (fun m e => m ||| maskIf (gerrPresent d i e) (gerrBit e) 1) 0

/-- The enables of SMMU_(*_)IRQ_CTRL (12_regs_control.md R185; 14_regs_secure.md R364; 16_regs_root_realm.md R478). -/
def irqMask (d : Ids) (i : Sec) : DWord :=
  maskIf (d.hacdbs i) 4 1 ||| maskIf (d.hdbss i) 3 1 ||| maskAt 64 2 1 ||| maskIf (d.priOf i) 1 1 ||| maskAt 64 0 1

/-- The low bits of an HDBSS or HACDBS base that alignment to its size makes RES0 (13_regs_tables_queues.md R275, R280). -/
def dbsMask (d : Ids) (base : BitVec 64) : DWord :=
  maskAt 64 61 1 ||| (addrMask d 12 &&& ~~~(maskAt 64 12 (dbsSize base))) ||| maskAt 64 0 4

/-! ## Values -/

/-- A RD or WR field with the flags above it: bits above the wrap flag read zero (13_regs_tables_queues.md R258, R283). -/
def shownIndex (r : BitVec 32) (n : Nat) : DWord := (putField r 0 20 (indexOf r n)).setWidth 64

/-- LOG2SIZE in use of the queues (13_regs_tables_queues.md R255, R260, R262). -/
def eventqLog2 (s : State) (i : Sec) : Nat := queueLog2 (s.iface i).eventq.base s.ids.eventqs
/-- See `eventqLog2`. -/
def priqLog2 (s : State) (i : Sec) : Nat := queueLog2 (s.iface i).priq.base s.ids.priqs

/-- Part k of an MSI configuration. -/
def IrqCfg.part (c : IrqCfg) : Nat → DWord
  | 0 => c.cfg0
  | 1 => c.cfg1.setWidth 64
  | _ => c.cfg2.setWidth 64

/-- Part k of an MSI configuration replaced. -/
def IrqCfg.setPart (c : IrqCfg) (k : Nat) (v : DWord) : IrqCfg :=
  match k with
  | 0 => { c with cfg0 := v }
  | 1 => { c with cfg1 := v.setWidth 32 }
  | _ => { c with cfg2 := v.setWidth 32 }

/-- SMMU_IDR0, whose STALL_MODEL follows NSSTALLD (14_regs_secure.md R356). -/
def idr0Now (s : State) : BitVec 32 := putField s.ids.idr0 24 2 (s.stallModel .ns)

/-- An identification register (11_regs_id.md; 14_regs_secure.md section 1; 16_regs_root_realm.md section 2). -/
def idrValue (s : State) (i : Sec) (n : Nat) : BitVec 32 :=
  let d := s.ids
  match n, i with
  | 0, .ns => idr0Now s
  | 0, .s => d.sIdr0
  | 0, .rl => d.rIdr0
  | 1, .ns => d.idr1
  | 1, .s => d.sIdr1
  | 1, .rl => d.rIdr1
  | 2, i => d.idr2Of i
  | 3, i => d.idr3Of i
  | 4, .ns => d.idr4
  | 4, .s => d.sIdr4
  | 4, .rl => d.rIdr4
  | 5, .ns => d.idr5
  | 6, i => d.idr6Of i
  | 7, i => d.idr7Of i
  | 8, i => d.idr8Of i
  | _, _ => 0

/-- The registers that SMMUEN, a queue's enable or an interrupt's enable guards (13_regs_tables_queues.md R251, R256;
12_regs_control.md R192). -/
def guardOf : Reg → Option GuardedReg
  | .strtabBase => some .strtabBase
  | .strtabCfg => some .strtabCfg
  | .priqBase => some .priqBase
  | .priqProd => some .priqProd
  | .eventqBase => some .eventqBase
  | .eventqProd => some .eventqProd
  | .cmdqBase => some .cmdqBase
  | .cmdqCons => some .cmdqCons
  | .irqCfg x k => some (.irqCfg x k)
  | _ => none

/-- The guard of a register allows a write: its enable, a bit of SMMU_(*_)CR0 or of SMMU_(*_)IRQ_CTRL, and the acknowledge of
that are zero (13_regs_tables_queues.md R251, R256; 12_regs_control.md R192). -/
def GuardedReg.off (r : Iface) : GuardedReg → Bool
  | .strtabBase | .strtabCfg => crZero r 0
  | .priqBase | .priqProd => crZero r 1
  | .eventqBase | .eventqProd => crZero r 2
  | .cmdqBase | .cmdqCons => crZero r 3
  | .irqCfg x _ => !r.irqCtrl.getLsbD x.bit && !r.irqCtrlAck.getLsbD x.bit

/-- The bits of such a register that software may write while the enable is zero (13_regs_tables_queues.md R250, R252, R255,
R258, R260, R261, R263, R283, R285; 12_regs_control.md R191; none where the tables or the queues are preset). CMDQ_CONS.ERR
takes a value written then, where R258 and 14_regs_secure.md R368 leave it taken or ignored (DESIGN CHOICE, log entry 17). -/
def guardedBits (d : Ids) (i : Sec) (reg : Reg) : DWord :=
  let base : DWord := if d.queuesPreset then 0 else maskAt 64 62 1 ||| addrMask d 5 ||| maskAt 64 0 5
  match reg with
  | .strtabBase => if d.tablesPreset then 0 else maskAt 64 62 1 ||| addrMask d 6
  | .strtabCfg => if d.tablesPreset then 0 else maskIf d.stLevel2 16 2 ||| maskIf d.stLevel2 6 5 ||| maskAt 64 0 6
  | .cmdqBase | .eventqBase | .priqBase => base
  | .cmdqCons => maskAt 64 24 7 ||| maskAt 64 0 20
  | .eventqProd | .priqProd => maskAt 64 31 1 ||| maskAt 64 0 20
  | .irqCfg _ 0 => addrMask d 2 ||| maskIf (i == .rl) 63 1
  | .irqCfg _ 1 => maskAt 64 0 32
  | .irqCfg x _ => maskIf (d.msi i) 0 6 ||| maskIf (x == .priq) 31 1
  | _ => 0

/-- What a register reads as, its UNKNOWN bits aside. Index bits above LOG2SIZE that software wrote are stored and read back,
which R257, R284 and R286 allow (DESIGN CHOICE, log entry 17); the address bits that alignment leaves unused are zero (R270). -/
def regValue (s : State) (i : Sec) (reg : Reg) : DWord :=
  let r := s.iface i
  let d := s.ids
  match reg with
  | .idr n => (idrValue s i n).setWidth 64
  | .iidr => d.iidr.setWidth 64
  | .aidr => (if i = .rl then d.rAidr else d.aidr).setWidth 64
  | .cr0 => r.cr0.setWidth 64
  | .cr0ack => r.cr0ack.setWidth 64
  | .cr1 => r.cr1.setWidth 64
  | .cr2 => r.cr2.setWidth 64
  | .s2pii => r.s2pii
  | .sInit => s.sInit.setWidth 64
  | .statusr => s.statusr.setWidth 64 &&& maskIf d.dormHint 0 1
  | .gbpa => if i = .rl then maskAt 64 20 1 else r.gbpa.setWidth 64
  | .agbpa => r.agbpa.setWidth 64
  | .irqCtrl => r.irqCtrl.setWidth 64
  | .irqCtrlAck => r.irqCtrlAck.setWidth 64
  | .gerror => r.gerror.setWidth 64
  | .gerrorn => r.gerrorn.setWidth 64
  | .irqCfg x k => (x.cfg r).part k
  | .strtabBase => r.strtabBase
  | .strtabCfg => r.strtabCfg.setWidth 64
  | .cmdqBase => r.cmdq.base
  | .cmdqProd => r.cmdq.prod.setWidth 64
  | .cmdqCons => shownIndex r.cmdq.cons (cmdqLog2 s r.cmdq.base)
  | .eventqBase => r.eventq.base
  | .eventqProd => shownIndex r.eventq.prod (eventqLog2 s i)
  | .eventqCons => r.eventq.cons.setWidth 64
  | .priqBase => r.priq.base
  | .priqProd => shownIndex r.priq.prod (priqLog2 s i)
  | .priqCons => r.priq.cons.setWidth 64
  | .mpamidr => (d.mpamidrOf i).setWidth 64
  | .gmpam => r.gmpam.setWidth 64
  | .gbpmpam => r.gbpmpam.setWidth 64
  | .vatosSel => (if i = .s then s.sVatosSel else s.vatosSel).setWidth 64
  | .dptBase => r.dptBase &&& ~~~(maskAt 64 12 (dptBaseAlign s r.dptCfg - 12))
  | .dptCfg => r.dptCfg.setWidth 64
  | .dptFar => r.dptFar
  | .mecidr => (if i = .rl then d.rMecidr else d.mecidr).setWidth 64
  | .gmecid => r.gmecid.setWidth 64
  | .hdbssBase n => (r.hdbss n).1
  | .hdbssProd n => (r.hdbss n).2
  | .hdbssMpam => r.hdbssMpam.setWidth 64
  | .hdbssMecid => r.hdbssMecid.setWidth 64
  | .hacdbsBase => r.hacdbsBase
  | .hacdbsCons => r.hacdbsCons
  | .hacdbsMpam => r.hacdbsMpam.setWidth 64
  | .hacdbsMecid => r.hacdbsMecid.setWidth 64
  | .citabBase => r.citabBase
  | .citabCfg => r.citabCfg.setWidth 64
  | .idSpace n => (d.idRegs.getD n 0).setWidth 64
  | .cpBase n => BitVec.ofNat 64 ((d.cpPageOf i + n) * 0x10000) ||| 3
  | .cpCfg _ => 1
  | .cpStatus _ => 1

/-- The bits of a WR field of a Command queue that the implementation has not: they read UNKNOWN (R257). -/
def wrUnknown (d : Ids) : DWord := maskAt 64 (d.cmdqs + 1) (19 - d.cmdqs)

/-- A guarded register was written while its enable was set, before SMMUv3.2, and not validly since: it reads UNKNOWN
(13_regs_tables_queues.md R251, R256; 12_regs_control.md R192; log entry 7). -/
def guardBroken (r : Iface) (reg : Reg) : Bool :=
  match guardOf reg with
  | some g => r.unknownReads.contains g
  | none => false

/-- The bits of a register that read UNKNOWN now: those a write against its guard spoiled, error codes while no error is active,
index bits that the implementation has not (13_regs_tables_queues.md R251, R256 to R258, R276, R281, R284), and GBPA.MemAttr
without type overrides (12_regs_control.md R180, R192; 14_regs_secure.md R363). -/
def regUnknown (s : State) (i : Sec) (reg : Reg) : DWord :=
  let r := s.iface i
  (if guardBroken r reg then guardedBits s.ids i reg else 0) |||
  match reg with
  | .cmdqProd => wrUnknown s.ids
  | .gbpa => maskIf (i != .rl && !s.ids.attrTypesOvr) 0 4
  | .cmdqCons => maskIf (!gerrActive r .cmdq) 24 7
  | .eventqCons => maskAt 64 (s.ids.eventqs + 1) (19 - s.ids.eventqs)
  | .priqCons => maskAt 64 (s.ids.priqs + 1) (19 - s.ids.priqs)
  | .hdbssProd n => maskIf (!hdbssErrActive (r.hdbss n)) 60 2
  | .hacdbsCons => maskIf (r.hacdbsBase.getLsbD 62 == r.hacdbsCons.getLsbD 62) 59 3
  | _ => 0

/-- The bits of a register that a write may change now (the access text of each register). -/
def regWritable (s : State) (i : Sec) (reg : Reg) : DWord :=
  let r := s.iface i
  let d := s.ids
  let index : DWord := maskAt 64 31 1 ||| maskAt 64 0 20
  let when_ (b : Bool) (m : DWord) : DWord := if b then m else 0
  match reg with
  | .cr0 => crMask d i &&& ~~~((inTransition r.cr0 r.cr0ack).setWidth 64)
  | .cr1 =>
    maskIf (crZero r 0 && !d.tablesPreset) 6 6 |||
      maskIf (crZero r 1 && crZero r 2 && crZero r 3 && hdbssOff r && hacdbsOff r && ecmdqsOff s i && !d.queuesPreset) 0 6
  | .cr2 =>
    when_ (crZero r 0)
      (maskIf (i != .s && d.atsRecErr && d.atsOf i) 3 1 ||| maskIf d.btm 2 1 ||| maskAt 64 1 1 |||
        maskIf (match i with
          | .ns => d.hyp
          | .s => d.sel2
          | .rl => true) 0 1)
  | .s2pii => maskAt 64 0 64
  | .sInit => maskAt 64 0 1
  | .gbpa => when_ (i != .rl && !r.gbpa.getLsbD 31) (maskAt 64 31 1 ||| gbpaMask d i)
  | .agbpa => maskIf s.impl.agbpaImpl 0 32
  | .irqCtrl => irqMask d i &&& ~~~((r.irqCtrl ^^^ r.irqCtrlAck).setWidth 64)
  | .gerrorn => gerrMask d i
  | .irqCfg _ _ | .strtabBase | .strtabCfg | .cmdqBase | .cmdqCons | .eventqBase | .eventqProd | .priqBase | .priqProd =>
    when_ ((guardOf reg).all (·.off r)) (guardedBits d i reg)
  | .cmdqProd => maskAt 64 0 20
  | .eventqCons => index
  | .priqCons => index
  | .gmpam => when_ (!r.gmpam.getLsbD 31) (maskAt 64 31 1 ||| mpamMask d i)
  | .gbpmpam => when_ (!r.gbpmpam.getLsbD 31) (maskAt 64 31 1 ||| mpamMask d i)
  | .vatosSel => when_ (!(s.atosRegs (if i = .s then .sVatos else .vatos)).run) (maskAt 64 0 (if d.vmid16 then 16 else 8))
  | .dptBase => when_ (crZero r 10) (maskAt 64 62 1 ||| addrMask d 12)
  | .dptCfg => when_ (crZero r 10) (maskAt 64 20 4 ||| maskAt 64 14 2 ||| maskAt 64 0 3)
  | .gmecid => when_ (crZero r 0 && crZero r 2 && crZero r 3 && ecmdqsOff s i) (mecidMask d)
  | .hdbssBase n =>
    let b := r.hdbss n
    when_ (b.1.getLsbD 63 == b.2.getLsbD 63) (maskAt 64 62 2 ||| when_ (!b.1.getLsbD 63) (maskAt 64 61 1 ||| addrMask d 12 ||| maskAt 64 0 4))
  | .hdbssProd n =>
    let b := r.hdbss n
    when_ (!b.1.getLsbD 63 && !b.2.getLsbD 63) (maskAt 64 60 3 ||| maskAt 64 0 24)
  | .hdbssMpam => when_ (hdbssOff r) (mpamMask d i)
  | .hdbssMecid => when_ (hdbssOff r) (mecidMask d)
  | .hacdbsBase =>
    when_ (r.hacdbsBase.getLsbD 63 == r.hacdbsCons.getLsbD 63)
      (maskAt 64 62 2 ||| when_ (!r.hacdbsBase.getLsbD 63) (maskAt 64 61 1 ||| addrMask d 12 ||| maskAt 64 0 4))
  | .hacdbsCons => when_ (hacdbsOff r) (maskAt 64 59 4 ||| maskAt 64 32 24 ||| maskAt 64 0 d.sidSizeNs)
  | .hacdbsMpam => when_ (hacdbsOff r) (mpamMask d i)
  | .hacdbsMecid => when_ (hacdbsOff r) (mecidMask d)
  | .citabBase => when_ (crZero r 11) (maskAt 64 62 1 ||| addrMask d 4)
  | .citabCfg => when_ (crZero r 11) (maskIf d.stLevel2 16 2 ||| maskIf d.stLevel2 6 5 ||| maskAt 64 0 6)
  | _ => 0

/-! ## Stores -/

/-- An MSI configuration register replaced. -/
def Iface.setIrqCfg (r : Iface) (x : IrqSrc) (f : IrqCfg → IrqCfg) : Iface :=
  match x with
  | .gerror => { r with gerrorIrq := f r.gerrorIrq }
  | .priq => { r with priqIrq := f r.priqIrq }
  | .eventq => { r with eventqIrq := f r.eventqIrq }
  | .hdbss => { r with hdbssIrq := f r.hdbssIrq }
  | .hacdbs => { r with hacdbsIrq := f r.hacdbsIrq }

/-- Index bits above the old wrap flag become UNKNOWN when LOG2SIZE grows (13_regs_tables_queues.md R257). -/
def grownIndex (r : BitVec 32) (old new : Nat) (u : DWord) : BitVec 32 :=
  if old < new then mergeBits r (u.setWidth 32) (maskAt 32 (old + 1) (19 - old)) else r

/-- A queue's BASE register replaced, with what that does to its indexes (R257). -/
def QueueRegs.setBase (q : QueueRegs) (v : BitVec 64) (cap : Nat) (u : DWord) : QueueRegs :=
  let old := queueLog2 q.base cap
  let new := queueLog2 v cap
  { base := v, prod := grownIndex q.prod old new u, cons := grownIndex q.cons old new (u >>> 32) }

/-- The stored value of a register of an interface replaced; `u` is a free value. -/
def Iface.setReg (r : Iface) (d : Ids) (u : DWord) (reg : Reg) (v : DWord) : Iface :=
  let w := v.setWidth 32
  match reg with
  | .cr0 => { r with cr0 := w }
  | .cr1 => { r with cr1 := w }
  | .cr2 => { r with cr2 := w, e2hUnknown := r.e2hUnknown || (w.getLsbD 0 != r.cr2.getLsbD 0) }
  | .s2pii => { r with s2pii := v }
  | .gbpa => { r with gbpa := w }
  | .agbpa => { r with agbpa := w }
  | .irqCtrl => { r with irqCtrl := w }
  | .gerrorn => { r with gerrorn := w }
  | .irqCfg x k => r.setIrqCfg x fun c => c.setPart k v
  | .strtabBase => { r with strtabBase := v }
  | .strtabCfg => { r with strtabCfg := w }
  | .cmdqBase => { r with cmdq := r.cmdq.setBase v d.cmdqs u }
  | .cmdqProd => { r with cmdq := { r.cmdq with prod := w } }
  | .cmdqCons => { r with cmdq := { r.cmdq with cons := w } }
  | .eventqBase => { r with eventq := r.eventq.setBase v d.eventqs u }
  | .eventqProd => { r with eventq := { r.eventq with prod := w } }
  | .eventqCons => { r with eventq := { r.eventq with cons := w } }
  | .priqBase => { r with priq := r.priq.setBase v d.priqs u }
  | .priqProd => { r with priq := { r.priq with prod := w } }
  | .priqCons => { r with priq := { r.priq with cons := w } }
  | .gmpam => { r with gmpam := w }
  | .gbpmpam => { r with gbpmpam := w }
  | .dptBase => { r with dptBase := v }
  | .dptCfg => { r with dptCfg := w }
  | .dptFar => { r with dptFar := v }
  | .gmecid => { r with gmecid := w }
  | .hdbssBase n => if n = 0 then { r with hdbssBase0 := v } else { r with hdbssBase1 := v }
  | .hdbssProd n => if n = 0 then { r with hdbssProd0 := v } else { r with hdbssProd1 := v }
  | .hdbssMpam => { r with hdbssMpam := w }
  | .hdbssMecid => { r with hdbssMecid := w }
  | .hacdbsBase => { r with hacdbsBase := v }
  | .hacdbsCons => { r with hacdbsCons := v }
  | .hacdbsMpam => { r with hacdbsMpam := w }
  | .hacdbsMecid => { r with hacdbsMecid := w }
  | .citabBase => { r with citabBase := v }
  | .citabCfg => { r with citabCfg := w }
  | _ => r

/-- The value that a write stores from the bits that it may change: the address of an HDBSS or HACDBS keeps the bits below its
size zero (R275, R280). -/
def regStored (d : Ids) (reg : Reg) (v : DWord) : DWord :=
  match reg with
  | .hdbssBase _ => v &&& (maskAt 64 62 2 ||| dbsMask d v)
  | .hacdbsBase => v &&& (maskAt 64 62 2 ||| dbsMask d v)
  | _ => v

/-- A value stored in a register. -/
def storeReg (s : State) (i : Sec) (reg : Reg) (v : DWord) : State :=
  match reg with
  | .sInit => { s with sInit := v.setWidth 32 }
  | .vatosSel => if i = .s then { s with sVatosSel := v.setWidth 32 } else { s with vatosSel := v.setWidth 32 }
  | .cmdqBase | .eventqBase | .priqBase =>
    match s.takeFree with
    | (u, s) => s.setIface i fun r => r.setReg s.ids u reg v
  | _ => s.setIface i fun r => r.setReg s.ids 0 reg v

/-- The write has an effect at all: the registers with an Update flag need it set (12_regs_control.md R181, R196; in SMMUv3.1
and earlier R181 leaves other outcomes for GBPA: DESIGN CHOICE, log entry 17), INV_ALL ignores zero (14_regs_secure.md R362). -/
def writeTakes (reg : Reg) (v : DWord) : Bool :=
  match reg with
  | .gbpa => v.getLsbD 31
  | .gmpam => v.getLsbD 31
  | .gbpmpam => v.getLsbD 31
  | .sInit => v.getLsbD 0
  | _ => true

/-- The output queue whose contents a write of its CONS makes UNKNOWN, with the logarithms of its entries and of their size: the
queue is enabled and CONS moves otherwise than over entries that are there (70_reset_and_hazards.md R2542). -/
def spoiledQueue (s : State) (i : Sec) (reg : Reg) (v : DWord) : Option (QueueRegs × Nat × Nat) :=
  let r := s.iface i
  let check (on : Bool) (q : QueueRegs) (n e : Nat) : Option (QueueRegs × Nat × Nat) :=
    if on && decide (queueCount q.prod q.cons n < queueCount (v.setWidth 32) q.cons n) then some (q, n, e) else none
  match reg with
  | .eventqCons => check (s.eventqEn i) r.eventq (queueLog2 r.eventq.base s.ids.eventqs) 5
  | .priqCons => check (s.priqEn i) r.priq (queueLog2 r.priq.base s.ids.priqs) 4
  | _ => none

/-- Memory from an address on, in units of 8 bytes, holds free values (log entry 7). -/
def unknownMemory (s : State) (pas : Pas) (addr : DWord) (n : Nat) : State :=
  (List.range n).foldl (fun s k =>
    match s.takeFree with
    | (u, s) => s.storeBytes pas (addr + BitVec.ofNat 64 (8 * k)) (natBytes 8 u.toNat)) s

/-- What a write of a CONS register does to the contents of its queue (70_reset_and_hazards.md R2542). -/
def spoilQueue (s : State) (i : Sec) (reg : Reg) (v : DWord) : State :=
  match spoiledQueue s i reg v with
  | some (q, n, e) => unknownMemory s i.pas (s.entryAt q.base n e 0) (2 ^ n * 2 ^ e / 8)
  | none => s

/-- The guarded registers that read UNKNOWN, changed. -/
def State.setUnknownReads (s : State) (i : Sec) (f : List GuardedReg → List GuardedReg) : State :=
  s.setIface i fun r => { r with unknownReads := f r.unknownReads }

/-- A write of a guarded register while its guard forbids it: IGNORED from SMMUv3.2 on, and where the register is preset;
before, the register takes any value, its own among them, and reads UNKNOWN (13_regs_tables_queues.md R251, R256;
12_regs_control.md R192; log entry 7). -/
def breakGuard (s : State) (i : Sec) (reg : Reg) (g : GuardedReg) : State :=
  if s.ids.atLeast 2 || guardedBits s.ids i reg == 0 then s
  else
    match s.takeFree with
    | (u, s) =>
      (storeReg s i reg (mergeBits (regValue s i reg) u (guardedBits s.ids i reg))).setUnknownReads i fun l => g :: l.erase g

/-- A write of a register that takes effect: the bits it may change are replaced. -/
def plainWrite (s : State) (i : Sec) (reg : Reg) (v : DWord) : State :=
  storeReg s i reg (regStored s.ids reg (mergeBits (regValue s i reg) v (regWritable s i reg)))

/-- A write of a guarded register: one that its guard allows also ends the UNKNOWN reads of an earlier one that it forbade. -/
def guardedWrite (s : State) (i : Sec) (reg : Reg) (g : GuardedReg) (v : DWord) : State :=
  if g.off (s.iface i) then (plainWrite s i reg v).setUnknownReads i (·.erase g)
  else breakGuard s i reg g

/-- A write of a register; DPT_CFG_FAR is cleared by a write that clears FAULT (R272). -/
def writeReg (s : State) (i : Sec) (reg : Reg) (v : DWord) : State :=
  match guardOf reg with
  | some g => guardedWrite s i reg g v
  | none =>
    match reg with
    | .dptFar => if v.getLsbD 0 then s else storeReg s i .dptFar 0
    | .eventqCons | .priqCons =>
      storeReg (spoilQueue s i reg v) i reg (regStored s.ids reg (mergeBits (regValue s i reg) v (regWritable s i reg)))
    | _ => if writeTakes reg v then plainWrite s i reg v else s

/-- A read of a register. -/
def readReg (s : State) (i : Sec) (reg : Reg) : DWord × State :=
  let v := regValue s i reg
  let m := regUnknown s i reg
  if m = 0 then (v, s)
  else
    match s.takeFree with
    | (u, s) => (mergeBits v u m, s)

end Sys2Proof.Machine
end

