-- ==== Sys2Proof/Machine/RegAccess.lean ====
section
/-! DEFINITION. Register accesses: Enhanced and Direct Command queues (15_regs_ecmdq_dcmdq.md), ATOS (45_atos.md), the Root
Control Page (16_regs_root_realm.md section 1), and the access as it arrives (10_state.md R60 to R64). -/

namespace Sys2Proof.Machine

/-! ## ECMDQ and DCMDQ -/

/-- LOG2SIZE in use of an ECMDQ. -/
def Ecmdq.log2 (e : Ecmdq) (d : Ids) : Nat := queueLog2 e.base d.cmdqs

/-- The ECMDQ is in direct mode, or in transition to or from it, and the implementation has DCMDQs (R404). -/
def Ecmdq.driven (e : Ecmdq) (d : Ids) (i : Sec) : Bool := d.dcmdq i && e.dcActive

/-- What an ECMDQ register reads as (R403 to R405). -/
def ecmdqValue (d : Ids) (e : Ecmdq) : Nat → DWord
  | 0 => e.base
  | 1 => e.prod.setWidth 64
  | _ => shownIndex e.cons (e.log2 d)

/-- The bits of an ECMDQ register that read UNKNOWN now (R404, R405; 13_regs_tables_queues.md R257). -/
def ecmdqUnknown (d : Ids) (i : Sec) (e : Ecmdq) : Nat → DWord
  | 0 => 0
  | 1 => wrUnknown d
  | _ =>
    maskIf (!e.errActive) 24 3 ||| maskIf (d.dcmdq i && (!e.direct || !e.hsErrActive)) 27 3 |||
      maskIf (d.dcmdq i && !e.direct) 20 3

/-- The bits of an ECMDQ register that a write may change now (R403 to R405); HSERRACK is stored whatever DM is, and is IGNORED
with DM zero. -/
def ecmdqWritable (d : Ids) (i : Sec) (e : Ecmdq) : Nat → DWord
  | 0 =>
    if e.disabled then
      maskIf (d.dcmdq i) 63 1 ||| maskAt 64 62 1 ||| maskIf (d.vsid i) 61 1 ||| addrMask d 5 ||| maskAt 64 0 5
    else 0
  | 1 =>
    if e.enabled || e.disabled then
      maskAt 64 31 1 ||| maskIf (!e.driven d i) 23 1 ||| maskIf (d.dcmdq i) 22 1 ||| maskIf (!e.driven d i) 0 20
    else 0
  | _ =>
    if e.disabled then maskIf (d.dcmdq i) 27 3 ||| maskAt 64 23 4 ||| maskIf (d.dcmdq i) 20 3 ||| maskAt 64 0 20 else 0

/-- A value stored in an ECMDQ register; setting EN with DM set takes DCMDQ_PROD.EN to zero (27_queues.md R737). -/
def Ecmdq.store (e : Ecmdq) (d : Ids) (u : DWord) (k : Nat) (v : DWord) : Ecmdq :=
  match k with
  | 0 =>
    let q := QueueRegs.setBase ⟨e.base, e.prod, e.cons⟩ v d.cmdqs u
    { e with base := q.base, prod := q.prod, cons := q.cons }
  | 1 => { e with prod := v.setWidth 32, dcEn := e.dcEn && !(v.getLsbD 31 && !e.prod.getLsbD 31 && e.direct) }
  | _ => { e with cons := v.setWidth 32 }

/-- What a DCMDQ register reads as where it reads as its fields (R408 to R410; 27_queues.md R733). -/
def dcmdqValue (d : Ids) (e : Ecmdq) : Nat → DWord
  | 0 => e.base &&& ~~~(maskAt 64 63 1) &&& ~~~(maskAt 64 61 1)
  | 1 => putBit ((e.prod &&& (maskAt 32 23 1 ||| maskAt 32 0 20)).setWidth 64) 31 e.dcEn
  | _ => putBit (shownIndex (e.cons &&& (maskAt 32 23 4 ||| maskAt 32 0 20)) (e.log2 d)) 31 e.dcEnAck

/-- The bits of a DCMDQ register that read UNKNOWN now (R409, R410; 13_regs_tables_queues.md R257). -/
def dcmdqUnknown (d : Ids) (e : Ecmdq) : Nat → DWord
  | 1 => wrUnknown d
  | 2 => maskIf (!e.errActive) 24 3
  | _ => 0

/-- The bits of a DCMDQ register that a write may change now (R408 to R410). -/
def dcmdqWritable (e : Ecmdq) : Nat → DWord
  | 0 => if !e.dcEn && !e.dcEnAck then maskAt 64 62 1 ||| maskAt 64 0 56 else 0
  | 1 => if e.dcEn == e.dcEnAck then maskAt 64 31 1 ||| maskAt 64 23 1 ||| maskAt 64 0 20 else 0
  | _ => if !e.dcEn && !e.dcEnAck then maskAt 64 23 4 ||| maskAt 64 0 20 else 0

/-- A value stored through the DCMDQ interface in the fields that are aliases, and EN (27_queues.md R733). -/
def Ecmdq.storeDirect (e : Ecmdq) (d : Ids) (u : DWord) (k : Nat) (v : DWord) : Ecmdq :=
  match k with
  | 0 => e.store d u 0 (mergeBits e.base v (maskAt 64 62 1 ||| maskAt 64 0 56))
  | 1 => { e with prod := mergeBits e.prod (v.setWidth 32) (maskAt 32 23 1 ||| maskAt 32 0 20), dcEn := v.getLsbD 31 }
  | _ => { e with cons := mergeBits e.cons (v.setWidth 32) (maskAt 32 23 4 ||| maskAt 32 0 20) }

/-- The bits of SMMU_(*_)DCMDQP_ERRn and ERRNn that stand for pages (R412). -/
def dcErrMask (d : Ids) (i : Sec) (n : Nat) : DWord := maskAt 64 0 (min 64 (2 ^ d.dcmdqLog2NumP i - 64 * n))

/-! ## ATOS -/

/-- The bits of an ATOS register that a write may change (45_atos.md R2104, R2105, R2108, R2110, R2111). -/
def atosMask (d : Ids) (g : AtosGroup) : Nat → DWord
  | 1 =>
    let sid := match g.sec with
      | .s => max d.sidSizeNs d.sSidSize
      | _ => d.sidSizeNs
    maskIf (g == .sGatos) 53 1 ||| maskIf (d.ssidSize != 0) 52 1 ||| maskAt 64 32 d.ssidSize ||| maskAt 64 0 sid
  | 2 => maskAt 64 6 58 ||| maskIf (g == .sGatos && d.sel2) 4 1
  | _ => 0

/-- What an ATOS register reads as; SSEC is RES1 in SMMU_S_VATOS_SID (R2111). -/
def atosValue (s : State) (g : AtosGroup) (k : Nat) : DWord :=
  let r := s.atosRegs g
  match k with
  | 0 => r.ctrl.setWidth 64
  | 1 => r.sid ||| maskIf (g == .sVatos) 53 1
  | 2 => r.addr
  | _ => r.par

/-- A write of an ATOS register: IGNORED while RUN is one; RUN is set only with SMMUEN one and not being cleared (R2100 to
R2102). -/
def writeAtos (s : State) (g : AtosGroup) (k : Nat) (v : DWord) : State :=
  let r := s.iface g.sec
  if (s.atosRegs g).run then s
  else
    match k with
    | 0 => if v.getLsbD 0 && r.cr0.getLsbD 0 && r.cr0ack.getLsbD 0 then s.setAtos g fun a => { a with ctrl := 1 } else s
    | 1 => s.setAtos g fun a => { a with sid := v &&& atosMask s.ids g 1 }
    | 2 => s.setAtos g fun a => { a with addr := v &&& atosMask s.ids g 2 }
    | _ => s

/-! ## Accesses -/

/-- A value with its UNKNOWN bits taken from a free value. -/
def State.withUnknown (s : State) (v m : DWord) : DWord × State :=
  if m = 0 then (v, s)
  else
    match s.takeFree with
    | (u, s) => (mergeBits v u m, s)

/-- The registers of a DCMDQ read as their fields: it is active; or, as the parameter dcmdqInactiveReads chooses between two
rules that differ, DM alone is one (15_regs_ecmdq_dcmdq.md R408 to R411 against 27_queues.md R732; log entry 52). -/
def Ecmdq.dcReads (e : Ecmdq) (m : Impl) : Bool := e.dcActive || (m.dcmdqInactiveReads && e.direct)

/-- A read of what an access reaches. -/
def readTarget (s : State) (t : RegTarget) : DWord × State :=
  match t with
  | .iface i r => readReg s i r
  | .ecmdq i n k =>
    match s.ecmdqAt i n with
    | some e => s.withUnknown (ecmdqValue s.ids e k) (ecmdqUnknown s.ids i e k)
    | none => (0, s)
  | .dcmdq i n k =>
    match s.ecmdqAt i n with
    | some e => if e.dcReads s.impl then s.withUnknown (dcmdqValue s.ids e k) (dcmdqUnknown s.ids e k) else (0, s)
    | none => (0, s)
  | .dcErr i n => ((s.iface i).dcmdqpErr.getD n 0 &&& dcErrMask s.ids i n, s)
  | .dcErrn i n => ((s.iface i).dcmdqpErrn.getD n 0 &&& dcErrMask s.ids i n, s)
  | .atos g k => s.withUnknown (atosValue s g k) (if k = 3 ∧ (s.atosRegs g).run then maskAt 64 0 64 else 0)

/-- A write of what an access reaches; the bits that it may not change keep their value. -/
def writeTarget (s : State) (t : RegTarget) (v : DWord) : State :=
  match t with
  | .iface i r => writeReg s i r v
  | .ecmdq i n k =>
    match s.ecmdqAt i n with
    | some e =>
      match s.takeFree with
      | (u, s) =>
        let v := mergeBits (ecmdqValue s.ids e k) v (ecmdqWritable s.ids i e k)
        s.setEcmdq i n fun e => e.store s.ids u k v
    | none => s
  | .dcmdq i n k =>
    match s.ecmdqAt i n with
    | some e =>
      if e.dcActive then
        match s.takeFree with
        | (u, s) =>
          let v := mergeBits (dcmdqValue s.ids e k) v (dcmdqWritable e k)
          s.setEcmdq i n fun e => e.storeDirect s.ids u k v
      else s
    | none => s
  | .dcErr _ _ => s
  | .dcErrn i n => s.setIface i fun r => { r with dcmdqpErrn := r.dcmdqpErrn.modify n fun _ => v &&& dcErrMask s.ids i n }
  | .atos g k => writeAtos s g k v

/-- The value of a target with its UNKNOWN bits as stored: what a write of one half keeps of the other. -/
def targetValue (s : State) (t : RegTarget) : DWord :=
  match t with
  | .iface i r => regValue s i r
  | .ecmdq i n k => ((s.ecmdqAt i n).map fun e => ecmdqValue s.ids e k).getD 0
  | .dcmdq i n k => ((s.ecmdqAt i n).map fun e => dcmdqValue s.ids e k).getD 0
  | .dcErr i n => (s.iface i).dcmdqpErr.getD n 0
  | .dcErrn i n => (s.iface i).dcmdqpErrn.getD n 0
  | .atos g k => atosValue s g k

/-- A read access to the register file (10_state.md R60 to R63). -/
def processRegRead (s : State) (pas : Pas) (off size : Nat) : State :=
  match regAt s.ids off with
  | some p =>
    if reaches p.reg.sec pas && accessLegal off size p.width then
      match readTarget s p.reg with
      | (v, s) => s.send (.regValue (readPart v p.base off size))
    else s.send (.regValue 0)
  | none => s.send (.regValue 0)

/-- One write access to the register file (10_state.md R60 to R64). -/
def writeAccess (s : State) (pas : Pas) (off size : Nat) (v : DWord) : State :=
  match regAt s.ids off with
  | some p =>
    if reaches p.reg.sec pas && accessLegal off size p.width then
      writeTarget s p.reg (writePart (targetValue s p.reg) v p.base off size)
    else s
  | none => s

/-- A write access to the register file: where an implementation does not make an aligned 64-bit access single-copy atomic, two
32-bit ones in either order (R61; parameter reg64Atomic, log entry 2; a free value, log entry 7). -/
def processRegWrite (s : State) (pas : Pas) (off size : Nat) (v : DWord) : State :=
  match regAt s.ids off with
  | none => s
  | some p =>
    if size = 8 ∧ !s.impl.reg64Atomic ∧ accessLegal off size p.width then
      match s.takeFree with
      | (u, s) =>
        if u.getLsbD 0 then writeAccess (writeAccess s pas off 4 v) pas (off + 4) 4 (v >>> 32)
        else writeAccess (writeAccess s pas (off + 4) 4 (v >>> 32)) pas off 4 v
    else writeAccess s pas off size v

/-! ## The Root Control Page (16_regs_root_realm.md R450 to R460) -/

/-- The registers of the Root Control Page (10_state.md R69). -/
inductive RootReg where
  | idr0 | iidr | cr0 | cr0ack | gptBase | gptCfg | gpfFar | gptCfgFar | tlbi | tlbiCtrl | gptBase2 | gptUpdate | gpcbw
  deriving DecidableEq, Repr

/-- Their places (10_state.md R69). -/
def rootPlaces : List (RegPlace RootReg) :=
  [⟨0x00, 4, .idr0⟩, ⟨0x08, 4, .iidr⟩, ⟨0x20, 4, .cr0⟩, ⟨0x24, 4, .cr0ack⟩, ⟨0x28, 8, .gptBase⟩, ⟨0x30, 8, .gptCfg⟩,
   ⟨0x38, 8, .gpfFar⟩, ⟨0x40, 8, .gptCfgFar⟩, ⟨0x50, 8, .tlbi⟩, ⟨0x58, 4, .tlbiCtrl⟩, ⟨0x60, 8, .gptBase2⟩,
   ⟨0x68, 4, .gptUpdate⟩, ⟨0x70, 8, .gpcbw⟩]

/-- Presence (R458, R460). -/
def RootReg.present (d : Ids) : RootReg → Bool
  | .tlbi => d.rgptm
  | .tlbiCtrl => d.rgptm
  | .gpcbw => d.gpts
  | _ => true

/-- What a register of the Root Control Page reads as. -/
def rootValue (s : State) : RootReg → DWord
  | .idr0 => s.ids.rootIdr0.setWidth 64
  | .iidr => s.ids.rootIidr.setWidth 64
  | .cr0 => s.root.cr0.setWidth 64
  | .cr0ack => s.root.cr0ack.setWidth 64
  | .gptBase => s.gptBase
  | .gptCfg => s.root.gptCfg
  | .gpfFar => s.root.gpfFar
  | .gptCfgFar => s.root.gptCfgFar
  | .tlbi => s.root.tlbi
  | .tlbiCtrl => s.root.tlbiCtrl.setWidth 64
  | .gptBase2 => s.root.gptBase2
  | .gptUpdate => s.root.gptUpdate.setWidth 64
  | .gpcbw => s.root.gpcbw

/-- GPCEN and its acknowledge are zero (R454, R455, R460). -/
def gpcOff (r : RootRegs) : Bool := !r.cr0.getLsbD 1 && !r.cr0ack.getLsbD 1

/-- The bits of SMMU_ROOT_GPT_BASE.ADDR (R454), and of SMMU_ROOT_GPT_BASE2.ADDR: R459 does not say that bits of the latter at
and above the OAS are zero (DESIGN CHOICE, log entry 17). -/
def gptBaseMask (d : Ids) : DWord := maskAt 64 12 (min d.oas 52 - 12)

/-- The bits of SMMU_ROOT_GPT_BASE_CFG that software writes (R455). GPCP is held and read back and has no effect: every GPC
fault is reported, as R455 lets an SMMU do that may also treat the field as RES0 (DESIGN CHOICE, log entry 35). -/
def gptCfgMask (d : Ids) : DWord :=
  maskIf d.gpts 29 1 ||| maskIf d.gdi 25 2 ||| maskIf d.appsaaImpl 24 1 ||| maskIf d.nsoImpl 19 1 ||| maskAt 64 17 1 |||
    maskAt 64 8 8 ||| maskIf d.gpts 3 1 ||| maskAt 64 0 3

/-- A write of a register of the Root Control Page (R453 to R460). -/
def writeRoot (s : State) (reg : RootReg) (v : DWord) : State :=
  let r := s.root
  let d := s.ids
  match reg with
  | .cr0 => if r.cr0 = r.cr0ack then { s with root := { r with cr0 := (v &&& maskAt 64 0 2).setWidth 32 } } else s
  | .gptBase => if gpcOff r then { s with root := { r with gptBase := v &&& gptBaseMask d } } else s
  | .gptCfg => if gpcOff r then { s with root := { r with gptCfg := mergeBits r.gptCfg v (gptCfgMask d) } } else s
  | .gpfFar => if v.getLsbD 0 then s else { s with root := { r with gpfFar := 0 } }
  | .gptCfgFar => if v.getLsbD 0 then s else { s with root := { r with gptCfgFar := 0 } }
  | .tlbi =>
    if r.tlbiCtrl.getLsbD 0 then s
    else { s with root := { r with tlbi := v &&& (maskAt 64 12 40 ||| maskAt 64 4 4 ||| maskAt 64 0 2) } }
  | .tlbiCtrl => if !r.tlbiCtrl.getLsbD 0 && v.getLsbD 0 then { s with root := { r with tlbiCtrl := 1 } } else s
  | .gptBase2 => { s with root := { r with gptBase2 := v &&& gptBaseMask d } }
  | .gptUpdate => if v.getLsbD 0 then { s with root := { r with gptBase := r.gptBase2, gptUpdate := 0 } } else s
  | .gpcbw =>
    if gpcOff r then { s with root := { r with gpcbw := v &&& (maskAt 64 32 8 ||| maskAt 64 0 26) } } else s
  | _ => s

/-- The register of the Root Control Page at an offset. -/
def rootAt (d : Ids) (off : Nat) : Option (RegPlace RootReg) :=
  rootPlaces.find? fun p => decide (p.base ≤ off ∧ off < p.base + p.width) && p.reg.present d

/-- The Root Control Page is there and the access reaches it (R450). -/
def rootReaches (d : Ids) (pas : Pas) : Bool := d.rootImpl && pas == .root

/-- A read access to the Root Control Page. -/
def processRootRead (s : State) (pas : Pas) (off size : Nat) : State :=
  match rootAt s.ids off with
  | some p =>
    if rootReaches s.ids pas && accessLegal off size p.width then
      s.send (.regValue (readPart (rootValue s p.reg) p.base off size))
    else s.send (.regValue 0)
  | none => s.send (.regValue 0)

/-- A write access to the Root Control Page. -/
def processRootWrite (s : State) (pas : Pas) (off size : Nat) (v : DWord) : State :=
  match rootAt s.ids off with
  | some p =>
    if rootReaches s.ids pas && accessLegal off size p.width then
      writeRoot s p.reg (writePart (rootValue s p.reg) v p.base off size)
    else s
  | none => s

end Sys2Proof.Machine
end

