-- ==== Sys2Proof/Machine/Pmcg.lean ====
section
/-! DEFINITION. Performance monitor counter groups: counting, filtering, overflow, capture, interrupt, and registers
(17_regs_pmcg.md). -/

namespace Sys2Proof.Machine

/-! ## Constants of a group (R538, R541, R542) -/

/-- The number of counters. -/
def Pmcg.count (p : Pmcg) : Nat := fieldNat p.cfgr 0 6 + 1
/-- The bits of a counter. -/
def Pmcg.bits (p : Pmcg) : Nat := fieldNat p.cfgr 8 6 + 1
/-- Page 1 is present. -/
def Pmcg.reloc (p : Pmcg) : Bool := p.cfgr.getLsbD 20
/-- MSIs are supported. -/
def Pmcg.msi (p : Pmcg) : Bool := p.cfgr.getLsbD 21
/-- Capture is supported. -/
def Pmcg.capture (p : Pmcg) : Bool := p.cfgr.getLsbD 22
/-- One filter for all counters. -/
def Pmcg.oneFilter (p : Pmcg) : Bool := p.cfgr.getLsbD 23
/-- MSIs carry PARTID and PMG. -/
def Pmcg.mpam (p : Pmcg) : Bool := p.cfgr.getLsbD 24
/-- Filtering by PARTID and PMG is supported. -/
def Pmcg.partidFilter (p : Pmcg) : Bool := p.cfgr.getLsbD 25
/-- Secure state is supported (R541). -/
def Pmcg.secure (p : Pmcg) : Bool := p.scr.getLsbD 31
/-- Realm and Root controls are implemented (R542). -/
def Pmcg.rootImpl (p : Pmcg) : Bool := p.rootcr.getLsbD 31
/-- The group is one of SMMUv3.0 (R546). -/
def Pmcg.v30 (p : Pmcg) : Bool := fieldNat p.aidr 0 8 == 0
/-- SMMU_PMCG_MPAMIDR: the maxima are RES0 without CFGR.MPAM (R549). -/
def Pmcg.maxima (p : Pmcg) : BitVec 32 := if p.mpam then p.mpamidr &&& 0xFFFFFF else 0
/-- SMMU_PMCG_S_MPAMIDR: absent without Secure state; HAS_MPAM_NS is RES0 without CFGR.MSI, the maxima without CFGR.MPAM
(R550). -/
def Pmcg.sMaxima (p : Pmcg) : BitVec 32 :=
  if !p.secure then 0 else
  (if p.mpam then p.sMpamidr &&& 0xFFFFFF else 0) ||| (if p.msi then p.sMpamidr &&& 0x2000000 else 0)
/-- filt(n) of R531. -/
def Pmcg.filt (p : Pmcg) (n : Nat) : Bool := n == 0 || !p.oneFilter
/-- The bits of a bitmap (R535). -/
def Pmcg.map (p : Pmcg) : DWord := maskAt 64 0 p.count

/-- A counter of the group. -/
def Pmcg.counter (p : Pmcg) (n : Nat) : PmCounter := p.counters.getD n .reset

/-- The group of a number changed. -/
def State.setPmcg (s : State) (n : Nat) (f : Pmcg → Pmcg) : State := { s with pmcgs := s.pmcgs.modify n f }

/-! ## Filters -/

/-- What an event's access is to, as the filters see it: its Security state, Root and System Agent among them, and whether it
has the Protected Mode attribute (R514, R515). -/
def PmuSrc.space : PmuSrc → Pas × Bool
  | .stream .ns _ pm => (.ns, pm)
  | .stream .s _ _ => (.s, false)
  | .stream .rl _ _ => (.rl, false)
  | .noSid .nsp => (.ns, true)
  | .noSid p => (p, false)
  | .own p => (p, false)
  | .none => (.ns, false)

/-- Counting of a Security state is permitted (R514, R515, R523). -/
def Pmcg.observes (p : Pmcg) (x : Pas × Bool) : Bool :=
  (!x.2 || (p.rootImpl && p.rootcr.getLsbD 8)) &&
  match x.1 with
  | .ns => true
  | .s => p.secure && p.scr.getLsbD 0
  | .rl => p.rootImpl && p.rootcr.getLsbD 1
  | .root => p.rootImpl && p.rootcr.getLsbD 0
  | .sa => p.rootImpl && p.rootcr.getLsbD 7
  | .nsp => false

/-- The least Y for which STREAMID's bit Y-1 is zero (R511). -/
def spanBits (smr : BitVec 32) : Nat → Nat
  | 0 => 0
  | n + 1 => if smr.getLsbD 0 then spanBits (smr >>> 1) n + 1 else 1

/-- STREAMID has all its implemented bits one (R511). -/
def allOnes (bits : Nat) (smr : BitVec 32) : Bool := fieldNat smr 0 bits == 2 ^ bits - 1

/-- FILTER_SEC_SID in effect: zero while SCR.SO is zero (R513, R531, R541). -/
def Pmcg.secSid (p : Pmcg) (ev : BitVec 32) : Bool := p.secure && ev.getLsbD 30 && p.scr.getLsbD 0

/-- FILTER_REALM_SID in effect: zero while ROOTCR.RLO is zero (R514, R531). -/
def Pmcg.realmSid (p : Pmcg) (ev : BitVec 32) : Bool := p.rootImpl && ev.getLsbD 28 && p.rootcr.getLsbD 1

/-- The Security states that AllSIDManySECSID counts (R513, R514). -/
def Pmcg.manyStates (p : Pmcg) (ev : BitVec 32) (x : Pas) : Bool :=
  let realm := p.realmSid ev
  match x with
  | .ns => true
  | .s => !realm || p.secSid ev
  | .rl => realm
  | .root => realm && p.secSid ev
  | .sa => realm && p.secSid ev
  | .nsp => false

/-- The one Security state that the other modes count (R513, R514). -/
def Pmcg.oneState (p : Pmcg) (ev : BitVec 32) : Pas :=
  let sec := p.secSid ev
  let rel := p.realmSid ev
  if sec && !rel then .s else if rel && !sec then .rl else .ns

/-- The Security states that the selection of all StreamIDs counts; in SMMUv3.0 it may be one, as the parameter
pmcgOneNamespaceV30 says (R513, log entry 2). -/
def Pmcg.allStates (p : Pmcg) (m : Impl) (ev : BitVec 32) (x : Pas) : Bool :=
  if p.v30 && m.pmcgOneNamespaceV30 then x == p.oneState ev else p.manyStates ev x

/-- The StreamID filter (R511 to R515); an access that the SMMU makes for no stream is filtered as one of a client without a
StreamID (log entry 33). -/
def Pmcg.sidMatch (p : Pmcg) (m : Impl) (ev smr : BitVec 32) (src : PmuSrc) : Bool :=
  let bits := m.pmcgSidBits
  let x := src.space.1
  let span := ev.getLsbD 29
  let many := span && allOnes bits smr
  let y := spanBits smr bits
  p.observes src.space &&
  match src with
  | .none => true
  | .stream _ sid _ =>
    if many then p.allStates m ev x
    else
      x == p.oneState ev &&
        (if span then sid.toNat % 2 ^ bits / 2 ^ y == smr.toNat % 2 ^ bits / 2 ^ y else sid.toNat % 2 ^ bits == smr.toNat % 2 ^ bits)
  | .noSid _ | .own _ =>
    if many then p.allStates m ev x
    else span && decide (bits ≤ y) && x != .sa && x == p.oneState ev

/-- FILTER_MPAM_SP in effect (R531). -/
def Pmcg.mpamSp (p : Pmcg) (ev : BitVec 32) : BitVec 2 :=
  let v := if p.rootImpl then fieldNat ev 18 2 else fieldNat ev 18 1
  match v with
  | 1 => 1
  | 3 => if p.rootcr.getLsbD 1 then 3 else 1
  | _ => if p.secure && p.scr.getLsbD 0 then 0 else 1

/-- The PARTID and PMG filter (R516): a configuration event cannot be filtered; an event that ended before it had a PARTID does
not count; a client's access without a StreamID, which only a selection of all streams counts (R515), does not count; under a
filter value above the maximum nothing counts, not even a configuration event that the value would not filter (all DESIGN
CHOICE, log entry 33). -/
def Pmcg.partidMatch (p : Pmcg) (ev smr : BitVec 32) (o : PmuOcc) : Bool :=
  let sp := p.mpamSp ev
  let lim := if sp = 0 then p.sMaxima else p.maxima
  let partid : BitVec 16 := smr.extractLsb' 0 16
  let pmg : BitVec 8 := smr.extractLsb' 16 8
  let ok := (!ev.getLsbD 16 || decide (partid.toNat ≤ fieldNat lim 0 16)) && (!ev.getLsbD 17 || decide (pmg.toNat ≤ fieldNat lim 16 8))
  let noSid := match o.src with
    | .noSid _ => true
    | _ => false
  p.observes o.src.space && ok && !noSid &&
  match o.mpam with
  | some (a, b, q) => (!ev.getLsbD 16 || a == partid) && (!ev.getLsbD 17 || b == pmg) && q == sp
  | none => o.event == 3 || o.event == 5

/-- The group supports an event (R539). -/
def Pmcg.supports (p : Pmcg) (e : Nat) : Bool :=
  if e < 64 then p.ceid0.getLsbD e else if e < 128 then p.ceid1.getLsbD (e - 64) else false

/-- Events of a stream are counted while its state's SMMUEN is zero, and events of no stream while all traffic is global
bypass, as the implementation chose (R502; parameters pmcgCountWhenDisabled and pmcgCyclesInBypass, log entry 2). -/
def countsState (s : State) : PmuSrc → Bool
  | .stream i _ _ => s.impl.pmcgCountWhenDisabled || s.smmuEn i
  | .none => s.impl.pmcgCyclesInBypass || s.smmuEn .ns || s.smmuEn .s || s.smmuEn .rl
  | .noSid _ | .own _ => true

/-- Counter n counts an occurrence (R504); a miss alone is none. -/
def counterMatches (s : State) (p : Pmcg) (o : PmuOcc) (n : Nat) : Bool :=
  let ev := (p.counter n).evtyper
  let f := p.counter (if p.oneFilter then 0 else n)
  o.made && p.cr.getLsbD 0 && p.cnten.getLsbD n && fieldNat ev 0 16 == o.event && p.supports o.event && countsState s o.src &&
    (if o.src = .none then true
     else if p.partidFilter && (f.evtyper.getLsbD 16 || f.evtyper.getLsbD 17) then p.partidMatch f.evtyper f.smr o
     else p.sidMatch s.impl f.evtyper f.smr o.src)

/-! ## Overflow, capture, interrupt -/

/-- Every counter is copied to its shadow (R507). -/
def Pmcg.doCapture (p : Pmcg) : Pmcg :=
  if p.capture then { p with counters := p.counters.map fun c => { c with shadow := c.value } } else p

/-- The PA space of the group's MSIs (R522). -/
def Pmcg.msiPas (p : Pmcg) : Pas := if !p.secure || p.scr.getLsbD 2 || p.scr.getLsbD 1 then .ns else .s

/-- The access of the group's MSI: PARTID and PMG of SMMU_PMCG_GMPAM, Secure for a Secure MSI unless MSI_MPAM_NS is set; zero
without MPAM (R547; 62_ras_mpam_mec.md R2666). -/
def Pmcg.msiAcc (p : Pmcg) (t : MemType) : AccFrom :=
  let g := p.gmpamEff
  let ns := p.msiPas == .ns || p.scr.getLsbD 3
  { gpc := .smmu, type := t, src := .own p.msiPas
    mpam := if p.mpam then (g.extractLsb' 0 16, g.extractLsb' 16 8, if ns then 1 else 0) else (0, 0, if p.msiPas = .ns then 1 else 0)
    lim := if ns then p.maxima else p.sMaxima }

/-- The interrupt of a group: the wired output, and an MSI, an abort of which is recorded in IRQ_ABT (R506, R546). A granule
protection fault of the MSI is reported as OTHER_GPF with REASON GERROR, one of the two ways that 16_regs_root_realm.md R456
leaves (DESIGN CHOICE, log entry 46). -/
def pmcgInterrupt (s : State) (n : Nat) : State :=
  match s.pmcgs[n]? with
  | none => s
  | some p =>
    if !p.irqCtrlAck.getLsbD 0 then s
    else
      let s := if s.impl.wiredInterrupts || !p.msi then s.send (.wire (.pmcg n)) else s
      let addr := p.irq.cfg0 &&& maskAt 64 2 54
      if p.msi && addr != 0 then
        let a := msiAttrs (p.irq.cfg2.extractLsb' 0 4) (fieldNat p.irq.cfg2 4 2)
        match sendMsi s (p.msiAcc a.mt) p.msiPas addr p.irq.cfg1 a .own .other with
        | (false, s) => s
        | (true, s) => if p.v30 || !s.impl.pmcgAbortDetected then s else s.setPmcg n fun p => { p with irqStatus := putBit p.irqStatus 0 true }
      else s

/-- The side effects of counter k's overflow: capture, then the interrupt (R505 to R507). -/
def overflowEffects (s : State) (n k : Nat) : State :=
  match s.pmcgs[n]? with
  | none => s
  | some p =>
    let s := if (p.counter k).evtyper.getLsbD 31 then s.setPmcg n Pmcg.doCapture else s
    if p.inten.getLsbD k then pmcgInterrupt s n else s

/-- Counter k counts one occurrence; a carry out of its bits is an overflow (R504, R505). -/
def countOne (s : State) (n k : Nat) : State :=
  match s.pmcgs[n]? with
  | none => s
  | some p =>
    let v := ((p.counter k).value.toNat + 1) % 2 ^ p.bits
    let s := s.setPmcg n fun p => { p with counters := p.counters.modify k fun c => { c with value := BitVec.ofNat 64 v } }
    if v = 0 then
      overflowEffects (s.setPmcg n fun p => { p with ovs := putBit p.ovs k true }) n k
    else s

/-- Group n counts one occurrence. -/
def countGroup (s : State) (o : PmuOcc) (n : Nat) : State :=
  match s.pmcgs[n]? with
  | none => s
  | some p => ((List.range p.count).filter (counterMatches s p o)).foldl (fun s k => countOne s n k) s

/-- Every group counts one occurrence; one group serves all StreamIDs (R501). -/
def countOcc (s : State) (o : PmuOcc) : State :=
  (List.range s.pmcgs.length).foldl (fun s n => countGroup s o n) s

/-- What the step's accesses and transactions were is counted; the GPT accesses of the groups' own MSIs are counted with the
next step's (R509). -/
def countLog (s : State) : State := s.pmuLog.foldl countOcc { s with pmuLog := [] }

/-! ## Registers (R530 to R551) -/

/-- The registers of a group. -/
inductive PmReg where
  | evcntr (n : Nat) | evtyper (n : Nat) | svr (n : Nat) | smr (n : Nat)
  | cntenset | cntenclr | intenset | intenclr | ovsclr | ovsset | capr | scr | cfgr | cr | iidr | ceid0 | ceid1 | rootcr
  | irqCtrl | irqCtrlAck | irqCfg (k : Nat) | irqStatus | gmpam | aidr | mpamidr | sMpamidr | idReg (n : Nat)
  deriving DecidableEq, Repr

/-- The registers at fixed offsets of Page 0. -/
def pmcgFixed : List (RegPlace PmReg) :=
  [⟨0xC00, 8, .cntenset⟩, ⟨0xC20, 8, .cntenclr⟩, ⟨0xC40, 8, .intenset⟩, ⟨0xC60, 8, .intenclr⟩, ⟨0xDF8, 4, .scr⟩,
   ⟨0xE00, 4, .cfgr⟩, ⟨0xE04, 4, .cr⟩, ⟨0xE08, 4, .iidr⟩, ⟨0xE20, 8, .ceid0⟩, ⟨0xE28, 8, .ceid1⟩, ⟨0xE40, 4, .scr⟩,
   ⟨0xE48, 4, .rootcr⟩, ⟨0xE50, 4, .irqCtrl⟩, ⟨0xE54, 4, .irqCtrlAck⟩, ⟨0xE58, 8, .irqCfg 0⟩, ⟨0xE60, 4, .irqCfg 1⟩,
   ⟨0xE64, 4, .irqCfg 2⟩, ⟨0xE68, 4, .irqStatus⟩, ⟨0xE6C, 4, .gmpam⟩, ⟨0xE70, 4, .aidr⟩, ⟨0xE74, 4, .mpamidr⟩,
   ⟨0xE78, 4, .sMpamidr⟩]

/-- The registers that Page 1 holds when RELOC_CTRS is one (R530). -/
def pmcgReloc : List (RegPlace PmReg) := [⟨0xC80, 8, .ovsclr⟩, ⟨0xCC0, 8, .ovsset⟩, ⟨0xD88, 4, .capr⟩]

/-- A register array of 64 entries of `w` bytes at `base`. -/
def pmcgArray (base w off : Nat) (f : Nat → PmReg) : Option (RegPlace PmReg) :=
  if base ≤ off ∧ off < base + 64 * w then some ⟨base + (off - base) / w * w, w, f ((off - base) / w)⟩ else none

/-- The register at an offset of a page (R530). -/
def pmcgAt (p : Pmcg) (page off : Nat) : Option (RegPlace PmReg) :=
  let w := if p.bits ≤ 32 then 4 else 8
  let find (l : List (RegPlace PmReg)) : Option (RegPlace PmReg) :=
    l.find? fun r => decide (r.base ≤ off ∧ off < r.base + r.width)
  let movable := (pmcgArray 0 w off .evcntr).or ((pmcgArray 0x600 w off .svr).or (find pmcgReloc))
  if page = 0 then
    let own := (pmcgArray 0x400 4 off .evtyper).or ((pmcgArray 0xA00 4 off .smr).or (find pmcgFixed))
    let idr := if 0xFB0 ≤ off ∧ off < 0x1000 then some (⟨off / 4 * 4, 4, .idReg ((off - 0xFB0) / 4)⟩ : RegPlace PmReg) else none
    if p.reloc then own.or idr else movable.or (own.or idr)
  else if page = 1 ∧ p.reloc then movable
  else none

/-- A register is reached by an access: SCR and S_MPAMIDR by Secure and Root accesses, ROOTCR by all, the others unless NSRA
forbids it (R521, R541, R542, R550). -/
def pmcgReaches (p : Pmcg) (reg : PmReg) (off : Nat) (pas : Pas) : Bool :=
  let sec := pas == .s || pas == .root
  match reg with
  | .scr => p.secure && sec && (off < 0xE40 || p.rootImpl)
  | .sMpamidr => p.secure && sec
  | .rootcr => p.rootImpl && pas != .nsp && pas != .sa
  | _ => sec || ((pas == .ns || pas == .rl) && (!p.secure || p.scr.getLsbD 1))

/-- The bits of EVTYPERn (R531; the implemented bits of EVENT are the parameter pmcgEventBits, log entry 2). -/
def evtyperMask (m : Impl) (p : Pmcg) (n : Nat) : DWord :=
  let q := p.filt n
  maskIf p.capture 31 1 ||| maskIf (q && p.secure) 30 1 ||| maskIf q 29 1 ||| maskIf (q && p.rootImpl) 28 1 |||
    maskIf (q && p.partidFilter && p.rootImpl) 19 1 ||| maskIf (q && p.partidFilter) 16 3 ||| maskAt 64 0 (min 16 m.pmcgEventBits)

/-- The bits of SMRn (R534). -/
def smrMask (s : State) (p : Pmcg) (n : Nat) : DWord :=
  let ev := (p.counter n).evtyper
  if !p.filt n then 0
  else if p.partidFilter && (ev.getLsbD 16 || ev.getLsbD 17) then maskAt 64 0 24
  else maskAt 64 0 s.impl.pmcgSidBits

/-- What a register reads as. -/
def pmcgValue (s : State) (p : Pmcg) : PmReg → DWord
  | .evcntr n => if n < p.count then (p.counter n).value else 0
  | .evtyper n => if n < p.count then (p.counter n).evtyper.setWidth 64 else 0
  | .svr n => if n < p.count && p.capture then (p.counter n).shadow else 0
  | .smr n => if n < p.count then (p.counter n).smr.setWidth 64 &&& smrMask s p n else 0
  | .cntenset => p.cnten
  | .cntenclr => p.cnten
  | .intenset => p.inten
  | .intenclr => p.inten
  | .ovsclr => p.ovs
  | .ovsset => p.ovs
  | .capr => 0
  | .scr => p.scr.setWidth 64
  | .cfgr => p.cfgr.setWidth 64
  | .cr => p.cr.setWidth 64
  | .iidr => p.iidr.setWidth 64
  | .ceid0 => p.ceid0
  | .ceid1 => p.ceid1
  | .rootcr => p.rootcr.setWidth 64
  | .irqCtrl => p.irqCtrl.setWidth 64
  | .irqCtrlAck => p.irqCtrlAck.setWidth 64
  | .irqCfg k => if p.msi then p.irq.part k else 0
  | .irqStatus => if p.msi && !p.v30 then p.irqStatus.setWidth 64 else 0
  | .gmpam => if p.mpam then p.gmpam.setWidth 64 else 0
  | .aidr => p.aidr.setWidth 64
  | .mpamidr => if p.mpam || p.partidFilter then p.maxima.setWidth 64 else 0
  | .sMpamidr => if p.mpam || p.partidFilter then p.sMaxima.setWidth 64 else 0
  | .idReg n => (p.idRegs.getD n 0).setWidth 64

/-- PO_PMG and PO_PARTID, and Update (R547). -/
def pmGmpamMask (p : Pmcg) : DWord :=
  let w (lo n : Nat) : Nat := max (valueBits (fieldNat p.maxima lo n)) (valueBits (fieldNat p.sMaxima lo n))
  maskAt 64 31 1 ||| maskAt 64 16 (w 16 8) ||| maskAt 64 0 (w 0 16)

/-- The bits of SCR that software writes (R541). -/
def scrMask (p : Pmcg) (v : DWord) : DWord :=
  maskIf p.rootImpl 4 1 ||| maskIf (p.sMaxima.getLsbD 25 && !(v.getLsbD 2 || v.getLsbD 1)) 3 1 ||| maskIf p.msi 2 1 ||| maskAt 64 0 2

/-- A counter register of the group changed. -/
def Pmcg.setCounter (p : Pmcg) (n : Nat) (f : PmCounter → PmCounter) : Pmcg := { p with counters := p.counters.modify n f }

/-- A write of a register of group n. A write of GMPAM without Update is IGNORED, one of the outcomes of R547 (DESIGN CHOICE, log
entry 17). -/
def writePmcg (s : State) (n : Nat) (p : Pmcg) (reg : PmReg) (pas : Pas) (v : DWord) : State :=
  let w := v.setWidth 32
  let set (q : Pmcg) : State := s.setPmcg n fun _ => q
  match reg with
  | .evcntr k => set (p.setCounter k fun c => { c with value := v &&& maskAt 64 0 p.bits })
  | .evtyper k => set (p.setCounter k fun c => { c with evtyper := (v &&& evtyperMask s.impl p k).setWidth 32 })
  | .smr k => set (p.setCounter k fun c => { c with smr := (v &&& smrMask s p k).setWidth 32 })
  | .cntenset => set { p with cnten := p.cnten ||| (v &&& p.map) }
  | .cntenclr => set { p with cnten := p.cnten &&& ~~~v }
  | .intenset => set { p with inten := p.inten ||| (v &&& p.map) }
  | .intenclr => set { p with inten := p.inten &&& ~~~v }
  | .ovsclr => set { p with ovs := p.ovs &&& ~~~v }
  | .ovsset =>
    let s := set { p with ovs := p.ovs ||| (v &&& p.map) }
    if s.impl.pmcgOvssetSideEffects then
      ((List.range p.count).filter v.getLsbD).foldl (fun s k => overflowEffects s n k) s
    else s
  | .capr => if v.getLsbD 0 then set p.doCapture else s
  | .scr => set { p with scr := mergeBits (p.scr &&& ~~~(maskAt 32 0 5)) w ((scrMask p v).setWidth 32) }
  | .cr => set { p with cr := w &&& 1 }
  | .rootcr =>
    if pas = .root then
      set { p with rootcr := mergeBits p.rootcr w ((maskIf s.ids.gdi 7 2 ||| maskAt 64 3 1 ||| maskAt 64 0 2).setWidth 32) }
    else s
  | .irqCtrl => if p.irqCtrl = p.irqCtrlAck then set { p with irqCtrl := w &&& 1 } else s
  | .irqCfg k =>
    if p.msi && !p.irqCtrl.getLsbD 0 && !p.irqCtrlAck.getLsbD 0 then
      let m := match k with
        | 0 => addrMask s.ids 2
        | 1 => maskAt 64 0 32
        | _ => maskAt 64 0 6
      set { p with irq := p.irq.setPart k (v &&& m) }
    else s
  | .gmpam =>
    if p.mpam && !p.gmpam.getLsbD 31 && v.getLsbD 31 then set { p with gmpam := (v &&& pmGmpamMask p).setWidth 32 } else s
  | _ => s

/-- What a write of one half of a register keeps of the other half: nothing where a one bit acts. -/
def pmcgKept (s : State) (p : Pmcg) (reg : PmReg) : DWord :=
  match reg with
  | .cntenset | .cntenclr | .intenset | .intenclr | .ovsclr | .ovsset => 0
  | r => pmcgValue s p r

/-- A read access to a group (R530). -/
def processPmcgRead (s : State) (n page : Nat) (pas : Pas) (off size : Nat) : State :=
  match s.pmcgs[n]? with
  | none => s.send (.regValue 0)
  | some p =>
    match pmcgAt p page off with
    | none => s.send (.regValue 0)
    | some r =>
      if pmcgReaches p r.reg off pas && accessLegal off size r.width then
        s.send (.regValue (readPart (pmcgValue s p r.reg) r.base off size))
      else s.send (.regValue 0)

/-- One write access to a group (R530). -/
def pmcgWriteAccess (s : State) (n page : Nat) (pas : Pas) (off size : Nat) (v : DWord) : State :=
  match s.pmcgs[n]? with
  | none => s
  | some p =>
    match pmcgAt p page off with
    | none => s
    | some r =>
      if pmcgReaches p r.reg off pas && accessLegal off size r.width then
        writePmcg s n p r.reg pas (writePart (pmcgKept s p r.reg) v r.base off size)
      else s

/-- A write access to a group: where an implementation does not make an aligned 64-bit access single-copy atomic, two 32-bit
ones in either order (R530; parameter pmcg64Atomic, log entry 2; a free value, log entry 7). -/
def processPmcgWrite (s : State) (n page : Nat) (pas : Pas) (off size : Nat) (v : DWord) : State :=
  let whole := s.pmcgs[n]?.any fun p => (pmcgAt p page off).any fun r => accessLegal off size r.width
  if size = 8 ∧ whole ∧ !s.impl.pmcg64Atomic then
    match s.takeFree with
    | (u, s) =>
      if u.getLsbD 0 then pmcgWriteAccess (pmcgWriteAccess s n page pas off 4 v) n page pas (off + 4) 4 (v >>> 32)
      else pmcgWriteAccess (pmcgWriteAccess s n page pas (off + 4) 4 (v >>> 32)) n page pas off 4 v
  else pmcgWriteAccess s n page pas off size v

/-- A capture by the external mechanism (R507). -/
def processCapture (s : State) (n : Nat) : State := s.setPmcg n Pmcg.doCapture

end Sys2Proof.Machine
end

