-- ==== Sys2Proof/Machine/Updates.lean ====
section
/-! DEFINITION. The completion of Updates: fields that software wrote and the SMMU acknowledges, with their side effects
(12_regs_control.md R152 to R162, R181, R186, R196; 27_queues.md R722, R737, R738; 13_regs_tables_queues.md R275, R280;
16_regs_root_realm.md R453, R458). A pending Update completes at the next step that has no input to take (log entry 5). -/

namespace Sys2Proof.Machine

/-! ## SMMU_(*_)CR0 -/

/-- The ATOS groups of an interface. -/
def atosGroups : Sec → List AtosGroup
  | .ns => [.gatos, .vatos]
  | .s => [.sGatos, .sVatos]
  | .rl => []

/-- Every stalled transaction of an interface is terminated with an abort (12_regs_control.md R162). -/
def abortStalls (s : State) (i : Sec) : State :=
  (s.stalls.filter (·.what.sec == i)).foldl (fun s x => endStall s x.what .abort)
    { s with stalls := s.stalls.filter fun x => x.what.sec != i }

/-- RUN of a group is cleared (45_atos.md R2101). -/
def clearRun (s : State) (g : AtosGroup) : State := s.setAtos g fun a => { a with ctrl := 0 }

/-- The side effects of an Update of SMMUEN: to zero, stalled transactions and ATOS operations of the interface end; to one,
RUN is clear in its ATOS groups (R162; 45_atos.md R2101, R2103). -/
def smmuenEffects (s : State) (i : Sec) (new : Bool) : State :=
  if new then (atosGroups i).foldl clearRun s
  else (atosGroups i).foldl endAtos (abortStalls s i)

/-- SMMU_(*_)CR0 has a field whose Update is not complete (R152). -/
def crPending (s : State) (i : Sec) : Bool := (s.iface i).cr0 != (s.iface i).cr0ack

/-- The Updates of SMMU_(*_)CR0 are acknowledged (R152); with that of SMMUEN to one a changed E2H is in effect (R171). -/
def Iface.ackCr0 (r : Iface) : Iface :=
  { r with cr0ack := r.cr0, e2hUnknown := r.e2hUnknown && !(r.cr0.getLsbD 0 && !r.cr0ack.getLsbD 0) }

/-- The Updates of SMMU_(*_)CR0 complete (R152 to R162). -/
def updateCr (s : State) (i : Sec) : State :=
  let r := s.iface i
  let s := s.setIface i Iface.ackCr0
  if r.cr0.getLsbD 0 != r.cr0ack.getLsbD 0 then smmuenEffects s i (r.cr0.getLsbD 0) else s

/-! ## Attributes and interrupt enables -/

/-- An Update flag of an attribute register, or an interrupt enable, or a table enable, is pending. -/
def miscPending (s : State) (i : Sec) : Bool :=
  let r := s.iface i
  r.gbpa.getLsbD 31 || r.gmpam.getLsbD 31 || r.gbpmpam.getLsbD 31 || r.irqCtrl != r.irqCtrlAck ||
    r.hdbssBase0.getLsbD 63 != r.hdbssProd0.getLsbD 63 || r.hdbssBase1.getLsbD 63 != r.hdbssProd1.getLsbD 63 ||
    r.hacdbsBase.getLsbD 63 != r.hacdbsCons.getLsbD 63

/-- An attribute register takes effect and its Update flag is cleared (R181, R196). -/
def applied (v : BitVec 32) : BitVec 32 := putBit v 31 false

/-- The registers with Update flags and acknowledges other than CR0 (R181, R186, R196; 13_regs_tables_queues.md R275, R280). -/
def Iface.acknowledge (r : Iface) : Iface :=
  { r with
    gbpa := applied r.gbpa
    gbpaEff := if r.gbpa.getLsbD 31 then applied r.gbpa else r.gbpaEff
    gmpam := applied r.gmpam
    gmpamEff := if r.gmpam.getLsbD 31 then applied r.gmpam else r.gmpamEff
    gbpmpam := applied r.gbpmpam
    gbpmpamEff := if r.gbpmpam.getLsbD 31 then applied r.gbpmpam else r.gbpmpamEff
    irqCtrlAck := r.irqCtrl
    hdbssProd0 := putBit r.hdbssProd0 63 (r.hdbssBase0.getLsbD 63)
    hdbssProd1 := putBit r.hdbssProd1 63 (r.hdbssBase1.getLsbD 63)
    hacdbsCons := putBit r.hacdbsCons 63 (r.hacdbsBase.getLsbD 63) }

/-- Those Updates of an interface complete; a HACDBS that is enabled at its end raises the interrupt (28_httu.md R1349). -/
def updateMisc (s : State) (i : Sec) : State :=
  let started := (s.iface i).hacdbsBase.getLsbD 63 && !(s.iface i).hacdbsCons.getLsbD 63
  let s := s.setIface i Iface.acknowledge
  if started && hacdbsAtEnd (s.iface i) then raiseIrq s i .hacdbs else s

/-! ## ECMDQ and DCMDQ enables -/

/-- A CMD_ATC_INV of the DCMDQ is outstanding (27_queues.md R738). -/
def dcOutstanding (s : State) (i : Sec) (n : Nat) : Bool := s.atcInvs.any fun a => a.queue == .dcmdq i n && !a.timedOut

/-- One that timed out has not been reported (R738). -/
def dcTimedOut (s : State) (i : Sec) (n : Nat) : Bool := s.atcInvs.any fun a => a.queue == .dcmdq i n && a.timedOut

/-- An enable of the ECMDQ of global index n, or of its DCMDQ, can be acknowledged: the synthesized synchronization of a DCMDQ
waits for its CMD_ATC_INV (27_queues.md R722, R737, R738). -/
def ecmdqPending (s : State) (i : Sec) (n : Nat) : Bool :=
  match s.ecmdqAt i n with
  | none => false
  | some e =>
    e.dcEn != e.dcEnAck ||
      (e.prod.getLsbD 31 != e.cons.getLsbD 31 && !(!e.prod.getLsbD 31 && e.direct && dcOutstanding s i n))

/-- SYNTH_SYNC_ERR after the synthesized synchronization of a DCMDQ (R738; 15_regs_ecmdq_dcmdq.md R405). -/
def synthSync (e : Ecmdq) (timedOut : Bool) : Ecmdq :=
  { e with cons := putBit (putBit e.cons 20 timedOut) 21 e.msiAborted, msiAborted := false }

/-- The enables of the ECMDQ of global index n are acknowledged. -/
def updateEcmdq (s : State) (i : Sec) (n : Nat) : State :=
  match s.ecmdqAt i n with
  | none => s
  | some e =>
    let s := s.setEcmdq i n fun e => { e with dcEnAck := e.dcEn }
    if e.prod.getLsbD 31 then s.setEcmdq i n fun e => { e with cons := putBit e.cons 31 true }
    else if !e.cons.getLsbD 31 then s
    else if !e.direct then s.setEcmdq i n fun e => { e with cons := putBit e.cons 31 false }
    else if dcOutstanding s i n then s
    else
      let t := dcTimedOut s i n
      let s := { s with atcInvs := s.atcInvs.filter fun a => a.queue != QueueId.dcmdq i n }
      s.setEcmdq i n fun e => { synthSync e t with cons := putBit (synthSync e t).cons 31 false }

/-! ## Root Control Page, SMMU_S_INIT, PMCGs -/

/-- Something of the Root Control Page, or INV_ALL, is pending. -/
def rootPending (s : State) : Bool :=
  s.root.cr0 != s.root.cr0ack || s.root.tlbiCtrl.getLsbD 0 || s.sInit.getLsbD 0

/-- log2 of the bytes that SIZE of SMMU_ROOT_TLBI names; a reserved value is taken as 4KB (16_regs_root_realm.md R458). -/
def rootTlbiSize (v : BitVec 64) : Nat :=
  match fieldNat v 4 4 with
  | 1 => 14
  | 2 => 16
  | 3 => 21
  | 4 => 25
  | 5 => 29
  | 6 => 30
  | 7 => 34
  | 8 => 36
  | 9 => 39
  | _ => 12

/-- The invalidation that SMMU_ROOT_TLBI describes (R458): what meets the bytes from Address on, as many as SIZE says, also where
Address is not aligned to them, of which R458 says nothing (DESIGN CHOICE, log entry 35). -/
def rootTlbi (s : State) : State :=
  let v := s.root.tlbi
  if v.getLsbD 0 then dropGpt s none false
  else dropGpt s (some (v &&& maskAt 64 12 40, 2 ^ rootTlbiSize v)) (v.getLsbD 1)

/-- SMMU_S_INIT.INV_ALL: every cache is emptied, unless GPCEN is one; the GPT information only with RME (14_regs_secure.md
R362). -/
def invAll (s : State) : State :=
  if s.root.cr0ack.getLsbD 1 then s
  else { s with caches := { Caches.empty with gpt := if s.ids.rmeImpl then [] else s.caches.gpt } }

/-- They complete. -/
def updateRoot (s : State) : State :=
  let s := if s.root.tlbiCtrl.getLsbD 0 then rootTlbi s else s
  let s := if s.sInit.getLsbD 0 then invAll s else s
  { s with root := { s.root with cr0ack := s.root.cr0, tlbiCtrl := 0 }, sInit := 0 }

/-- A group has an Update that is not complete (17_regs_pmcg.md R543, R547). -/
def pmcgPending (p : Pmcg) : Bool := p.irqCtrl != p.irqCtrlAck || p.gmpam.getLsbD 31

/-- The Updates of a group complete: IRQEN going to one clears IRQ_ABT (R543, R547). -/
def updatePmcg (p : Pmcg) : Pmcg :=
  { p with
    irqCtrlAck := p.irqCtrl
    irqStatus := if p.irqCtrl.getLsbD 0 && !p.irqCtrlAck.getLsbD 0 then putBit p.irqStatus 0 false else p.irqStatus
    gmpam := applied p.gmpam
    gmpamEff := if p.gmpam.getLsbD 31 then applied p.gmpam else p.gmpamEff }

/-! ## All of them -/

/-- The interfaces. -/
def secs : List Sec := [.ns, .s, .rl]

/-- An Update can complete. -/
def updatePending (s : State) : Bool :=
  secs.any (fun i =>
    crPending s i || miscPending s i || (List.range (s.iface i).ecmdqs.length).any (ecmdqPending s i)) ||
  rootPending s || s.pmcgs.any pmcgPending

/-- The Updates of an interface complete. -/
def updateIface (s : State) (i : Sec) : State :=
  (List.range (s.iface i).ecmdqs.length).foldl (fun s n => updateEcmdq s i n) (updateMisc (updateCr s i) i)

/-- Every Update that can complete does. -/
def runUpdates (s : State) : State :=
  let s := updateRoot (secs.foldl updateIface s)
  { s with pmcgs := s.pmcgs.map updatePmcg }

end Sys2Proof.Machine
end

