-- ==== Sys2Proof/Machine/World.lean ====
section
/-! DEFINITION. What the SMMU does with each thing the world gives it (92_eei_decisions.md D2), and the performance events of
requests other than transactions (17_regs_pmcg.md R508). -/

namespace Sys2Proof.Machine

/-! ## Requests, counted -/

/-- An access without a StreamID, counted (R515). -/
def takeNoSid (s : State) (t : NoSidTxn) : State :=
  let s := if s.sfm then s.respond t.tag .abort else processNoSid s t
  noteRequest s (.noSid t.pas) s.reqMpam []

/-- A Translation Request, counted; in Service Failure Mode it is answered with CA (62_ras_mpam_mec.md R2654). -/
def takeTr (s : State) (r : AtsReq) : State :=
  let src : PmuSrc := .stream r.sec r.sid (r.arrive s.ids).pm
  let s := if s.sfm then s.send (.atsCompletion (.failed s.ids r .ca)) else processTr s r
  noteRequest s src s.reqMpam [6]

/-! ## Reset and Service Failure Mode -/

/-- A group with its registers at their reset values and its constants as they are. -/
def Pmcg.again (p : Pmcg) : Pmcg :=
  .reset p.cfgr p.iidr p.aidr p.mpamidr p.sMpamidr p.ceid0 p.ceid1 p.secure p.rootImpl p.idRegs

/-- Reset: every register at its reset value, stalled transactions terminated, queue processing discarded; memory is not
touched; the caches hold anything, here what they held (92_eei_decisions.md D7; 70_reset_and_hazards.md R2500, R2504; log
entries 1, 2 and 10). -/
def takeReset (s : State) : State :=
  let z := State.resetWith s.ids s.impl (s.pmcgs.map Pmcg.again) s.ns.ecmdqs.length s.sec.ecmdqs.length s.rlm.ecmdqs.length
    s.mem s.aborts s.inputs
  { z with
    caches := s.caches
    free := s.free
    outputs := s.outputs ++ s.stalls.filterMap fun x =>
      match x.what with
      | .txn t => some (.response t.tag .abort)
      | .dcmdq _ _ _ => none }

/-- Service Failure Mode is entered: SFM_ERR in SMMU_GERROR and SMMU_S_GERROR (62_ras_mpam_mec.md R2654). -/
def takeSfm (s : State) : State :=
  if s.sfm then s
  else
    let s := raiseGerror { s with sfm := true } .ns .sfm
    if s.ids.secureImpl then raiseGerror s .s .sfm else s

/-! ## Invalidate Completions -/

/-- The Invalidate Completion of an outstanding CMD_ATC_INV (26_ats_pri.md R1680; 43_cmd_ats_pri_dpt.md R2004). -/
def takeInvDone (s : State) (itag : Nat) : State :=
  { s with atcInvs := s.atcInvs.filter fun a => a.itag != itag || a.timedOut }

/-- The time-out of one (26_ats_pri.md R1680; 92_eei_decisions.md D60). -/
def takeInvTimeout (s : State) (itag : Nat) : State :=
  { s with atcInvs := s.atcInvs.map fun a => if a.itag = itag then { a with timedOut := true } else a }

/-- One input of the world. -/
def takeInput (s : State) : Input → State
  | .regRead pas off size => processRegRead s pas off size
  | .regWrite pas off size v => processRegWrite s pas off size v
  | .rootRead pas off size => processRootRead s pas off size
  | .rootWrite pas off size v => processRootWrite s pas off size v
  | .pmcgRead n page pas off size => processPmcgRead s n page pas off size
  | .pmcgWrite n page pas off size v => processPmcgWrite s n page pas off size v
  | .txn t => takeTxn s t
  | .noSid t => takeNoSid s t
  | .atsReq r => takeTr s r
  | .priReq r => processPri s r
  | .atsInvDone k => takeInvDone s k
  | .atsInvTimeout k => takeInvTimeout s k
  | .broadcastTlbi op => processBroadcast s op
  | .memWrite pas addr data => s.othersWrite pas addr data
  | .setAborts l => { s with aborts := l }
  | .pageHint r => processPageHint s r
  | .pmuEvent o => { s with pmuLog := s.pmuLog ++ [o] }
  | .pmcgCapture n => processCapture s n
  | .enterSfm => takeSfm s
  | .reset => takeReset s

end Sys2Proof.Machine
end

