-- ==== Sys2Proof/Machine/Scheduler.lean ====
section
/-! DEFINITION. What a step does: it takes an input of the world, or does a piece of internal work: a command of one queue,
the pending Updates, the retry of a stalled transaction, an ATOS operation, an entry of a HACDBS (92_eei_decisions.md D1, D2,
D12; log entry 5). -/

namespace Sys2Proof.Machine

/-! ## Commands -/

/-- A fetched command is run: a Reserved opcode, or a non-zero Reserved field where the implementation checks them, is
CERROR_ILL (30_encoding.md R1802, R1806, R1807; parameter cmdRes0Checked, log entry 2). -/
def runWord (s : State) (w : CmdWord) : Host.Outcome State Fault Refusal :=
  match decodeWord w with
  | .error _ => finish (.error .ill s)
  | .ok i => if s.impl.cmdRes0Checked && (encode i != w || res0Set s i) then finish (.error .ill s) else exec i s

/-- The command at CONS.RD of a queue whose fetches are physical is fetched and run; an external abort or granule
protection fault is CERROR_ABT (60_exceptions.md R2170). -/
def fetchRun (s : State) (q : QueueId) (r : QueueRegs) : Host.Outcome State Fault Refusal :=
  let s := { s with cur := q }
  let addr := s.entryAt r.base (cmdqLog2 s r.base) 4 r.cons
  match smmuRead s (s.cmdqAcc q) q.sec.pas addr 16 .cmdq with
  | (.error _, s) => finish (.error .abt s)
  | (.ok w, s) => runWord s (BitVec.ofNat 128 w)

/-- The input attributes of a DCMDQ's fetches: Normal Write-Back, Inner Shareable, Read-Allocate as its base register says
(27_queues.md R736). -/
def dcmdqFetchAttrs (base : BitVec 64) : Attrs :=
  let h : Hints := ⟨base.getLsbD 62, false, false⟩
  ⟨.normal .wb .wb, .ish, h, h⟩

/-- The command at CONS.RD of a DCMDQ is fetched through the translation of its qSID and run: a failed translation or a
granule protection fault is HERROR_IPA, an external abort of the fetch CERROR_ABT (27_queues.md R743, R744;
25_dpt_gpc.md R1614). -/
def fetchRunDirect (s : State) (i : Sec) (n : Nat) (r : QueueRegs) : Host.Outcome State Fault Refusal :=
  let s := { s with cur := .dcmdq i n }
  match dcmdqTranslate s i n (entryAddr r.base (cmdqLog2 s r.base) 4 r.cons) false (dcmdqFetchAttrs r.base) with
  | (.failed, s) => finish (.hsError .ipa s)
  | (.stalled, s) => .next s
  | (.done pa pas _ o, s) =>
    match smmuRead s o pas pa 16 .dcmdq with
    | (.error .gpf, s) => finish (.hsError .ipa s)
    | (.error .eabt, s) => finish (.error .abt s)
    | (.ok w, s) => runWord s (BitVec.ofNat 128 w)

/-- One command of a queue is fetched and run. -/
def runQueue (s : State) (q : QueueId) : Host.Outcome State Fault Refusal :=
  match s.queueRegs q with
  | none => .next s
  | some r =>
    match q with
    | .dcmdq i n => fetchRunDirect s i n r
    | q => fetchRun s q r

/-! ## Stalled transactions -/

/-- A stalled transaction whose event waits for the Event queue can be retried now (64_fault_model.md R2320; 11_regs_id.md
R105). -/
def stallRetryable (s : State) (x : Stall) : Bool :=
  !x.recorded && s.eventqWritable x.what.sec && decide ((s.stalls.filter (·.recorded)).length < s.ids.stallMax)

/-- The first such transaction or access is retried. -/
def retryStall (s : State) : State :=
  match s.stalls.find? (stallRetryable s) with
  | some x => retryAccess { s with stalls := s.stalls.erase x } x.what
  | none => s

/-! ## Scheduling -/

/-- A piece of internal work. -/
inductive Job where
  | queue (q : QueueId)
  | updates
  | stall
  | atos (g : AtosGroup)
  | hacdbs (i : Sec)
  deriving DecidableEq, Repr

/-- The ECMDQs and DCMDQs of an interface. -/
def ecmdqJobs (s : State) (i : Sec) : List Job :=
  (List.range (s.iface i).ecmdqs.length).flatMap fun n => [.queue (.ecmdq i n), .queue (.dcmdq i n)]

/-- All the internal work there may be. -/
def jobs (s : State) : List Job :=
  [.queue (.main .ns), .updates, .queue (.main .s), .queue (.main .rl), .stall, .atos .gatos, .atos .sGatos, .atos .vatos,
    .atos .sVatos, .hacdbs .ns, .hacdbs .s, .hacdbs .rl] ++ ecmdqJobs s .ns ++ ecmdqJobs s .s ++ ecmdqJobs s .rl

/-- The work can be done now. -/
def Job.ready (s : State) : Job → Bool
  | .queue q => s.canProgress q
  | .updates => updatePending s
  | .stall => s.stalls.any (stallRetryable s)
  | .atos g => !s.sfm && (s.atosRegs g).run
  | .hacdbs i => hacdbsReady s i

/-- The work is done. -/
def Job.run (s : State) : Job → Host.Outcome State Fault Refusal
  | .queue q => runQueue s q
  | .updates => .next (runUpdates s)
  | .stall => .next (retryStall s)
  | .atos g => .next (runAtos s g)
  | .hacdbs i => .next (runHacdbs s i)

/-- The work that is done next: the first that is ready, looked for from the place `turn` on, with the place after it
(27_queues.md R721: no order between queues; log entry 5). -/
def pickJob (s : State) : Option (Job × Nat) :=
  let l := (jobs s).zipIdx
  let t := s.turn % l.length
  (l.drop t ++ l.take t).find? fun p => p.1.ready s

/-- As many transactions are stalled as the implementation holds: the ingress port accepts no more (64_fault_model.md R2328;
parameter maxStalls, log entry 2). -/
def stallsFull (s : State) : Bool := decide (max 1 s.impl.maxStalls ≤ s.stalls.length)

/-- The SMMU accepts an input now. -/
def Input.accepted (s : State) : Input → Bool
  | .txn _ => !stallsFull s
  | _ => true

/-- The first input that is accepted, and the others. -/
def firstAccepted (s : State) : List Input → Option (Input × List Input)
  | [] => none
  | i :: l => if i.accepted s then some (i, l) else (firstAccepted s l).map fun p => (p.1, i :: p.2)

/-- The input that the next step takes, and those left. -/
def nextInput (s : State) : Option (Input × List Input) := firstAccepted s s.inputs

/-- The events of the step are counted. -/
def counted : Host.Outcome State Fault Refusal → Host.Outcome State Fault Refusal
  | .next s => .next (countLog s)
  | o => o

/-- A step: an input if one is accepted, else internal work, else nothing; what it makes count is counted. -/
def stepBody (s : State) : Host.Outcome State Fault Refusal :=
  let s := { s with outputs := [], reqMpam := none }
  match nextInput s with
  | some (i, rest) => counted (.next (takeInput { s with inputs := rest } i))
  | none =>
    match pickJob s with
    | some (j, n) => counted (j.run { s with turn := n + 1 })
    | none => counted (.next s)

end Sys2Proof.Machine
end

