-- ==== Sys2Proof/Machine/Step.lean ====
section
/-! DEFINITION. The step, and the placing of a command where the next step fetches it. -/

namespace Sys2Proof.Machine

/-- One step of the machine (92_eei_decisions.md D1). -/
def step (s : State) : Host.Outcome State Fault Refusal := stepBody s

/-- `s` with the command of `nbits` bits stored at the first entry of a Non-secure Command queue of one entry that is
enabled, not empty and without an active error; no input to take first, Root accesses enabled without granule protection
checks, no aborting region, and that queue the next work, so that the next step runs it (30_encoding.md R1805;
16_regs_root_realm.md R453; log entry 6). -/
def State.withFetchWord (s : State) (nbits w : Nat) : State :=
  { s with
    ns := { s.ns with
      cr0 := putBit s.ns.cr0 3 true
      cr0ack := putBit s.ns.cr0ack 3 true
      gerrorn := s.ns.gerror
      cmdq := { base := 0, prod := 1, cons := 0 } }
    root := { s.root with cr0 := 1, cr0ack := 1 }
    mem := s.mem.store .ns (s.entryAt 0 0 4 0) (natBytes 16 (w % 2 ^ nbits))
    aborts := []
    inputs := []
    cur := .main .ns
    turn := 0
    sfm := false }

end Sys2Proof.Machine
end

