-- ==== Sys2Proof/Safety.lean ====
section
/-! DEFINITION. Safe states and safe runs, and what an action leaves as it was, in the terms that statements use. -/

namespace Sys2Proof.Machine

/-! ## What an action may change -/

/-- The registers of an interface without those that a lookup made for a stream may change: GERROR, DPT_CFG_FAR and the
HDBSS_PROD registers. -/
def Iface.sansLookup (r : Iface) : Iface := { r with gerror := 0, dptFar := 0, hdbssProd0 := 0, hdbssProd1 := 0 }

/-- The registers of an interface without those, and without the PROD registers of the Event queue and the PRI queue. -/
def Iface.sansRecord (r : Iface) : Iface :=
  { r with
    gerror := 0, dptFar := 0, hdbssProd0 := 0, hdbssProd1 := 0
    eventq := { r.eventq with prod := 0 }
    priq := { r.priq with prod := 0 } }

/-- The Root Control Page without the syndromes of granule protection faults. -/
def RootRegs.sansFar (r : RootRegs) : RootRegs := { r with gpfFar := 0, gptCfgFar := 0 }

/-- A state without what the fetching of a configuration structure changes: the syndromes of granule protection faults, the
caches, the count of free values, the performance events noted with the PARTID and PMG of the request, and the outputs.
Registers of the interfaces and memory stay. -/
def State.sansFetch (s : State) : State :=
  { s with root := s.root.sansFar, caches := .empty, free := 0, pmuLog := [], reqMpam := none, outputs := [] }

/-- A state without what a lookup made for a stream may change: two states with the same value here agree on every other
register, on the stalled transactions, the outstanding invalidations and the inputs. -/
def State.sansLookup (s : State) : State :=
  { s with
    ns := s.ns.sansLookup, sec := s.sec.sansLookup, rlm := s.rlm.sansLookup, root := s.root.sansFar
    mem := [], caches := .empty, free := 0, pmuLog := [], reqMpam := none, outputs := [] }

/-- A state without that, and without what the recording of events and page requests changes. -/
def State.sansRecord (s : State) : State :=
  { s with
    ns := s.ns.sansRecord, sec := s.sec.sansRecord, rlm := s.rlm.sansRecord, root := s.root.sansFar
    mem := [], caches := .empty, free := 0, pmuLog := [], reqMpam := none, outputs := [] }

/-- A performance monitor group without what counting changes: counters, shadows, overflow status and MSI status. -/
def Pmcg.sansCount (p : Pmcg) : Pmcg :=
  { p with counters := p.counters.map fun c => { c with value := 0, shadow := 0 }, ovs := 0, irqStatus := 0 }

/-- A state without that, and without stalled transactions and what counting changes: what no client of the SMMU can change. -/
def State.sansClient (s : State) : State :=
  { s.sansRecord with stalls := [], pmcgs := s.pmcgs.map Pmcg.sansCount }

/-- An interface without what the commands of its queues change: the CONS registers of its Command queues and the errors of
its DCMDQ control pages. -/
def Iface.sansCommand (r : Iface) : Iface :=
  { r with
    cmdq := { r.cmdq with cons := 0 }
    ecmdqs := r.ecmdqs.map fun e => { e with cons := 0, msiAborted := false }
    dcmdqpErr := [] }

/-- A state without what commands change: also without the outstanding invalidations. -/
def State.sansCommand (s : State) : State :=
  { s.sansClient with
    ns := s.ns.sansRecord.sansCommand, sec := s.sec.sansRecord.sansCommand, rlm := s.rlm.sansRecord.sansCommand
    atcInvs := [], itag := 0, cur := .main .ns }

/-- The CONS register of the queue whose command is executed, its RD past the command, is all that is different from `s`. -/
def State.advanced (s : State) : State :=
  match s.queueRegs s.cur with
  | none => s
  | some r => s.setCons s.cur (indexAdvance · (cmdqLog2 s r.base))

end Sys2Proof.Machine

namespace Sys2Proof.Safety

open Sys2Proof.Machine

/-! ## Invariants -/

/-- The memory of a state is in canonical form. -/
def MemoryCanonical (s : State) : Prop := s.mem.wf = true

/-- Only flags that an interface has are ever one in its SMMU_(*_)GERROR and SMMU_(*_)GERRORN (12_regs_control.md R190). -/
def ErrorsPresent (s : State) : Prop :=
  ∀ (i : Sec) (n : Nat), ((s.iface i).gerror.getLsbD n = true ∨ (s.iface i).gerrorn.getLsbD n = true) →
    ∃ e : GErr, gerrBit e = n ∧ gerrPresent s.ids i e = true

/-- The stalled transactions whose event record is in an Event queue (64_fault_model.md R2315). -/
def recordedStalls (s : State) : List Stall := s.stalls.filter (·.recorded)

/-- No two recorded stalled transactions hold the same STAG, and STALL_MAX bounds their number (64_fault_model.md R2319;
11_regs_id.md R105). -/
def StallsBounded (s : State) : Prop :=
  ((recordedStalls s).map (·.stag)).Nodup ∧ (recordedStalls s).length ≤ s.ids.stallMax

/-- What every step keeps. -/
structure Inv (s : State) : Prop where
  memory : MemoryCanonical s
  errors : ErrorsPresent s
  stalls : StallsBounded s

/-- What is fixed for the machine is as it was: the identification registers and the parameters of the implementation
(10_state.md R60). -/
def FixedKept (s t : State) : Prop := t.ids = s.ids ∧ t.impl = s.impl

/-- Every register of two states is equal: of the three programming interfaces, the Root Control Page, ATOS and the
performance monitor groups, and those fixed for the machine. -/
structure SameRegisters (s t : State) : Prop where
  ids : t.ids = s.ids
  impl : t.impl = s.impl
  ns : t.ns = s.ns
  sec : t.sec = s.sec
  rlm : t.rlm = s.rlm
  root : t.root = s.root
  statusr : t.statusr = s.statusr
  sInit : t.sInit = s.sInit
  gatos : t.gatos = s.gatos
  sGatos : t.sGatos = s.sGatos
  vatos : t.vatos = s.vatos
  sVatos : t.sVatos = s.sVatos
  vatosSel : t.vatosSel = s.vatosSel
  sVatosSel : t.sVatosSel = s.sVatosSel
  pmcgs : t.pmcgs = s.pmcgs

/-- Every byte of memory reads in `t` as in `s`. -/
def SameMemory (s t : State) : Prop := ∀ (pas : Pas) (addr : DWord), t.byteAt pas addr = s.byteAt pas addr

/-- The address of the MSI of the GERROR interrupt of an interface (12_regs_control.md R191; 20_memory.md R620). -/
def gerrorMsiAddr (s : State) (i : Sec) : DWord := s.truncOas ((s.iface i).gerrorIrq.cfg0 &&& maskAt 64 2 54)

/-- A byte is none of the four that the MSI of an interrupt of an interface may store to (60_exceptions.md R2157). -/
def OutsideMsi (s : State) (i : Sec) (x : IrqSrc) (pas : Pas) (a : DWord) : Prop :=
  pas ≠ msiPas i (x.cfg (s.iface i)) ∨
    ∀ k < 4, a.toNat % 2 ^ 56 ≠ ((s.truncOas ((x.cfg (s.iface i)).cfg0 &&& maskAt 64 2 54)).toNat + k) % 2 ^ 56

/-- The GERROR interrupt of an interface sends an MSI (60_exceptions.md R2157). -/
def GerrorMsi (s : State) (i : Sec) : Prop :=
  (s.iface i).irqCtrlAck.getLsbD 0 = true ∧ s.ids.msi i = true ∧ (s.iface i).gerrorIrq.cfg0 &&& maskAt 64 2 54 ≠ 0

/-- At most a global error of an interface becomes active from `s` to `t`, and its interrupt is triggered (60_exceptions.md
R2175): no other interface changes; in this one only GERROR, in the flag of the error and that of an aborted GERROR MSI; memory
only in the four bytes of the MSI, and not at all if there is none; beside these what an access of the SMMU changes: granule
protection syndromes and GPT caching, counted events, and outputs. -/
structure OnlyGerror (s t : State) (i : Sec) (e : GErr) : Prop where
  rest : t.sansLookup = s.sansLookup
  others : ∀ j, j ≠ i → t.iface j = s.iface j
  iface : t.iface i = { s.iface i with gerror := (t.iface i).gerror }
  flags : ∀ k, k ≠ gerrBit e → k ≠ gerrBit .msiGerror → (t.iface i).gerror.getLsbD k = (s.iface i).gerror.getLsbD k
  memory : MemoryCanonical s → ∀ (pas : Pas) (x : DWord),
    (pas ≠ msiPas i (s.iface i).gerrorIrq ∨ ∀ k < 4, x.toNat % 2 ^ 56 ≠ ((gerrorMsiAddr s i).toNat + k) % 2 ^ 56) →
    t.byteAt pas x = s.byteAt pas x
  silent : ¬GerrorMsi s i ∨ gerrPresent s.ids i e = false ∨ gerrActive (s.iface i) e = true → SameMemory s t
  caches : ({ t.caches with gpt := [] } : Caches) = { s.caches with gpt := [] }

/-- An error of a DCMDQ is reported from `s` to `t`: if the error of its control page is not active, the page's bit of
SMMU_(*_)DCMDQP_ERRn is toggled and GERROR.DCMDQP_ERR becomes active; else nothing (27_queues.md R741, R742). -/
def PageReported (i : Sec) (n : Nat) (s t : State) : Prop :=
  let page := dcmdqPage s.ids i n
  if dcmdqPageActive (s.iface i) page = true then t = s
  else
    (gerrPresent s.ids i .dcmdqp = true → gerrActive (t.iface i) .dcmdqp = true) ∧
    OnlyGerror (s.setIface i fun r =>
      { r with dcmdqpErr := r.dcmdqpErr.modify (page / 64) fun v => toggleBit v (page % 64) }) t i .dcmdqp

/-- What is neither register, memory nor cache is as it was, but for free values and outputs: stalled transactions,
outstanding invalidations, the next ITag, Service Failure Mode, the inputs to come and the regions that abort. -/
structure SameRest (s t : State) : Prop where
  stalls : t.stalls = s.stalls
  atcInvs : t.atcInvs = s.atcInvs
  itag : t.itag = s.itag
  sfm : t.sfm = s.sfm
  inputs : t.inputs = s.inputs
  aborts : t.aborts = s.aborts
  cur : t.cur = s.cur
  turn : t.turn = s.turn
  pmuLog : t.pmuLog = s.pmuLog
  reqMpam : t.reqMpam = s.reqMpam

/-- From `s` to `t` a command was consumed that changes caches at most: RD of its queue is past it, every other register,
every byte of memory and the rest of the state are as they were, and nothing is sent but what consumption sends. -/
structure OnlyCaches (s t : State) : Prop where
  registers : SameRegisters s.advanced t
  memory : SameMemory s t
  rest : SameRest s t
  outputs : t.outputs = s.consume.outputs

/-! ## What commands do to caches -/

/-- `b` holds the members of `a` that are not `gone`, and no others. -/
def Left {α : Type} (a b : List α) (gone : α → Prop) : Prop := ∀ e, e ∈ b ↔ e ∈ a ∧ ¬gone e

/-- The TLB of `t` is that of `s` without entries in scope; where `must` does not hold entries in scope may be left. Every
other cache is as it was. -/
structure TlbInvalidated (s t : State) (must : Prop) (scope : TlbEntry → Prop) : Prop where
  old : ∀ e ∈ t.caches.tlb, e ∈ s.caches.tlb
  gone : must → ∀ e ∈ t.caches.tlb, ¬scope e
  kept : ∀ e ∈ s.caches.tlb, ¬scope e → e ∈ t.caches.tlb
  others : ({ t.caches with tlb := [] } : Caches) = { s.caches with tlb := [] }

/-- The range of an address-based TLBI command is aligned as its invalidation needs (42_cmd_tlbi.md R1905). -/
def RangeDefined (d : Ids) (rg : TlbiRange) (addr : DWord) : Prop := rangeUsed d rg = true → rangeAligned d rg addr = true

/-- The caches without those of a stream's structures. -/
def sansStreams (k : Caches) : Caches := { k with stes := [], l1stds := [], cds := [], l1cds := [], vmsBySid := [] }

/-- The caches without those of CIT and VSTT structures. -/
def sansVsid (k : Caches) : Caches := { k with cites := [], l1cits := [], vsttes := [], l1vstts := [] }

/-- An entry caches the structure that covers StreamID `sid` of a Security state. -/
def CachedFor (e : StreamEntry) (i : Sec) (sid : Nat) : Prop := e.sec = i ∧ e.sid.toNat / 2 ^ e.span = sid / 2 ^ e.span

/-- The caches of STEs, L1STDs, CDs, L1CDs and VMS information by StreamID without what is cached for the StreamIDs from `lo`
on, `n` of them; L1STDs only if `l1` holds. -/
structure StreamsInvalidated (a b : Caches) (i : Sec) (lo n : Nat) (l1 : Prop) : Prop where
  stes : Left a.stes b.stes fun e => ∃ x, lo ≤ x ∧ x < lo + n ∧ CachedFor e i x
  l1stds : Left a.l1stds b.l1stds fun e => l1 ∧ ∃ x, lo ≤ x ∧ x < lo + n ∧ CachedFor e i x
  cds : Left a.cds b.cds fun e => e.sec = i ∧ lo ≤ e.sid.toNat ∧ e.sid.toNat < lo + n
  l1cds : Left a.l1cds b.l1cds fun e => e.sec = i ∧ lo ≤ e.sid.toNat ∧ e.sid.toNat < lo + n
  vms : Left a.vmsBySid b.vmsBySid fun e => e.sec = i ∧ lo ≤ e.sid.toNat ∧ e.sid.toNat < lo + n

end Sys2Proof.Safety
end

