-- ==== Sys2Proof/Certificates/Slice0/Obligations.lean ====
section
/-! DEFINITION. The statements about the machine that are to be proved, one Prop each; OBLIGATIONS.json lists them. -/

open Sys2Proof Sys2Proof.Machine Sys2Proof.Safety

/-! ## Encoding (30_encoding.md) -/

/-- Decoding the bytes of every well-formed command gives it back, with every operand at every value: no bit of an encoding is
dropped (R1800 to R1803). -/
def Obligations.DecodeOfEncode : Prop := ∀ i : Instr, i.wellFormed = true → decode (encodeBytes i) = .ok i

/-- What a word decodes to is well-formed, and each bit of its own encoding stands in the word: a word differs from it in RES0
fields only (R1801, R1802). -/
def Obligations.EncodingStandsInTheWord : Prop :=
  ∀ (w : CmdWord) (i : Instr), decodeWord w = .ok i → i.wellFormed = true ∧ encode i &&& w = encode i

/-- Exactly these opcodes are commands (the list of R1801); every other one is CERROR_ILL (R1806). That 0x80 to 0x8F, which are
for IMPLEMENTATION DEFINED commands, are CERROR_ILL too is the spec's own decision D30 (R1807) and the model's choice to have no
such command (log entry 42). -/
def Obligations.OpcodesOfCommands : Prop :=
  ∀ w : CmdWord,
    ((∃ i, decodeWord w = .ok i) ↔ (w.extractLsb' 0 8).toNat ∈
      [0x01, 0x02, 0x03, 0x04, 0x05, 0x06, 0x07, 0x08, 0x09, 0x0A, 0x10, 0x11, 0x12, 0x13, 0x18, 0x1A, 0x20, 0x21, 0x22, 0x23,
       0x28, 0x29, 0x2A, 0x30, 0x40, 0x41, 0x44, 0x45, 0x46, 0x50, 0x51, 0x52, 0x53, 0x58, 0x59, 0x5A, 0x60, 0x70, 0x73]) ∧
    (decodeWord w = .error (.implementationDefined (w.extractLsb' 0 8)) ↔
      0x80 ≤ (w.extractLsb' 0 8).toNat ∧ (w.extractLsb' 0 8).toNat ≤ 0x8F) ∧
    (∀ s : State, (∀ i, decodeWord w ≠ .ok i) → runWord s w = .next (takeCmdError s .ill))

/-- Words written out from the encodings of the spec's rules decode to the commands they stand for. -/
def Obligations.SpecWordsDecode : Prop :=
  decodeWord 0x00000000000000000000002500003801#128 = .ok (.prefetchConfig false true 3 0x25) ∧
  decodeWord 0x00000000000000030000123400000004#128 = .ok (.cfgiSteRange false 0x1234 3) ∧
  decodeWord 0x000000000000001F0000DEAD00000004#128 = .ok (.cfgiAll false 0xDEAD) ∧
  decodeWord 0x00000000000000440000000900000009#128 = .ok (.cfgiVsttVsid 9 0x44) ∧
  decodeWord 0x00000000000107010042000100103012#128 = .ok (.tlbiNhVa 1 0x42 ⟨3, 1, false, 3, 1⟩ true 0x10) ∧
  decodeWord 0x00000000000020010007000000000022#128 = .ok (.tlbiEl2Va 7 ⟨0, 0, false, 0, 0⟩ true 2) ∧
  decodeWord 0x0000000800000003000000020000005A#128 = .ok (.tlbiSS2Ipa 2 true ⟨0, 0, false, 0, 0⟩ true 0x800000) ∧
  decodeWord 0x00000000400000000000030000002A40#128 = .ok (.atcInv true true 2 0x300 0 0x40000) ∧
  decodeWord 0x000000000000201F0000030000000041#128 = .ok (.priResp false 0 0x300 0x1F 2) ∧
  decodeWord 0x00000000000000170000000500001044#128 = .ok (.resume false true false 5 0x17) ∧
  decodeWord 0x0000000080001000CAFE00010F801046#128 = .ok (.sync 1 2 0xF 0xCAFE0001 0x20000400 false) ∧
  decodeWord 0x00000000802003010000000000000073#128 = .ok (.dptiPa true 3 0x80200)

/-- A step takes the first input that is accepted; if there is none it runs the work that is next, and for a command of a
queue that is no DCMDQ the command that the 16 bytes at CONS.RD decode to, in the state after the fetch, which reads exactly
those bytes; for a DCMDQ the 16 bytes at the address that the translation of its qSID gives (R1800, R1805; 27_queues.md R736,
R743); with neither, nothing. What the step did is counted (which input and which work comes next is the model's choice, log
entry 5). -/
def Obligations.StepRunsTheCommand : Prop :=
  (∀ (s : State) (i : Input) (rest : List Input), nextInput s = some (i, rest) →
    step s = counted (.next (takeInput { s with outputs := [], reqMpam := none, inputs := rest } i))) ∧
  (∀ s : State, nextInput s = none → pickJob { s with outputs := [], reqMpam := none } = none →
    step s = counted (.next { s with outputs := [], reqMpam := none })) ∧
  (∀ (s u : State) (q : QueueId) (n w : Nat) (r : QueueRegs) (i : Instr), nextInput s = none →
    pickJob { s with outputs := [], reqMpam := none } = some (.queue q, n) → q.isDirect = false → s.queueRegs q = some r →
    smmuRead { s with outputs := [], reqMpam := none, turn := n + 1, cur := q } (s.cmdqAcc q) q.sec.pas
      (s.entryAt r.base (cmdqLog2 s r.base) 4 r.cons) 16 .cmdq = (.ok w, u) →
    decodeWord (BitVec.ofNat 128 w) = .ok i →
    u.impl.cmdRes0Checked = false ∨ (encode i = BitVec.ofNat 128 w ∧ res0Set u i = false) →
    step s = counted (exec i u)) ∧
  (∀ (s u v : State) (j : Sec) (n m w : Nat) (r : QueueRegs) (i : Instr) (pa : DWord) (pas : Pas) (a : Attrs) (o : AccFrom),
    nextInput s = none →
    pickJob { s with outputs := [], reqMpam := none } = some (.queue (.dcmdq j n), m) → s.queueRegs (.dcmdq j n) = some r →
    dcmdqTranslate { s with outputs := [], reqMpam := none, turn := m + 1, cur := .dcmdq j n } j n
      (entryAddr r.base (cmdqLog2 s r.base) 4 r.cons) false (dcmdqFetchAttrs r.base) = (.done pa pas a o, u) →
    smmuRead u o pas pa 16 .dcmdq = (.ok w, v) →
    decodeWord (BitVec.ofNat 128 w) = .ok i →
    v.impl.cmdRes0Checked = false ∨ (encode i = BitVec.ofNat 128 w ∧ res0Set v i = false) →
    step s = counted (exec i v)) ∧
  (∀ (s u : State) (o : AccFrom) (pas : Pas) (addr : DWord) (c : FarCode) (w : Nat),
    smmuRead s o pas addr 16 c = (.ok w, u) →
    BitVec.ofNat 128 w = wordOfBytes ((List.range 16).map fun k => s.byteAt pas (addr + BitVec.ofNat 64 k)) ∧
      u.sansFetch = s.sansFetch)

/-! ## TLB invalidation (42_cmd_tlbi.md) -/

/-- CMD_TLBI_NH_ALL and CMD_TLBI_NH_ASID on a Command queue that is no DCMDQ: which entries go (R1910, R1911), that nothing
else changes but RD. R1900 lets more go: that nothing more goes is the model's choice (log entries 10 and 49). -/
def Obligations.TlbiNhByVmidAndAsid : Prop :=
  ∀ (s : State) (vmid asid : BitVec 16), s.ids.s1p = true → s.cur.isDirect = false →
    (∃ t, exec (.tlbiNhAll vmid) s = .next t ∧ OnlyCaches s t ∧
      TlbInvalidated s t True fun e =>
        e.world = el1World s.cur.sec ∧ e.stage = .s1 ∧ vmidMatches s s.cur.sec vmid e.vmid = true) ∧
    (∃ t, exec (.tlbiNhAsid vmid asid) s = .next t ∧ OnlyCaches s t ∧
      TlbInvalidated s t True fun e =>
        e.world = el1World s.cur.sec ∧ e.stage = .s1 ∧ vmidMatches s s.cur.sec vmid e.vmid = true ∧
          e.asid = some asid ∧ (s.ids.asid16 = true ∨ asid.toNat < 2 ^ 8))

/-- CMD_TLBI_NH_VA and CMD_TLBI_NH_VAA on a Command queue that is no DCMDQ (R1912, R1913); that nothing more goes is the
model's choice (log entries 10 and 49). -/
def Obligations.TlbiNhByAddress : Prop :=
  ∀ (s : State) (vmid asid : BitVec 16) (rg : TlbiRange) (leaf : Bool) (addr : BitVec 52),
    s.ids.s1p = true → s.cur.isDirect = false → rangeIll s.ids rg = false →
    (∃ t, exec (.tlbiNhVa vmid asid rg leaf addr) s = .next t ∧ OnlyCaches s t ∧
      TlbInvalidated s t (RangeDefined s.ids rg (vaOf addr)) fun e =>
        e.world = el1World s.cur.sec ∧ e.stage = .s1 ∧ vmidMatches s s.cur.sec vmid e.vmid = true ∧
          (e.asid = some asid ∨ e.asid = none) ∧ (s.ids.asid16 = true ∨ asid.toNat < 2 ^ 8) ∧
          addrMatches s.ids rg leaf (vaOf addr) e = true) ∧
    (∃ t, exec (.tlbiNhVaa vmid rg leaf addr) s = .next t ∧ OnlyCaches s t ∧
      TlbInvalidated s t (RangeDefined s.ids rg (vaOf addr)) fun e =>
        e.world = el1World s.cur.sec ∧ e.stage = .s1 ∧ vmidMatches s s.cur.sec vmid e.vmid = true ∧
          addrMatches s.ids rg leaf (vaOf addr) e = true)

/-- On a DCMDQ the VMID of CMD_TLBI_NH_* is replaced by that of the STE of the queue StreamID, which a lookup finds (R1910 to
R1913), and CMD_TLBI_NSNH_ALL is CMD_TLBI_NH_ALL with it, but CERROR_ILL for Secure state (R1931); that nothing more goes is the model's
choice (log entries 10 and 49). -/
def Obligations.TlbiNhOnDcmdq : Prop :=
  ∀ (s : State) (i : Sec) (n : Nat), s.cur = .dcmdq i n → s.ids.s1p = true →
    ∃ (v : BitVec 16) (u : State), dcmdqVmid s i n = (v, u) ∧ u.sansFetch = s.sansFetch ∧
      (∀ x w, s.takeFree = (x, w) → s.smmuEn i = true → ∀ ste r, lookupSte w i (qsidOf s.ids i n) true = (.ok ste, r) →
        s2vmidIgnored s.ids i ste = false → v = ste.s2vmid ∧ u = r) ∧
      (∀ vmid, ∃ t, exec (.tlbiNhAll vmid) s = .next t ∧ OnlyCaches u t ∧
        TlbInvalidated u t True fun e => e.world = el1World i ∧ e.stage = .s1 ∧ vmidMatches u i v e.vmid = true) ∧
      (∀ vmid asid, ∃ t, exec (.tlbiNhAsid vmid asid) s = .next t ∧ OnlyCaches u t ∧
        TlbInvalidated u t True fun e => e.world = el1World i ∧ e.stage = .s1 ∧ vmidMatches u i v e.vmid = true ∧
          e.asid = some asid ∧ (s.ids.asid16 = true ∨ asid.toNat < 2 ^ 8)) ∧
      (∀ vmid asid rg leaf addr, rangeIll s.ids rg = false →
        ∃ t, exec (.tlbiNhVa vmid asid rg leaf addr) s = .next t ∧ OnlyCaches u t ∧
          TlbInvalidated u t (RangeDefined s.ids rg (vaOf addr)) fun e =>
            e.world = el1World i ∧ e.stage = .s1 ∧ vmidMatches u i v e.vmid = true ∧
              (e.asid = some asid ∨ e.asid = none) ∧ (s.ids.asid16 = true ∨ asid.toNat < 2 ^ 8) ∧
              addrMatches s.ids rg leaf (vaOf addr) e = true) ∧
      (∀ vmid rg leaf addr, rangeIll s.ids rg = false →
        ∃ t, exec (.tlbiNhVaa vmid rg leaf addr) s = .next t ∧ OnlyCaches u t ∧
          TlbInvalidated u t (RangeDefined s.ids rg (vaOf addr)) fun e =>
            e.world = el1World i ∧ e.stage = .s1 ∧ vmidMatches u i v e.vmid = true ∧
              addrMatches s.ids rg leaf (vaOf addr) e = true) ∧
      (i ≠ .s → ∃ t, exec .tlbiNsnhAll s = .next t ∧ OnlyCaches u t ∧
        TlbInvalidated u t True fun e => e.world = el1World i ∧ e.stage = .s1 ∧ vmidMatches u i v e.vmid = true) ∧
      (i = .s → exec .tlbiNsnhAll s = .next (takeCmdError s .ill))

/-- CMD_TLBI_EL3_ALL and CMD_TLBI_EL3_VA on a Secure Command queue of an SMMU without RME (R1914, R1915); that nothing
more goes is the model's choice (log entries 10 and 49). -/
def Obligations.TlbiEl3 : Prop :=
  ∀ (s : State) (rg : TlbiRange) (leaf : Bool) (addr : BitVec 52), s.cur.sec = .s → s.cur.isDirect = false →
    s.ids.rmeImpl = false → s.ids.s1p = true → queueAccepts s .tlbi = true →
    (∃ t, exec .tlbiEl3All s = .next t ∧ OnlyCaches s t ∧ TlbInvalidated s t True fun e => e.world = .el3) ∧
    (rangeIll s.ids rg = false → ∃ t, exec (.tlbiEl3Va rg leaf addr) s = .next t ∧ OnlyCaches s t ∧
      TlbInvalidated s t (RangeDefined s.ids rg (vaOf addr)) fun e =>
        e.world = .el3 ∧ addrMatches s.ids rg leaf (vaOf addr) e = true)

/-- CMD_TLBI_EL2_ALL, _ASID, _VA and _VAA: the Non-secure regime from a Non-secure or Secure queue, the Realm one from the
Realm queue, by SMMU_(R_)CR2.E2H unless it was changed since SMMUEN was last Updated to one (R1916 to R1919; 12_regs_control.md
R172); that nothing more goes is the model's choice (log entries 10 and 49). -/
def Obligations.TlbiEl2 : Prop :=
  ∀ (s : State) (asid : BitVec 16) (rg : TlbiRange) (leaf : Bool) (addr : BitVec 52), s.ids.hyp = true →
    s.ids.s1p = true → s.cur.isDirect = false → queueAccepts s .tlbi = true →
    (∃ t, exec .tlbiEl2All s = .next t ∧ OnlyCaches s t ∧ TlbInvalidated s t True fun e =>
      if s.cur.sec = .rl then e.world = .realmEl2 ∨ e.world = .realmEl2E2h else e.world = .nsEl2 ∨ e.world = .nsEl2E2h) ∧
    (∃ t, exec (.tlbiEl2Asid asid) s = .next t ∧ OnlyCaches s t ∧ TlbInvalidated s t True fun e =>
      e.world = (if s.cur.sec = .rl then .realmEl2E2h else .nsEl2E2h) ∧ e.asid = some asid ∧
        (s.ids.asid16 = true ∨ asid.toNat < 2 ^ 8)) ∧
    (rangeIll s.ids rg = false → (s.iface (el2Sec s)).e2hUnknown = false →
      (∃ t, exec (.tlbiEl2Va asid rg leaf addr) s = .next t ∧ OnlyCaches s t ∧
        TlbInvalidated s t (RangeDefined s.ids rg (vaOf addr)) fun e => addrMatches s.ids rg leaf (vaOf addr) e = true ∧
          if s.e2h (el2Sec s) then
            e.world = (if s.cur.sec = .rl then .realmEl2E2h else .nsEl2E2h) ∧ (e.asid = some asid ∨ e.asid = none) ∧
              (s.ids.asid16 = true ∨ asid.toNat < 2 ^ 8)
          else e.world = (if s.cur.sec = .rl then .realmEl2 else .nsEl2)) ∧
      (∃ t, exec (.tlbiEl2Vaa rg leaf addr) s = .next t ∧ OnlyCaches s t ∧
        TlbInvalidated s t (RangeDefined s.ids rg (vaOf addr)) fun e => addrMatches s.ids rg leaf (vaOf addr) e = true ∧
          if s.e2h (el2Sec s) then e.world = (if s.cur.sec = .rl then .realmEl2E2h else .nsEl2E2h)
          else e.world = (if s.cur.sec = .rl then .realmEl2 else .nsEl2)))

/-- CMD_TLBI_S_EL2_ALL, _ASID, _VA and _VAA on a Secure queue with Secure EL2, by SMMU_S_CR2.E2H unless it was changed since
SMMUEN was last Updated to one (R1920 to R1923; 12_regs_control.md R172); that nothing more goes is the model's choice (log
entries 10 and 49). -/
def Obligations.TlbiSecureEl2 : Prop :=
  ∀ (s : State) (asid : BitVec 16) (rg : TlbiRange) (leaf : Bool) (addr : BitVec 52), s.cur.sec = .s →
    s.ids.sel2 = true → s.ids.s1p = true → s.cur.isDirect = false → queueAccepts s .tlbi = true →
    (∃ t, exec .tlbiSEl2All s = .next t ∧ OnlyCaches s t ∧ TlbInvalidated s t True fun e =>
      e.world = .sEl2 ∨ e.world = .sEl2E2h) ∧
    (∃ t, exec (.tlbiSEl2Asid asid) s = .next t ∧ OnlyCaches s t ∧ TlbInvalidated s t True fun e =>
      e.world = .sEl2E2h ∧ e.asid = some asid ∧ (s.ids.asid16 = true ∨ asid.toNat < 2 ^ 8)) ∧
    (rangeIll s.ids rg = false → s.sec.e2hUnknown = false →
      (∃ t, exec (.tlbiSEl2Va asid rg leaf addr) s = .next t ∧ OnlyCaches s t ∧
        TlbInvalidated s t (RangeDefined s.ids rg (vaOf addr)) fun e => addrMatches s.ids rg leaf (vaOf addr) e = true ∧
          if s.e2h .s then
            e.world = .sEl2E2h ∧ (e.asid = some asid ∨ e.asid = none) ∧ (s.ids.asid16 = true ∨ asid.toNat < 2 ^ 8)
          else e.world = .sEl2) ∧
      (∃ t, exec (.tlbiSEl2Vaa rg leaf addr) s = .next t ∧ OnlyCaches s t ∧
        TlbInvalidated s t (RangeDefined s.ids rg (vaOf addr)) fun e => addrMatches s.ids rg leaf (vaOf addr) e = true ∧
          if s.e2h .s then e.world = .sEl2E2h else e.world = .sEl2))

/-- CMD_TLBI_EL2_VA, _VAA and their Secure forms while the E2H in effect is UNKNOWN: the commands are consumed, and no entry
outside both regimes, or outside the address range, goes (R1918; 12_regs_control.md R172; log entry 7; that none outside goes is
the model's choice, log entries 10 and 49). The E2H in effect becomes UNKNOWN with a write of SMMU_(*_)CR2 that changes it, which
is possible while SMMUEN is zero, and is known again when SMMUEN is Updated to one (R170 to R172). -/
def Obligations.TlbiEl2WhileE2hUnknown : Prop :=
  (∀ (s : State) (i : Sec) (v : DWord),
    ((writeReg s i .cr2 v).iface i).e2hUnknown =
      ((s.iface i).e2hUnknown || (((writeReg s i .cr2 v).iface i).cr2.getLsbD 0 != (s.iface i).cr2.getLsbD 0)) ∧
    (crZero (s.iface i) 0 = false → ((writeReg s i .cr2 v).iface i).cr2 = (s.iface i).cr2) ∧
    ((s.iface i).cr0.getLsbD 0 = true → (s.iface i).cr0ack.getLsbD 0 = false →
      ((updateCr s i).iface i).e2hUnknown = false ∧ (updateCr s i).smmuEn i = true)) ∧
  ∀ (s : State) (asid : BitVec 16) (rg : TlbiRange) (leaf : Bool) (addr : BitVec 52), s.ids.s1p = true →
    s.cur.isDirect = false → queueAccepts s .tlbi = true → rangeIll s.ids rg = false →
    (s.ids.hyp = true → (s.iface (el2Sec s)).e2hUnknown = true →
      (∃ t, exec (.tlbiEl2Va asid rg leaf addr) s = .next t ∧ OnlyCaches s t ∧
        TlbInvalidated s t False fun e => addrMatches s.ids rg leaf (vaOf addr) e = true ∧
          (e.world = el2World (el2Sec s) ∨ e.world = el2E2hWorld (el2Sec s))) ∧
      (∃ t, exec (.tlbiEl2Vaa rg leaf addr) s = .next t ∧ OnlyCaches s t ∧
        TlbInvalidated s t False fun e => addrMatches s.ids rg leaf (vaOf addr) e = true ∧
          (e.world = el2World (el2Sec s) ∨ e.world = el2E2hWorld (el2Sec s)))) ∧
    (s.ids.sel2 = true → s.cur.sec = .s → s.sec.e2hUnknown = true →
      (∃ t, exec (.tlbiSEl2Va asid rg leaf addr) s = .next t ∧ OnlyCaches s t ∧
        TlbInvalidated s t False fun e => addrMatches s.ids rg leaf (vaOf addr) e = true ∧
          (e.world = .sEl2 ∨ e.world = .sEl2E2h)) ∧
      (∃ t, exec (.tlbiSEl2Vaa rg leaf addr) s = .next t ∧ OnlyCaches s t ∧
        TlbInvalidated s t False fun e => addrMatches s.ids rg leaf (vaOf addr) e = true ∧
          (e.world = .sEl2 ∨ e.world = .sEl2E2h)))

/-- CMD_TLBI_S12_VMALL and CMD_TLBI_S2_IPA: the Non-secure regime from a Non-secure or Secure queue, the Realm one from the
Realm queue (R1925, R1926). That nothing more goes, and that an IPA beyond the IAS, which may be out of range (R1925), takes
nothing, is the model's choice (log entries 10 and 49). -/
def Obligations.TlbiStage2 : Prop :=
  ∀ (s : State) (vmid : BitVec 16) (rg : TlbiRange) (leaf : Bool) (addr : BitVec 44), s.ids.s2p = true →
    s.cur.isDirect = false → queueAccepts s .tlbi = true →
    (∃ t, exec (.tlbiS12Vmall vmid) s = .next t ∧ OnlyCaches s t ∧ TlbInvalidated s t True fun e =>
      e.world = (if s.cur.sec = .rl then .realmEl1 else .nsEl1) ∧ vmidMatches s (s12Sec s) vmid e.vmid = true) ∧
    (rangeIll s.ids rg = false →
      ∃ t, exec (.tlbiS2Ipa vmid rg leaf addr) s = .next t ∧ OnlyCaches s t ∧
        TlbInvalidated s t (RangeDefined s.ids rg (paOf s.ids addr)) fun e =>
          (paOf s.ids addr).toNat < 2 ^ s.ids.ias ∧ e.world = (if s.cur.sec = .rl then .realmEl1 else .nsEl1) ∧ e.stage = .s2 ∧
            e.nsIpa = false ∧ vmidMatches s (s12Sec s) vmid e.vmid = true ∧ addrMatches s.ids rg leaf (paOf s.ids addr) e = true)

/-- CMD_TLBI_S_S12_VMALL and CMD_TLBI_S_S2_IPA on a Secure queue with Secure stage 2, the latter for the IPA space that NS
names (R1928, R1929). That nothing more goes, and that an IPA beyond the IAS takes nothing, is the model's choice (log entries
10 and 49). -/
def Obligations.TlbiSecureStage2 : Prop :=
  ∀ (s : State) (vmid : BitVec 16) (ns : Bool) (rg : TlbiRange) (leaf : Bool) (addr : BitVec 44), s.cur.sec = .s →
    s.ids.stage2Of .s = true → s.cur.isDirect = false → queueAccepts s .tlbi = true →
    (∃ t, exec (.tlbiSS12Vmall vmid) s = .next t ∧ OnlyCaches s t ∧ TlbInvalidated s t True fun e =>
      e.world = .secure ∧ vmidMatches s .s vmid e.vmid = true) ∧
    (rangeIll s.ids rg = false →
      ∃ t, exec (.tlbiSS2Ipa vmid ns rg leaf addr) s = .next t ∧ OnlyCaches s t ∧
        TlbInvalidated s t (RangeDefined s.ids rg (paOf s.ids addr)) fun e =>
          (paOf s.ids addr).toNat < 2 ^ s.ids.ias ∧ e.world = .secure ∧ e.stage = .s2 ∧ e.nsIpa = ns ∧
            vmidMatches s .s vmid e.vmid = true ∧ addrMatches s.ids rg leaf (paOf s.ids addr) e = true)

/-- CMD_TLBI_S2_VMALLW and CMD_TLBI_S_S2_VMALLW take the stage 2 dirty state from the entries of a VMID, and change nothing
else of any entry (R1927, R1930); that they take no entry is the model's choice (log entries 10 and 49). -/
def Obligations.TlbiDirtyState : Prop :=
  ∀ (s : State) (vmid : BitVec 16), s.ids.tlbiw = true → s.cur.isDirect = false → queueAccepts s .tlbi = true →
    (s.ids.s2p = true → ∃ t, exec (.tlbiS2Vmallw vmid) s = .next t ∧ OnlyCaches s t ∧
      t.caches = { s.caches with tlb := s.caches.tlb.map fun e =>
        if e.world = (if s.cur.sec = .rl then .realmEl1 else .nsEl1) ∧ vmidMatches s (s12Sec s) vmid e.vmid = true
        then { e with dirty := false } else e }) ∧
    (s.cur.sec = .s → s.ids.stage2Of .s = true → ∃ t, exec (.tlbiSS2Vmallw vmid) s = .next t ∧ OnlyCaches s t ∧
      t.caches = { s.caches with tlb := s.caches.tlb.map fun e =>
        if e.world = .secure ∧ vmidMatches s .s vmid e.vmid = true then { e with dirty := false } else e })

/-- CMD_TLBI_NSNH_ALL on a queue that is no DCMDQ, whichever stages there are, and CMD_TLBI_SNH_ALL on a Secure queue with
Secure stage 2 (R1931, R1932); that nothing more goes is the model's choice (log entries 10 and 49). -/
def Obligations.TlbiAllOfARegime : Prop :=
  ∀ s : State, s.cur.isDirect = false →
    (queueAccepts s .tlbiNsnh = true → ∃ t, exec .tlbiNsnhAll s = .next t ∧ OnlyCaches s t ∧
      TlbInvalidated s t True fun e => e.world = (if s.cur.sec = .rl then .realmEl1 else .nsEl1)) ∧
    (s.cur.sec = .s → s.ids.sel2 = true → queueAccepts s .tlbi = true →
      ∃ t, exec .tlbiSnhAll s = .next t ∧ OnlyCaches s t ∧ TlbInvalidated s t True fun e => e.world = .secure)

/-- What a VMID operand names: with 8-bit VMIDs an operand above 255 names nothing (R1901; that it is no error, and that nothing
more goes, is the model's choice: log entries 48 and 49); SMMU_(*_)CR0.VMW takes up to four low bits out of the comparison
(R1900; 31_tlb_tagging.md R1274); an entry without a VMID is named by 0. -/
def Obligations.VmidOperand : Prop :=
  ∀ (s : State) (i : Sec) (v : BitVec 16),
    (s.ids.vmid16 = false → 2 ^ 8 ≤ v.toNat → ∀ t, vmidMatches s i v t = false) ∧
    ((s.ids.vmid16 = true ∨ v.toNat < 2 ^ 8) → (vmidMatches s i v none = true ↔ v = 0) ∧
      ∀ e, vmidMatches s i v (some e) = true ↔ ∀ k, vmwBits s i ≤ k → e.getLsbD k = v.getLsbD k) ∧
    vmwBits s i ≤ 4 ∧ (s.ids.vmwImpl = false → vmwBits s i = 0)

/-- What an address operand without a range names: entries of any granule whose region holds the address, intermediate ones
only with Leaf zero (R1900, R1902). With a range: entries of the granule TG whose region meets the range (R1903), at the level
that TTL names, with the levels above it if Leaf is zero (R1904). -/
def Obligations.AddressOperand : Prop :=
  ∀ (d : Ids) (rg : TlbiRange) (leaf : Bool) (a : DWord) (e : TlbEntry),
    (rangeUsed d rg = false → (addrMatches d rg leaf a e = true ↔
      (e.isLeaf = true ∨ leaf = false) ∧ low56 e.va ≤ low56 a ∧ low56 a < low56 e.va + 2 ^ e.sizeLog2)) ∧
    (rangeUsed d rg = true → (addrMatches d rg leaf a e = true ↔
      e.tg = rg.tg ∧ low56 e.va < low56 a + (rg.num.toNat + 1) * 2 ^ scaleOf d rg * 2 ^ tgLog2 rg.tg ∧
        low56 a < low56 e.va + 2 ^ e.sizeLog2 ∧
        (ttlOf d rg = 0 → e.isLeaf = true ∨ leaf = false) ∧
        (ttlOf d rg ≠ 0 → if e.isLeaf then e.level = ttlOf d rg ∧ e.leaf.d128 = rg.ttl128
          else leaf = false ∧ e.level < ttlOf d rg)))

/-! ## Configuration invalidation (41_cmd_cfgi.md) -/

/-- CMD_CFGI_STE: the STE of the StreamID, its CDs, L1CDs and VMS information by StreamID are no longer cached; its L1STD only
with Leaf zero (R1872). CMD_CFGI_STE_RANGE: what is cached for the aligned block of 2^(Range+1) StreamIDs goes (R1873). That
nothing else goes is the model's choice (R1871 lets more go: log entries 10 and 49), and so is that a StreamID out of range has
no effect (among the outcomes of R1804: log entry 19). -/
def Obligations.CfgiSte : Prop :=
  (∀ (s : State) (ssec : Bool) (i : Sec) (sid : BitVec 32) (leaf : Bool), targetSec s ssec = some i →
    s.cur.isDirect = false → queueAccepts s .cfgi = true →
    ∃ t, exec (.cfgiSte ssec sid leaf) s = .next t ∧ OnlyCaches s t ∧
      (sidInRange s i sid = true → StreamsInvalidated s.caches t.caches i sid.toNat 1 (leaf = false) ∧
        sansStreams t.caches = sansStreams s.caches) ∧
      (sidInRange s i sid = false → t.caches = s.caches)) ∧
  ∀ (s : State) (ssec : Bool) (i : Sec) (sid : BitVec 32) (range : BitVec 5), range ≠ 31#5 → targetSec s ssec = some i →
    s.cur.isDirect = false → queueAccepts s .cfgi = true →
    ∃ t, exec (.cfgiSteRange ssec sid range) s = .next t ∧ OnlyCaches s t ∧
      StreamsInvalidated s.caches t.caches i (sid.toNat / 2 ^ (range.toNat + 1) * 2 ^ (range.toNat + 1)) (2 ^ (range.toNat + 1)) True ∧
      sansStreams t.caches = sansStreams s.caches

/-- The Event queues of the Security states are independent: an event, that of a stalled transaction too, changes no register of
another Security state's interface, and where the queue of its stream's state takes it that queue's PROD moves past it; no
transaction, Translation Request, Page Request or hint of a stream changes the Event queue registers of another state
(60_exceptions.md R2165). -/
def Obligations.EventQueuesAreIndependent : Prop :=
  (∀ (s : State) (ev : EvTxn) (e : Event),
    (∀ j, j ≠ ev.sec → (emitEvent s ev e).iface j = s.iface j) ∧
    ∀ r u v, s.recordOf ev e = (r, u) → u.eventqWritable ev.sec = true →
      smmuWrite u (u.ownAcc ev.sec .eventq) ev.sec.pas (u.entryAt (s.iface ev.sec).eventq.base
        (queueLog2 (s.iface ev.sec).eventq.base s.ids.eventqs) 5 (s.iface ev.sec).eventq.prod) (natBytes 32 r.toNat) .eventq =
          (none, v) →
      ((emitEvent s ev e).iface ev.sec).eventq = { (s.iface ev.sec).eventq with
        prod := indexAdvance (s.iface ev.sec).eventq.prod (queueLog2 (s.iface ev.sec).eventq.base s.ids.eventqs) }) ∧
  (∀ (s : State) (w : Stalled) (ev : EvTxn) (f : TrfInfo) (j : Sec), j ≠ w.sec → (stallAccess s w ev f).iface j = s.iface j) ∧
  ∀ (s t : State) (i : Input) (rest : List Input) (j : Sec), nextInput s = some (i, rest) →
    (∃ x, i = .txn x ∧ x.sec ≠ j) ∨ (∃ x, i = .atsReq x ∧ x.sec ≠ j) ∨ (∃ x, i = .priReq x ∧ x.sec ≠ j) ∨
      (∃ x, i = .pageHint x ∧ x.sec ≠ j) →
    step s = .next t → (t.iface j).eventq = (s.iface j).eventq

/-- CMD_CFGI_ALL: every configuration structure cached for the Security state goes, VMS information by VMID too, and with
DCMDQ support what is cached from CIT and VSTT (R1880); that nothing else goes, and TLBs stay, is the model's choice (log
entries 10 and 49). -/
def Obligations.CfgiAll : Prop :=
  ∀ (s : State) (ssec : Bool) (i : Sec) (sid : BitVec 32), targetSec s ssec = some i →
    s.cur.isDirect = false → queueAccepts s .cfgi = true →
    ∃ t, exec (.cfgiAll ssec sid) s = .next t ∧ OnlyCaches s t ∧
      Left s.caches.stes t.caches.stes (·.sec = i) ∧ Left s.caches.l1stds t.caches.l1stds (·.sec = i) ∧
      Left s.caches.cds t.caches.cds (·.sec = i) ∧ Left s.caches.l1cds t.caches.l1cds (·.sec = i) ∧
      Left s.caches.vmsBySid t.caches.vmsBySid (·.sec = i) ∧ Left s.caches.vmsByVmid t.caches.vmsByVmid (·.sec = i) ∧
      Left s.caches.cites t.caches.cites (fun e => s.ids.dcmdq i = true ∧ e.sec = i) ∧
      Left s.caches.l1cits t.caches.l1cits (fun e => s.ids.dcmdq i = true ∧ e.sec = i) ∧
      Left s.caches.vsttes t.caches.vsttes (fun e => s.ids.dcmdq i = true ∧ e.sec = i) ∧
      Left s.caches.l1vstts t.caches.l1vstts (fun e => s.ids.dcmdq i = true ∧ e.sec = i) ∧
      t.caches.tlb = s.caches.tlb ∧ t.caches.dpt = s.caches.dpt ∧ t.caches.gpt = s.caches.gpt

/-- CMD_CFGI_CD and CMD_CFGI_CD_ALL: the CD of a SubstreamID, its L1CD only with Leaf zero; all CDs and L1CDs of the stream
(R1874, R1875). That nothing else goes, and that out of range they have no effect, is the model's choice (log entries 10 and
49, 19). -/
def Obligations.CfgiCds : Prop :=
  ∀ (s : State) (ssec : Bool) (i : Sec) (ssid : BitVec 20) (sid : BitVec 32) (leaf : Bool), targetSec s ssec = some i →
    s.cur.isDirect = false → queueAccepts s .cfgi = true → s.ids.s1p = true →
    (∃ t, exec (.cfgiCd ssec ssid sid leaf) s = .next t ∧ OnlyCaches s t ∧
      (sidInRange s i sid = true → ssidInRange s ssid = true →
        Left s.caches.cds t.caches.cds (fun e => e.sec = i ∧ e.sid = sid ∧ e.idx = ssid.toNat) ∧
        Left s.caches.l1cds t.caches.l1cds (fun e => leaf = false ∧ e.sec = i ∧ e.sid = sid) ∧
        ({ t.caches with cds := [], l1cds := [] } : Caches) = { s.caches with cds := [], l1cds := [] }) ∧
      (sidInRange s i sid = false ∨ ssidInRange s ssid = false → t.caches = s.caches)) ∧
    (∃ t, exec (.cfgiCdAll ssec sid) s = .next t ∧ OnlyCaches s t ∧
      (sidInRange s i sid = true →
        Left s.caches.cds t.caches.cds (fun e => e.sec = i ∧ e.sid = sid) ∧
        Left s.caches.l1cds t.caches.l1cds (fun e => e.sec = i ∧ e.sid = sid) ∧
        ({ t.caches with cds := [], l1cds := [] } : Caches) = { s.caches with cds := [], l1cds := [] }) ∧
      (sidInRange s i sid = false → t.caches = s.caches))

/-- CMD_CFGI_VMS_PIDM: VMS information cached by VMID goes (R1876; 42_cmd_tlbi.md R1901); that nothing else goes is the
model's choice (log entries 10 and 49). -/
def Obligations.CfgiVmsPidm : Prop :=
  ∀ (s : State) (ssec : Bool) (i : Sec) (vmid : BitVec 16), targetSec s ssec = some i →
    s.cur.isDirect = false → queueAccepts s .cfgi = true → s.ids.mpamOf i = true → vmsSupported s.ids i = true →
    ∃ t, exec (.cfgiVmsPidm ssec vmid) s = .next t ∧ OnlyCaches s t ∧
      Left s.caches.vmsByVmid t.caches.vmsByVmid
        (fun e => e.sec = i ∧ e.vmid = vmid ∧ (s.ids.vmid16 = true ∨ vmid.toNat < 2 ^ 8)) ∧
      ({ t.caches with vmsByVmid := [] } : Caches) = { s.caches with vmsByVmid := [] }

/-- CMD_CFGI_CIT, CMD_CFGI_VSTT and CMD_CFGI_VSTT_VSID on a queue that is no DCMDQ, with vSID translation: what is cached from
the CIT, an L1CITD for all the qSIDs that it serves, and the VSTT of a qSID goes (R1877 to R1879). That nothing else goes, and
that out of range they have no effect, is the model's choice (log entries 10 and 49, 19). -/
def Obligations.CfgiVsid : Prop :=
  ∀ (s : State) (sid : BitVec 32) (vsid : BitVec 16), s.ids.vsid s.cur.sec = true → s.cur.isDirect = false →
    queueAccepts s .cfgi = true →
    (∃ t, exec (.cfgiCit sid) s = .next t ∧ OnlyCaches s t ∧ sansVsid t.caches = sansVsid s.caches ∧
      ∀ gone : VsidEntry → Prop,
        (∀ e, gone e ↔ sidInRange s s.cur.sec sid = true ∧ e.sec = s.cur.sec ∧
          e.qsid.toNat / 2 ^ e.span = sid.toNat / 2 ^ e.span) →
        Left s.caches.cites t.caches.cites gone ∧ Left s.caches.l1cits t.caches.l1cits gone ∧
        Left s.caches.vsttes t.caches.vsttes gone ∧ Left s.caches.l1vstts t.caches.l1vstts gone) ∧
    (∃ t, exec (.cfgiVstt sid) s = .next t ∧ OnlyCaches s t ∧ sansVsid t.caches = sansVsid s.caches ∧
      t.caches.cites = s.caches.cites ∧ t.caches.l1cits = s.caches.l1cits ∧
      ∀ gone : VsidEntry → Prop,
        (∀ e, gone e ↔ sidInRange s s.cur.sec sid = true ∧ e.sec = s.cur.sec ∧ e.qsid = sid) →
        Left s.caches.vsttes t.caches.vsttes gone ∧ Left s.caches.l1vstts t.caches.l1vstts gone) ∧
    (∃ t, exec (.cfgiVsttVsid sid vsid) s = .next t ∧ OnlyCaches s t ∧ sansVsid t.caches = sansVsid s.caches ∧
      t.caches.cites = s.caches.cites ∧ t.caches.l1cits = s.caches.l1cits ∧
      Left s.caches.vsttes t.caches.vsttes (fun e => sidInRange s s.cur.sec sid = true ∧
        vsid.toNat < 2 ^ s.ids.vsidSize s.cur.sec ∧ e.sec = s.cur.sec ∧ e.qsid = sid ∧ e.vsid = vsid.toNat) ∧
      Left s.caches.l1vstts t.caches.l1vstts (fun e => sidInRange s s.cur.sec sid = true ∧
        vsid.toNat < 2 ^ s.ids.vsidSize s.cur.sec ∧ e.sec = s.cur.sec ∧ e.qsid = sid))

/-! ## DPT, ATS and PRI (43_cmd_ats_pri_dpt.md) -/

/-- CMD_DPTI_ALL and CMD_DPTI_PA: the DPT information cached for the Security state goes, of CMD_DPTI_PA that of the entries
whose region meets the range, with Leaf one only those of the final level (R2010). R2011 guarantees that an entry is gone only
where SIZE is at least its region: that larger ones that meet the range go too, that nothing else goes, and that a Reserved
SIZE or a misaligned address, of which R2011 requires nothing, removes nothing, is the model's choice (log entries 10 and
50). -/
def Obligations.Dpti : Prop :=
  ∀ (s : State) (leaf : Bool) (size : BitVec 4) (addr : BitVec 44), dptiIll s = false →
    (∃ t, exec .dptiAll s = .next t ∧ OnlyCaches s t ∧
      Left s.caches.dpt t.caches.dpt (fun e => e.sec = (if s.cur.sec = .rl then .rl else .ns)) ∧
      ({ t.caches with dpt := [] } : Caches) = { s.caches with dpt := [] }) ∧
    (∃ t, exec (.dptiPa leaf size addr) s = .next t ∧ OnlyCaches s t ∧
      Left s.caches.dpt t.caches.dpt (fun e => e.sec = (if s.cur.sec = .rl then .rl else .ns) ∧
        ∃ n, dptiSize size.toNat = some n ∧ (s.truncOas (paOf s.ids addr)).toNat % 2 ^ n = 0 ∧ (leaf = true → e.isTable = false) ∧
          low56 e.base < low56 (s.truncOas (paOf s.ids addr)) + 2 ^ n ∧
          low56 (s.truncOas (paOf s.ids addr)) < low56 e.base + 2 ^ e.sizeLog2) ∧
      ({ t.caches with dpt := [] } : Caches) = { s.caches with dpt := [] })

/-- CMD_ATC_INV on a queue that is no DCMDQ: the Invalidation Request, its span aligned, its PASID and Global flag by SSV and
substream support; it is outstanding until it completes. Without ATS in the system, or with SMMUEN zero, it is IGNORED (R2001
to R2004). That SSV without substream support is taken as zero, one of the outcomes of R2002, is the model's choice (log entry
9), and so is that a StreamID or SubstreamID out of range has no effect (log entry 19). -/
def Obligations.AtcInv : Prop :=
  ∀ (s : State) (g ssv : Bool) (ssid : BitVec 20) (sid : BitVec 32) (size : BitVec 6) (addr : BitVec 52),
    s.cur.isDirect = false → atcIll s = false → size.toNat ≤ 52 →
    ∃ t, exec (.atcInv g ssv ssid sid size addr) s = .next t ∧ SameRegisters s.advanced t ∧ SameMemory s t ∧
      t.caches = s.caches ∧ SameRest s { t with atcInvs := s.atcInvs, itag := s.itag } ∧
      if s.impl.systemAts = true ∧ s.smmuEn s.cur.sec = true ∧ sidInRange s (atsSec s) sid = true ∧
          (ssv = true → s.ids.ssidSize ≠ 0 → ssidInRange s ssid = true) then
        t.atcInvs = s.atcInvs ++ [⟨s.itag, s.cur, false⟩] ∧ t.itag = s.itag + 1 ∧
        t.outputs = (s.send (.atsInvReq s.itag (if s.cur.sec = .rl then .rl else .ns) sid
          (if ssv = true ∧ s.ids.ssidSize ≠ 0 then some ssid else none) (g && ssv && s.ids.ssidSize != 0)
          (alignDown (vaOf addr) (12 + size.toNat)) size.toNat)).consume.outputs
      else t.atcInvs = s.atcInvs ∧ t.itag = s.itag ∧ t.outputs = s.consume.outputs

/-- CMD_PRI_RESP on a queue that is no DCMDQ: the PRG Response with its code and PASID; IGNORED without PRI in the system, or
with SMMUEN zero (R2005, R2006). That SSV without substream support is taken as zero, one of the outcomes of R2005, is the
model's choice (log entry 9), and so is that a StreamID or SubstreamID out of range has no effect (log entry 19). -/
def Obligations.PriResp : Prop :=
  ∀ (s : State) (ssv : Bool) (ssid : BitVec 20) (sid : BitVec 32) (prg : BitVec 9) (resp : BitVec 2),
    s.cur.isDirect = false → priIll s = false → resp ≠ 3 →
    ∃ t, exec (.priResp ssv ssid sid prg resp) s = .next t ∧ SameRegisters s.advanced t ∧ SameMemory s t ∧
      t.caches = s.caches ∧ SameRest s t ∧
      t.outputs =
        if s.impl.systemPri = true ∧ s.smmuEn s.cur.sec = true ∧ sidInRange s (atsSec s) sid = true ∧
            (ssv = true → s.ids.ssidSize ≠ 0 → ssidInRange s ssid = true) then
          (s.send (.prgResponse (if s.cur.sec = .rl then .rl else .ns) sid
            (if ssv = true ∧ s.ids.ssidSize ≠ 0 then some ssid else none) prg
            (if resp = 0 then PrgCode.failure.code else if resp = 1 then PrgCode.invalid.code
              else PrgCode.success.code))).consume.outputs
        else s.consume.outputs

/-- The StreamID of CMD_ATC_INV, CMD_PRI_RESP and the prefetch commands on a Non-secure or Realm DCMDQ is a virtual one: what
its translation gives decides whether the command acts on the pSID, is IGNORED, or is a hypervisor-serviced error (R2003,
R2006; 27_queues.md R755, R759; 40_cmd_prefetch.md R1852); with SMMUEN zero the prefetch commands are consumed and translate
nothing (12_regs_control.md R161). On a Secure DCMDQ, and on one whose ECMDQ_BASE.VSID is zero, CMD_ATC_INV and CMD_PRI_RESP
are CERROR_ILL (R2003, R2006) and the prefetch commands are IGNORED (R1852). That SSV without substream support is taken as
zero, and that a StreamID or SubstreamID out of range has no effect, is the model's choice (log entries 9 and 19). -/
def Obligations.VirtualStreamOperand : Prop :=
  (∀ (s : State) (i : Sec) (n : Nat) (ssec g ssv : Bool) (ssid : BitVec 20) (sid : BitVec 32) (size : BitVec 6)
    (addr : BitVec 52) (prg : BitVec 9) (resp : BitVec 2) (k stride : BitVec 5) (ns : Bool),
    s.cur = .dcmdq i n → i = .s ∨ vsidOn s i n = false →
    exec (.atcInv g ssv ssid sid size addr) s = .next (takeCmdError s .ill) ∧
    exec (.priResp ssv ssid sid prg resp) s = .next (takeCmdError s .ill) ∧
    (ssec = false ∨ i = .s → exec (.prefetchConfig ssec ssv ssid sid) s = .next s.consume ∧
      exec (.prefetchAddr ssec ssv ssid sid k stride ns addr) s = .next s.consume)) ∧
  ∀ (s u : State) (i : Sec) (n : Nat) (g ssv : Bool) (ssid : BitVec 20) (sid : BitVec 32) (size : BitVec 6)
    (addr : BitVec 52) (prg : BitVec 9) (resp : BitVec 2) (k stride : BitVec 5) (ns : Bool) (out : VsidOut),
    s.cur = .dcmdq i n → i ≠ .s → vsidOn s i n = true → vsidTranslate s i n sid = (out, u) →
    (atcIll s = false → atsIgnored s = false → size.toNat ≤ 52 →
      exec (.atcInv g ssv ssid sid size addr) s = .next (match out with
        | .psid p =>
          if sidInRange u i p && ((cmdPasid s.ids ssv ssid).map (ssidInRange u)).getD true then
            (sendAtcInv u p (cmdPasid s.ids ssv ssid) g size.toNat (vaOf addr)).consume
          else u.consume
        | .ignored => u.consume
        | .failed e => takeHsError u e)) ∧
    (priIll s = false → priIgnored s = false → ∀ c, respCode resp = some c →
      exec (.priResp ssv ssid sid prg resp) s = .next (match out with
        | .psid p =>
          if sidInRange u i p && ((cmdPasid s.ids ssv ssid).map (ssidInRange u)).getD true then
            (u.send (.prgResponse i p (cmdPasid s.ids ssv ssid) prg c.code)).consume
          else u.consume
        | .ignored => u.consume
        | .failed e => takeHsError u e)) ∧
    (s.smmuEn i = true →
      exec (.prefetchConfig false ssv ssid sid) s = .next (match out with
        | .psid p => (prefetchConfigAt u i p (if ssv then some ssid else none)).consume
        | .ignored => u.consume
        | .failed e => takeHsError u e) ∧
      exec (.prefetchAddr false ssv ssid sid k stride ns addr) s = .next (match out with
        | .psid p =>
          (if !sidInRange u i p then u
           else (prefetchAddrs u.ids k stride (vaOf addr)).foldl
             (prefetchAddrAt i p (if ssv then some ssid else none) ns) u).consume
        | .ignored => u.consume
        | .failed e => takeHsError u e)) ∧
    (s.smmuEn i = false →
      exec (.prefetchConfig false ssv ssid sid) s = .next s.consume ∧
      exec (.prefetchAddr false ssv ssid sid k stride ns addr) s = .next s.consume)

/-! ## Prefetch (40_cmd_prefetch.md) -/

/-- The prefetch commands on a queue that is no DCMDQ: consumed whatever configuration they meet, no event recorded, no
register changed but RD and what a lookup may change; memory only through the lookups themselves, and nothing at all with
SMMUEN zero or a StreamID out of range (R1850, R1852, R1853; log entry 19). -/
def Obligations.Prefetch : Prop :=
  ∀ (s : State) (ssec ssv : Bool) (i : Sec) (ssid : BitVec 20) (sid : BitVec 32) (size stride : BitVec 5) (ns : Bool)
    (addr : BitVec 52), targetSec s ssec = some i → s.cur.isDirect = false →
    (s.smmuEn i = true → sidInRange s i sid = true →
      (∃ t, exec (.prefetchConfig ssec ssv ssid sid) s = .next t ∧ t.sansLookup = s.advanced.sansLookup ∧
        SameMemory (prefetchConfigAt s i sid (if ssv then some ssid else none)) t) ∧
      (∃ t, exec (.prefetchAddr ssec ssv ssid sid size stride ns addr) s = .next t ∧
        t.sansLookup = s.advanced.sansLookup ∧
        SameMemory ((prefetchAddrs s.ids size stride (vaOf addr)).foldl
          (prefetchAddrAt i sid (if ssv then some ssid else none) ns) s) t)) ∧
    (s.smmuEn i = false ∨ sidInRange s i sid = false →
      exec (.prefetchConfig ssec ssv ssid sid) s = .next s.consume ∧
      exec (.prefetchAddr ssec ssv ssid sid size stride ns addr) s = .next s.consume ∧ OnlyCaches s s.consume ∧
      s.consume.caches = s.caches)

/-! ## Fault response and synchronization (44_cmd_fault_sync.md) -/

/-- CMD_RESUME with Ac zero ends the stalled transaction that StreamID, SSec and STAG name: with an abort if Ab is one or
TERM_MODEL is one, else as RAZ/WI; nothing else changes but RD (R2050, R2051; 64_fault_model.md R2317). A stalled access of a
DCMDQ ends through `endStall`, as the failed translation that `ErrorsOfADcmdq` tells of (DEDUCED, log entry 23). -/
def Obligations.ResumeTerminates : Prop :=
  ∀ (s : State) (ssec ab : Bool) (i : Sec) (sid : BitVec 32) (stag : BitVec 16) (x : Stall),
    targetSec s ssec = some i → stallIll s = false →
    s.stalls.find? (fun x => x.recorded && x.of i sid && x.stag == stag) = some x →
    (∀ q : Txn, x.what = .txn q →
      ∃ t, exec (.resume ssec false ab sid stag) s = .next t ∧ SameRegisters s.advanced t ∧ SameMemory s t ∧
        t.caches = s.caches ∧ SameRest s { t with stalls := s.stalls } ∧ t.stalls = s.stalls.erase x ∧
        t.outputs = (s.send (.response q.tag
          (if ab = true ∨ s.ids.termModel = true then .abort else .razWi))).consume.outputs) ∧
    exec (.resume ssec false ab sid stag) s = .next (endStall { s with stalls := s.stalls.erase x } x.what
      (if ab = true ∨ s.ids.termModel = true then .abort else .razWi)).consume

/-- CMD_RESUME with Ac one processes the transaction again as though it had just arrived, whatever Ab is (R2050; R2316), and lets
a DCMDQ fetch its command again (DEDUCED, log entry 23); no register that software configures changes, and no performance
counter is triggered where the implementation does not count retried transactions (17_regs_pmcg.md R508, log entry 2). -/
def Obligations.ResumeRetries : Prop :=
  ∀ (s : State) (ssec ab : Bool) (i : Sec) (sid : BitVec 32) (stag : BitVec 16) (x : Stall),
    targetSec s ssec = some i → stallIll s = false →
    s.stalls.find? (fun x => x.recorded && x.of i sid && x.stag == stag) = some x →
    ∃ t, exec (.resume ssec true ab sid stag) s = .next t ∧ t.sansClient = s.advanced.sansClient ∧
      ∃ u, u = (match x.what with
          | .txn q => processTxn { s with stalls := s.stalls.erase x } q
          | .dcmdq _ _ _ => { s with stalls := s.stalls.erase x }) ∧
        SameMemory u t ∧ t.caches = u.caches ∧ t.stalls = u.stalls ∧ t.outputs = u.consume.outputs ∧
        (s.impl.pmcgRetryCounts = false → t.pmuLog = s.pmuLog)

/-- CMD_RESUME that names no stalled transaction has no effect and is no error (R2051); while a stall of the stream has no
visible record it is a free choice whether that one is resumed (R2052). -/
def Obligations.ResumeOfNothing : Prop :=
  ∀ (s : State) (ssec ac ab : Bool) (i : Sec) (sid : BitVec 32) (stag : BitVec 16),
    targetSec s ssec = some i → stallIll s = false →
    (∀ x ∈ s.stalls, ¬(x.recorded = true ∧ x.of i sid = true ∧ x.stag = stag)) →
    (∃ t, exec (.resume ssec ac ab sid stag) s = .next t ∧
      ((∀ x ∈ s.stalls, x.recorded = false → ∃ q, x.what = .txn q) → t.sansClient = s.advanced.sansClient)) ∧
    ((∀ x ∈ s.stalls, x.of i sid = true → x.recorded = true) →
      exec (.resume ssec ac ab sid stag) s = .next s.consume ∧ OnlyCaches s s.consume ∧ s.consume.caches = s.caches)

/-- CMD_STALL_TERM where new transactions of the stream are terminated: every stalled transaction of the stream ends with an
abort, no other does, and nothing else changes but RD (R2054); elsewhere it is a free choice whether they end (R2055). A stalled
access of a DCMDQ ends through `endStall`, as the failed translation that `ErrorsOfADcmdq` tells of (DEDUCED, log entry 23). -/
def Obligations.StallTerm : Prop :=
  ∀ (s u : State) (ssec : Bool) (i : Sec) (sid : BitVec 32), targetSec s ssec = some i → stallIll s = false →
    (steTerminates s i sid = (true, u) →
      ∃ t, exec (.stallTerm ssec sid) s = .next t ∧ t.stalls = s.stalls.filter (fun x => !x.of i sid) ∧
        t = ((s.stalls.filter (·.of i sid)).foldl (fun s x => endStall s x.what .abort)
          { u with stalls := s.stalls.filter fun x => !x.of i sid }).consume ∧
        ((∀ x ∈ s.stalls, x.of i sid = true → ∃ q, x.what = .txn q) →
          ({ t with stalls := [] } : State).sansFetch = ({ s.advanced with stalls := [] } : State).sansFetch ∧
          t.outputs = (((s.stalls.filter (·.of i sid)).filterMap fun x =>
            match x.what with
            | .txn q => some (Output.response q.tag .abort)
            | .dcmdq _ _ _ => none).foldl State.send u).consume.outputs)) ∧
    (steTerminates s i sid = (false, u) →
      ∃ t, exec (.stallTerm ssec sid) s = .next t ∧
        (t.stalls = s.stalls ∨ t.stalls = s.stalls.filter fun x => !x.of i sid) ∧
        ((∀ x ∈ s.stalls, x.of i sid = true → ∃ q, x.what = .txn q) →
          ({ t with stalls := [] } : State).sansFetch = ({ s.advanced with stalls := [] } : State).sansFetch))

/-- CMD_SYNC that nothing holds back, SIG_NONE and SIG_SEV: it is consumed, sending a WFE wake-up event for SIG_SEV where
SEV is one, and changes nothing else (R2060, R2061). -/
def Obligations.SyncCompletes : Prop :=
  ∀ (s : State) (msh : BitVec 2) (attr : BitVec 4) (data : BitVec 32) (addr : BitVec 54) (ns : Bool),
    (∀ a ∈ s.atcInvs, a.queue ≠ s.cur) → msiPending s = false →
    (∃ t, exec (.sync 0 msh attr data addr ns) s = .next t ∧ OnlyCaches s t ∧ t.caches = s.caches) ∧
    (∃ t, exec (.sync 2 msh attr data addr ns) s = .next t ∧ SameRegisters s.advanced t ∧ SameMemory s t ∧ SameRest s t ∧
      t.caches = s.caches ∧ t.outputs = (if s.ids.sev then s.send .sev else s).consume.outputs)

/-- CMD_SYNC with SIG_IRQ on a queue that is no DCMDQ: the wired interrupt where there is one, whatever MSIAddress is, and
the 32-bit MSI where MSIs are supported and MSIAddress, without its RES0 bits, which the model ignores (log entry 9), is not
zero, little-endian at that address truncated to the OAS; an
aborted MSI is MSI_CMDQ_ABT_ERR, with what raising that error does and nothing more, and the CMD_SYNC still completes (R2061;
60_exceptions.md R2151, R2174, R2175). -/
def Obligations.SyncInterrupt : Prop :=
  ∀ (s : State) (msh : BitVec 2) (attr : BitVec 4) (data : BitVec 32) (addr : BitVec 54) (ns : Bool),
    s.cur.isDirect = false → (∀ a ∈ s.atcInvs, a.queue ≠ s.cur) →
    ∃ t, exec (.sync 1 msh attr data addr ns) s = .next t ∧ t.sansLookup = s.advanced.sansLookup ∧
      (s.impl.wiredInterrupts = true → .wire (.cmdq s.cur.sec) ∈ t.outputs) ∧
      (s.ids.msi s.cur.sec = false ∨ msiAddrOf s.ids addr = 0 →
        SameRegisters s.advanced t ∧ SameMemory s t ∧ SameRest s t ∧ t.caches = s.caches ∧
        t.outputs = (if s.impl.wiredInterrupts then s.send (.wire (.cmdq s.cur.sec)) else s).consume.outputs) ∧
      (s.ids.msi s.cur.sec = true → msiAddrOf s.ids addr ≠ 0 →
        ∀ a o, a = s.truncOas (msiAddrOf s.ids addr) →
          o = { s.ownAcc s.cur.sec .msiCmdq with type := (msiAttrs attr msh.toNat).mt } →
          (∀ u, smmuWrite s o (syncPas s.cur.sec ns) a (natBytes 4 data.toNat) .msiCmdq = (none, u) →
            t.mem = s.mem.store (syncPas s.cur.sec ns) a (natBytes 4 data.toNat) ∧
            t.sansFetch = ({ s.advanced with mem := t.mem } : State).sansFetch ∧
            .msi (syncPas s.cur.sec ns) a data (msiAttrs attr msh.toNat) .own ∈ t.outputs) ∧
          (∀ u e, smmuWrite s o (syncPas s.cur.sec ns) a (natBytes 4 data.toNat) .msiCmdq = (some e, u) →
            gerrActive (t.iface s.cur.sec) .msiCmdq = true ∧ OnlyGerror s.advanced t s.cur.sec .msiCmdq))

/-- CMD_SYNC with SIG_IRQ on a DCMDQ: without an MSI it is consumed; an MSI address that does not translate is HERROR_IPA and
the CMD_SYNC is not consumed, nor if the translation stalls; an MSI that is aborted is reported by the next CMD_SYNC as
HERROR_MSI_ABT (R2069; 27_queues.md R735, R743, R745). -/
def Obligations.SyncOnDcmdq : Prop :=
  ∀ (s : State) (i : Sec) (n : Nat) (msh : BitVec 2) (attr : BitVec 4) (data : BitVec 32) (addr : BitVec 54) (ns : Bool),
    s.cur = .dcmdq i n → (∀ a ∈ s.atcInvs, a.queue ≠ s.cur) →
    (msiPending s = true → ∀ cs : BitVec 2, cs ≠ 3 → exec (.sync cs msh attr data addr ns) s =
      .next (takeHsError (s.setEcmdq i n fun e => { e with msiAborted := false }) .msiAbt)) ∧
    (msiPending s = false → s.ids.msi i = false ∨ msiAddrOf s.ids addr = 0 →
      ∃ t, exec (.sync 1 msh attr data addr ns) s = .next t ∧ OnlyCaches s t ∧ t.caches = s.caches) ∧
    (msiPending s = false → s.ids.msi i = true → msiAddrOf s.ids addr ≠ 0 → ∀ u,
      (dcmdqTranslate s i n (msiAddrOf s.ids addr) true (msiAttrs attr msh.toNat) = (.failed, u) →
        exec (.sync 1 msh attr data addr ns) s = .next (takeHsError u .ipa)) ∧
      (dcmdqTranslate s i n (msiAddrOf s.ids addr) true (msiAttrs attr msh.toNat) = (.stalled, u) →
        exec (.sync 1 msh attr data addr ns) s = .next u ∧ u.sansClient = s.sansClient) ∧
      (∀ pa pas a o, dcmdqTranslate s i n (msiAddrOf s.ids addr) true (msiAttrs attr msh.toNat) = (.done pa pas a o, u) →
        ∀ v, (sendMsi u o pas pa data a (.dcmdq i (qsidOf u.ids i n)) .msiCmdq = (false, v) →
            exec (.sync 1 msh attr data addr ns) s = .next v.consume) ∧
          (sendMsi u o pas pa data a (.dcmdq i (qsidOf u.ids i n)) .msiCmdq = (true, v) →
            exec (.sync 1 msh attr data addr ns) s =
              .next (v.setEcmdq i n fun e => { e with msiAborted := true }).consume)))

/-- CMD_SYNC waits, and changes nothing, while a CMD_ATC_INV of its queue is outstanding (R2062, R2004); one that timed out
is CERROR_ATC_INV_SYNC: the CMD_SYNC is not consumed, and those that timed out are no longer outstanding (R2068). -/
def Obligations.SyncAndAtcInv : Prop :=
  ∀ (s : State) (cs msh : BitVec 2) (attr : BitVec 4) (data : BitVec 32) (addr : BitVec 54) (ns : Bool),
    cs ≠ 3 → msiPending s = false → (∃ a ∈ s.atcInvs, a.queue = s.cur) →
    ((∀ a ∈ s.atcInvs, a.queue = s.cur → a.timedOut = false) → exec (.sync cs msh attr data addr ns) s = .next s) ∧
    ((∃ a ∈ s.atcInvs, a.queue = s.cur ∧ a.timedOut = true) →
      exec (.sync cs msh attr data addr ns) s = .next (takeCmdError
        { s with atcInvs := s.atcInvs.filter fun a => !(a.queue == s.cur && a.timedOut) } .atcInvSync))

/-! ## Command errors (30_encoding.md, 60_exceptions.md part C) -/

/-- Commands of the Secure regimes are CERROR_ILL on Non-secure and Realm queues (42_cmd_tlbi.md R1914, R1920, R1928 to R1930,
R1932), and so is SSec one; on the Secure queue SSec tells the Security state of a StreamID (30_encoding.md R1803). -/
def Obligations.SecureCommandsNeedSecureQueue : Prop :=
  ∀ (s : State) (v a : BitVec 16) (rg : TlbiRange) (l b c : Bool) (x : BitVec 52) (y : BitVec 44) (ssid : BitVec 20)
    (sid : BitVec 32) (r k : BitVec 5),
    (s.cur.sec ≠ .s →
      ∀ i ∈ [Instr.tlbiEl3All, .tlbiEl3Va rg l x, .tlbiSEl2All, .tlbiSEl2Asid a, .tlbiSEl2Va a rg l x, .tlbiSEl2Vaa rg l x,
        .tlbiSS12Vmall v, .tlbiSS2Vmallw v, .tlbiSS2Ipa v b rg l y, .tlbiSnhAll, .prefetchConfig true b ssid sid,
        .prefetchAddr true b ssid sid r k c x, .cfgiSte true sid l, .cfgiSteRange true sid r, .cfgiAll true sid,
        .cfgiCd true ssid sid l, .cfgiCdAll true sid, .cfgiVmsPidm true v, .resume true b c sid a, .stallTerm true sid],
      exec i s = .next (takeCmdError s .ill)) ∧
    (s.cur.sec = .s → targetSec s true = some .s ∧ targetSec s false = some .ns) ∧
    (s.cur.sec = .ns → targetSec s false = some .ns ∧ targetSec s true = none) ∧
    (s.cur.sec = .rl → targetSec s false = some .rl ∧ targetSec s true = none)

/-- The commands that a DCMDQ does not take are CERROR_ILL there (41_cmd_cfgi.md R1872 to R1880; 42_cmd_tlbi.md R1914 to R1930;
43_cmd_ats_pri_dpt.md R2010; 44_cmd_fault_sync.md R2051, R2054), and so are on a Restricted ECMDQ those that SMMU_(*_)IDR2 does
not advertise: CMD_CFGI_*, the TLB invalidations but CMD_TLBI_NH_* and outside Secure state CMD_TLBI_NSNH_ALL, CMD_ATC_INV,
CMD_PRI_RESP, CMD_DPTI_*, CMD_RESUME and CMD_STALL_TERM (11_regs_id.md R102; 14_regs_secure.md R353; 16_regs_root_realm.md
R468; 27_queues.md R750). -/
def Obligations.CommandsIllegalOnDcmdq : Prop :=
  ∀ (s : State) (v a : BitVec 16) (rg : TlbiRange) (l b c : Bool) (x : BitVec 52) (y : BitVec 44) (ssid : BitVec 20)
    (sid : BitVec 32) (r : BitVec 5) (z : BitVec 4) (p : BitVec 9) (f : BitVec 2) (n : BitVec 6),
    (∀ q k, s.cur = .ecmdq q k → s.ids.recmdq q = true →
      ((s.ids.idr2Of q).getLsbD 31 = false →
        ∀ i ∈ [Instr.cfgiSte c sid l, .cfgiSteRange c sid r, .cfgiAll c sid, .cfgiCd c ssid sid l, .cfgiCdAll c sid,
          .cfgiVmsPidm c v, .cfgiCit sid, .cfgiVstt sid, .cfgiVsttVsid sid v], exec i s = .next (takeCmdError s .ill)) ∧
      ((s.ids.idr2Of q).getLsbD 30 = false →
        (∀ i ∈ [Instr.tlbiEl3All, .tlbiEl3Va rg l x, .tlbiEl2All, .tlbiEl2Asid a, .tlbiEl2Va a rg l x, .tlbiEl2Vaa rg l x,
          .tlbiSEl2All, .tlbiSEl2Asid a, .tlbiSEl2Va a rg l x, .tlbiSEl2Vaa rg l x, .tlbiS12Vmall v, .tlbiS2Vmallw v,
          .tlbiS2Ipa v rg l y, .tlbiSS12Vmall v, .tlbiSS2Vmallw v, .tlbiSS2Ipa v b rg l y, .tlbiSnhAll],
          exec i s = .next (takeCmdError s .ill)) ∧
        (q = .s → exec .tlbiNsnhAll s = .next (takeCmdError s .ill))) ∧
      ((s.ids.idr2Of q).getLsbD 29 = false → exec (.atcInv c b ssid sid n x) s = .next (takeCmdError s .ill)) ∧
      ((s.ids.idr2Of q).getLsbD 28 = false → exec (.priResp b ssid sid p f) s = .next (takeCmdError s .ill)) ∧
      ((s.ids.idr2Of q).getLsbD 27 = false →
        ∀ i ∈ [Instr.dptiAll, .dptiPa l z y], exec i s = .next (takeCmdError s .ill)) ∧
      ((s.ids.idr2Of q).getLsbD 26 = false →
        ∀ i ∈ [Instr.resume c b l sid a, .stallTerm c sid], exec i s = .next (takeCmdError s .ill))) ∧
    (s.cur.isDirect = true →
    ∀ i ∈ [Instr.cfgiSte c sid l, .cfgiSteRange c sid r, .cfgiAll c sid, .cfgiCd c ssid sid l, .cfgiCdAll c sid,
      .cfgiVmsPidm c v, .cfgiCit sid, .cfgiVstt sid, .cfgiVsttVsid sid v, .tlbiEl3All, .tlbiEl3Va rg l x, .tlbiEl2All,
      .tlbiEl2Asid a, .tlbiEl2Va a rg l x, .tlbiEl2Vaa rg l x, .tlbiSEl2All, .tlbiSEl2Asid a, .tlbiSEl2Va a rg l x,
      .tlbiSEl2Vaa rg l x, .tlbiS12Vmall v, .tlbiS2Vmallw v, .tlbiS2Ipa v rg l y, .tlbiSS12Vmall v, .tlbiSS2Vmallw v,
      .tlbiSS2Ipa v b rg l y, .tlbiSnhAll, .dptiAll, .dptiPa l z y, .resume c b l sid a, .stallTerm c sid],
    exec i s = .next (takeCmdError s .ill))

/-- Reserved parameters are CERROR_ILL: an address-based TLBI command with TG not zero and NUM, SCALE and TTL zero
(42_cmd_tlbi.md R1903), CS 0b11 (44_cmd_fault_sync.md R2061), Resp 0b11 (43_cmd_ats_pri_dpt.md R2005), and in this model a
Size of CMD_ATC_INV above 52 (R2001; log entry 9). -/
def Obligations.ReservedParameters : Prop :=
  ∀ (s : State) (v a : BitVec 16) (rg : TlbiRange) (l b g : Bool) (x : BitVec 52) (y : BitVec 44) (ssid : BitVec 20)
    (sid w : BitVec 32) (m : BitVec 2) (z : BitVec 4) (p : BitVec 9) (q : BitVec 54) (n : BitVec 6),
    (s.ids.ril = true → rg.tg ≠ 0 → rg.num = 0 → scaleOf s.ids rg = 0 → ttlOf s.ids rg = 0 →
      ∀ i ∈ [Instr.tlbiNhVa v a rg l x, .tlbiNhVaa v rg l x, .tlbiEl3Va rg l x, .tlbiEl2Va a rg l x, .tlbiEl2Vaa rg l x,
        .tlbiSEl2Va a rg l x, .tlbiSEl2Vaa rg l x, .tlbiS2Ipa v rg l y, .tlbiSS2Ipa v b rg l y],
      exec i s = .next (takeCmdError s .ill)) ∧
    exec (.sync 3 m z w q b) s = .next (takeCmdError s .ill) ∧
    exec (.priResp b ssid sid p 3) s = .next (takeCmdError s .ill) ∧
    (52 < n.toNat → exec (.atcInv g b ssid sid n x) s = .next (takeCmdError s .ill))

/-- Commands of a feature that the SMMU does not have are CERROR_ILL: stage 1 (42_cmd_tlbi.md R1906; 41_cmd_cfgi.md R1874,
R1875), EL2, Secure EL2, stage 2, CMD_TLBI_S(_S)2_VMALLW, EL3 with RME (42_cmd_tlbi.md R1914, R1916, R1920, R1925, R1927,
R1928), vSID translation (41_cmd_cfgi.md R1877), MPAM or the VMS of the interface that SSec names (R1876), DPT, ATS and PRI (43_cmd_ats_pri_dpt.md R2003, R2006, R2010), the Stall
model, never there for Realm (44_cmd_fault_sync.md R2051, R2054). -/
def Obligations.MissingFeatures : Prop :=
  ∀ (s : State) (v a : BitVec 16) (rg : TlbiRange) (l b c g : Bool) (x : BitVec 52) (y : BitVec 44) (ssid : BitVec 20)
    (sid : BitVec 32) (z : BitVec 4) (p : BitVec 9) (r : BitVec 2) (n : BitVec 6),
    (s.ids.s1p = false →
      ∀ i ∈ [Instr.tlbiNhAll v, .tlbiNhAsid v a, .tlbiNhVa v a rg l x, .tlbiNhVaa v rg l x, .tlbiEl3All, .tlbiEl3Va rg l x,
        .tlbiEl2All, .tlbiEl2Asid a, .tlbiEl2Va a rg l x, .tlbiEl2Vaa rg l x, .tlbiSEl2All, .tlbiSEl2Asid a,
        .tlbiSEl2Va a rg l x, .tlbiSEl2Vaa rg l x, .cfgiCd c ssid sid l, .cfgiCdAll c sid],
      exec i s = .next (takeCmdError s .ill)) ∧
    (s.ids.hyp = false → ∀ i ∈ [Instr.tlbiEl2All, .tlbiEl2Asid a, .tlbiEl2Va a rg l x, .tlbiEl2Vaa rg l x],
      exec i s = .next (takeCmdError s .ill)) ∧
    (s.ids.sel2 = false → ∀ i ∈ [Instr.tlbiSEl2All, .tlbiSEl2Asid a, .tlbiSEl2Va a rg l x, .tlbiSEl2Vaa rg l x, .tlbiSnhAll],
      exec i s = .next (takeCmdError s .ill)) ∧
    (s.ids.s2p = false → ∀ i ∈ [Instr.tlbiS12Vmall v, .tlbiS2Vmallw v, .tlbiS2Ipa v rg l y],
      exec i s = .next (takeCmdError s .ill)) ∧
    (s.ids.stage2Of .s = false → ∀ i ∈ [Instr.tlbiSS12Vmall v, .tlbiSS2Vmallw v, .tlbiSS2Ipa v b rg l y],
      exec i s = .next (takeCmdError s .ill)) ∧
    (s.ids.tlbiw = false → ∀ i ∈ [Instr.tlbiS2Vmallw v, .tlbiSS2Vmallw v], exec i s = .next (takeCmdError s .ill)) ∧
    (s.ids.rmeImpl = true → ∀ i ∈ [Instr.tlbiEl3All, .tlbiEl3Va rg l x], exec i s = .next (takeCmdError s .ill)) ∧
    ((∀ i, targetSec s c = some i → s.ids.mpamOf i = false ∨ vmsSupported s.ids i = false) →
      exec (.cfgiVmsPidm c v) s = .next (takeCmdError s .ill)) ∧
    (s.ids.vsid s.cur.sec = false → ∀ i ∈ [Instr.cfgiCit sid, .cfgiVstt sid, .cfgiVsttVsid sid v],
      exec i s = .next (takeCmdError s .ill)) ∧
    (s.ids.dpt (if s.cur.sec = .rl then .rl else .ns) = false ∨ (s.cur.sec = .s ∧ s.ids.sams = true) → ∀ i ∈ [Instr.dptiAll, .dptiPa l z y], exec i s = .next (takeCmdError s .ill)) ∧
    ((s.cur.sec = .rl ∧ s.ids.atsOf .rl = false) ∨ (s.cur.sec ≠ .rl ∧ s.ids.ats = false) ∨
        (s.cur.sec = .s ∧ s.ids.sams = true) → exec (.atcInv g b ssid sid n x) s = .next (takeCmdError s .ill)) ∧
    ((s.cur.sec = .rl ∧ s.ids.priOf .rl = false) ∨ (s.cur.sec ≠ .rl ∧ s.ids.pri = false) ∨
        (s.cur.sec = .s ∧ s.ids.sams = true) → exec (.priResp b ssid sid p r) s = .next (takeCmdError s .ill)) ∧
    (s.stallModel s.cur.sec = 1 ∨ s.cur.sec = .rl → ∀ i ∈ [Instr.resume c b l sid a, .stallTerm c sid], exec i s = .next (takeCmdError s .ill))

/-- A command error of the Command queue of an interface: CONS keeps RD and holds the code, CMDQ_ERR is active, and nothing is
consumed from that queue in the state that follows; nothing else changes but what the GERROR interrupt changes: memory stays
outside the four bytes of its MSI, and whole where no MSI is sent, and every other interface stays (60_exceptions.md R2170,
R2171, R2175). -/
def Obligations.CommandErrorOfTheQueue : Prop :=
  ∀ (s : State) (i : Sec) (e : CmdErr), s.cur = .main i →
    ((takeCmdError s e).iface i).cmdq = { (s.iface i).cmdq with
      cons := ((takeCmdError s e).iface i).cmdq.cons } ∧
    (∀ k, k < 24 ∨ k = 31 → ((takeCmdError s e).iface i).cmdq.cons.getLsbD k = (s.iface i).cmdq.cons.getLsbD k) ∧
    fieldNat ((takeCmdError s e).iface i).cmdq.cons 24 7 = e.code ∧
    gerrActive ((takeCmdError s e).iface i) .cmdq = true ∧
    (takeCmdError s e).canProgress (.main i) = false ∧
    OnlyGerror (s.setCons s.cur fun c => putField c 24 7 e.code) (takeCmdError s e) i .cmdq

/-- A command error of an ECMDQ: its CONS keeps RD, holds the reason and has ERR toggled, CMDQP_ERR is active where the
interface has it, and nothing is consumed from it if no error was active; the error state of the Command queue is as it was,
and nothing else changes but what the GERROR interrupt changes (27_queues.md R723). -/
def Obligations.CommandErrorOfAnEcmdq : Prop :=
  ∀ (s : State) (i : Sec) (n : Nat) (q : Ecmdq) (e : CmdErr), s.cur = .ecmdq i n → s.ecmdqAt i n = some q →
    ∃ c, (takeCmdError s e).ecmdqAt i n = some { q with cons := c } ∧
      (∀ k, k < 23 ∨ 27 ≤ k → c.getLsbD k = q.cons.getLsbD k) ∧ c.getLsbD 23 = !q.cons.getLsbD 23 ∧
      fieldNat c 24 3 = e.code ∧
      (gerrPresent s.ids i .cmdqp = true → gerrActive ((takeCmdError s e).iface i) .cmdqp = true) ∧
      (q.errActive = false → (takeCmdError s e).canProgress (.ecmdq i n) = false) ∧
      gerrActive ((takeCmdError s e).iface i) .cmdq = gerrActive (s.iface i) .cmdq ∧
      OnlyGerror (s.setCons s.cur fun c => putField (toggleBit c 23) 24 3 e.code) (takeCmdError s e) i .cmdqp

/-- An error of a DCMDQ: a command error toggles ERR, a hypervisor-serviced one HS_ERR, with its reason; RD stays; nothing
is consumed from it if no error was active (27_queues.md R741 to R743; 15_regs_ecmdq_dcmdq.md R405). With it, if no error of
its control page is active, the bit of the page in SMMU_(*_)DCMDQP_ERRn is toggled and GERROR.DCMDQP_ERR is active, never
CMDQP_ERR, with its interrupt; while one is active nothing is reported (R741, R742). A stalled access of a DCMDQ that is
terminated is HERROR_IPA, if the DCMDQ is enabled and has no hypervisor-serviced error (DEDUCED, log entry 23). -/
def Obligations.ErrorsOfADcmdq : Prop :=
  ∀ (s : State) (i : Sec) (n : Nat) (q : Ecmdq) (e : CmdErr) (h : HsErr), s.cur = .dcmdq i n → s.ecmdqAt i n = some q →
    (∃ c, (takeCmdError s e).ecmdqAt i n = some { q with cons := c } ∧
      (∀ k, k < 23 ∨ 27 ≤ k → c.getLsbD k = q.cons.getLsbD k) ∧ c.getLsbD 23 = !q.cons.getLsbD 23 ∧
      fieldNat c 24 3 = e.code ∧ (q.errActive = false → (takeCmdError s e).canProgress (.dcmdq i n) = false)) ∧
    (∃ c, (takeHsError s h).ecmdqAt i n = some { q with cons := c } ∧
      (∀ k, k < 22 ∨ (22 < k ∧ k < 27) ∨ 30 ≤ k → c.getLsbD k = q.cons.getLsbD k) ∧ c.getLsbD 22 = !q.cons.getLsbD 22 ∧
      fieldNat c 27 3 = h.code ∧ (q.hsErrActive = false → (takeHsError s h).canProgress (.dcmdq i n) = false)) ∧
    PageReported i n (s.setCons s.cur fun c => putField (toggleBit c 23) 24 3 e.code) (takeCmdError s e) ∧
    PageReported i n (s.setCons s.cur fun c => putField (toggleBit c 22) 27 3 h.code) (takeHsError s h) ∧
    (∀ (qsid : BitVec 32) (r : Response), endStall s (.dcmdq i n qsid) r =
      if q.dcEnabled = true ∧ q.hsErrActive = false then takeHsError s .ipa else s)

/-- A fetch that is aborted, a Reserved opcode and a Reserved field where the implementation checks them are errors of the queue
(30_encoding.md R1802, R1806; 60_exceptions.md R2170); on a DCMDQ a fetch whose translation fails, or that a granule protection
check stops, is HERROR_IPA, one that stalls waits, and an external abort is CERROR_ABT (27_queues.md R735, R743, R744;
25_dpt_gpc.md R1614). The opcodes 0x80 to 0x8F are CERROR_ILL too by the spec's own decision D30 (R1807) and the model's choice
to have no IMPLEMENTATION DEFINED command (log entry 42). -/
def Obligations.FetchErrors : Prop :=
  (∀ (s u : State) (q : QueueId) (r : QueueRegs) (e : MemErr), q.isDirect = false → s.queueRegs q = some r →
    smmuRead { s with cur := q } (s.cmdqAcc q) q.sec.pas (s.entryAt r.base (cmdqLog2 s r.base) 4 r.cons) 16 .cmdq =
      (.error e, u) →
    runQueue s q = .next (takeCmdError u .abt)) ∧
  (∀ (s u v : State) (i : Sec) (n : Nat) (r : QueueRegs) (out : DcmdqOut), s.queueRegs (.dcmdq i n) = some r →
    dcmdqTranslate { s with cur := .dcmdq i n } i n (entryAddr r.base (cmdqLog2 s r.base) 4 r.cons) false
      (dcmdqFetchAttrs r.base) = (out, u) →
    (out = .failed → runQueue s (.dcmdq i n) = .next (takeHsError u .ipa)) ∧
    (out = .stalled → runQueue s (.dcmdq i n) = .next u) ∧
    (∀ pa pas a o e, out = .done pa pas a o → smmuRead u o pas pa 16 .dcmdq = (.error e, v) →
      runQueue s (.dcmdq i n) = .next (if e = .gpf then takeHsError v .ipa else takeCmdError v .abt))) ∧
  (∀ (s : State) (w : CmdWord) (e : DecodeError), decodeWord w = .error e → runWord s w = .next (takeCmdError s .ill)) ∧
  (∀ (s : State) (w : CmdWord) (i : Instr), decodeWord w = .ok i → s.impl.cmdRes0Checked = true →
    encode i ≠ w ∨ res0Set s i = true →
    runWord s w = .next (takeCmdError s .ill)) ∧
  (∀ (s : State) (w : CmdWord) (i : Instr), decodeWord w = .ok i →
    s.impl.cmdRes0Checked = false ∨ (encode i = w ∧ res0Set s i = false) →
    runWord s w = exec i s)

/-- Acknowledging an error restarts its queue, at the same command. Command queue: a write to SMMU_(*_)GERRORN of the value of
SMMU_(*_)GERROR leaves no error active and the queue may progress, in Non-secure, Secure and Realm state (60_exceptions.md
R2172, R2175; 12_regs_control.md R190). ECMDQ: a write to ECMDQ_PRODn that toggles ERRACK (27_queues.md R723). DCMDQ: one to
DCMDQ_PRODn that toggles ERRACK, or one to ECMDQ_PRODn that toggles HS_ERRACK (R742). -/
def Obligations.AcknowledgeRestartsTheQueue : Prop :=
  (∀ s : State, ErrorsPresent s → s.sfm = false → s.cmdqEn .ns = true → s.hasCommand s.ns.cmdq = true →
    (processRegWrite s .ns 0x64 4 (s.ns.gerror.setWidth 64)).ns = { s.ns with gerrorn := s.ns.gerror } ∧
    (processRegWrite s .ns 0x64 4 (s.ns.gerror.setWidth 64)).canProgress (.main .ns) = true) ∧
  (∀ (s : State) (i : Sec) (off : Nat), ErrorsPresent s → regAt s.ids off = some ⟨off, 4, .iface i .gerrorn⟩ → off % 4 = 0 →
    (processRegWrite s i.pas off 4 ((s.iface i).gerror.setWidth 64)).iface i =
      { s.iface i with gerrorn := (s.iface i).gerror } ∧
    (s.sfm = false → s.ids.present i = true → s.cmdqEn i = true → s.hasCommand (s.iface i).cmdq = true →
      (processRegWrite s i.pas off 4 ((s.iface i).gerror.setWidth 64)).canProgress (.main i) = true)) ∧
  (∀ (s : State) (i : Sec) (n off : Nat) (q : Ecmdq), s.ecmdqAt i n = some q → q.enabled = true → q.direct = false →
    regAt s.ids off = some ⟨off, 4, .ecmdq i n 1⟩ → off % 4 = 0 → q.errActive = true →
    (processRegWrite s i.pas off 4 ((toggleBit q.prod 23).setWidth 64)).ecmdqAt i n =
      some { q with prod := toggleBit q.prod 23 } ∧
    (s.sfm = false → s.ids.ecmdq i = true ∨ s.ids.recmdq i = true →
      s.hasCommand ⟨q.base, toggleBit q.prod 23, q.cons⟩ = true →
      (processRegWrite s i.pas off 4 ((toggleBit q.prod 23).setWidth 64)).canProgress (.ecmdq i n) = true)) ∧
  (∀ (s : State) (i : Sec) (n off k : Nat) (q : Ecmdq), s.ecmdqAt i n = some q → q.dcActive = true → q.dcEnabled = true →
    s.ids.dcmdq i = true → off % 4 = 0 → s.directStalled i n = false → s.sfm = false →
    (k = 23 ∧ regAt s.ids off = some ⟨off, 4, .dcmdq i n 1⟩ ∧ q.errActive = true ∧ q.hsErrActive = false) ∨
      (k = 22 ∧ regAt s.ids off = some ⟨off, 4, .ecmdq i n 1⟩ ∧ q.errActive = false ∧ q.hsErrActive = true) →
    s.hasCommand ⟨q.base, toggleBit q.prod k, q.cons⟩ = true →
    (processRegWrite s i.pas off 4 ((toggleBit q.prod k).setWidth 64)).ecmdqAt i n =
      some { q with prod := toggleBit q.prod k } ∧
    (processRegWrite s i.pas off 4 ((toggleBit q.prod k).setWidth 64)).canProgress (.dcmdq i n) = true)

/-! ## Invariants and what no action may change -/

/-- The machine after reset meets the invariant: memory in canonical form, no error flag that the interface does not have, no
stalled transaction recorded. -/
def Obligations.ResetMeetsTheInvariant : Prop := Inv State.reset

/-- Every step from every state answers a next state, changes no identification register and no parameter of the
implementation, and keeps the invariant: the canonical form of memory, that only flags an interface has are ever one in its
GERROR and GERRORN, that no two recorded stalled transactions share an STAG, and that STALL_MAX bounds their number (10_state.md
R60; 12_regs_control.md R190; 64_fault_model.md R2319; 11_regs_id.md R105). -/
def Obligations.StepKeepsTheInvariant : Prop :=
  ∀ s : State, ∃ t, step s = .next t ∧ FixedKept s t ∧ (Inv s → Inv t)

/-- No command changes a register that software configures: every command answers a next state, and beside the CONS registers
of Command queues, errors, event and page request records and stalled transactions only caches, counters and memory differ
(30_encoding.md R1806, R1808). -/
def Obligations.CommandsKeepConfiguration : Prop :=
  ∀ (i : Instr) (s : State), ∃ t, exec i s = .next t ∧ t.sansCommand = s.sansCommand

/-- No client of the SMMU changes a register that software configures: a step that takes a transaction, an access without a
StreamID, a Translation Request, a Page Request or a page hint leaves every register but the PROD registers of the output
queues, GERROR, syndromes and performance counters as it was, and no command queue's state (65_security_states.md R2401). -/
def Obligations.ClientsKeepConfiguration : Prop :=
  ∀ (s t : State) (i : Input) (rest : List Input), nextInput s = some (i, rest) →
    (∃ x, i = .txn x) ∨ (∃ x, i = .noSid x) ∨ (∃ x, i = .atsReq x) ∨ (∃ x, i = .priReq x) ∨ (∃ x, i = .pageHint x) →
    step s = .next t → t.sansClient = ({ s with inputs := rest } : State).sansClient

/-! ## Registers, reset, memory -/

/-- The Root Control Page answers no access that is not a Root access, and none without ROOT_IMPL: a read gives zero, a write
changes nothing (16_regs_root_realm.md R450); only what earlier accesses left to be counted is counted. -/
def Obligations.RootPageIsRootOnly : Prop :=
  ∀ (s : State) (rest : List Input) (pas : Pas) (off size : Nat) (v : DWord), pas ≠ .root ∨ s.ids.rootImpl = false →
    (nextInput s = some (.rootRead pas off size, rest) →
      step s = counted (.next { s with inputs := rest, reqMpam := none, outputs := [.regValue 0] })) ∧
    (nextInput s = some (.rootWrite pas off size v, rest) →
      step s = counted (.next { s with inputs := rest, reqMpam := none, outputs := [] }))

/-- The SMMU_S_* registers, those of the 32KB from 0x8000 among them, answer no access that is neither Secure nor Root, Non-secure
and Realm accesses (65_security_states.md R2407; 14_regs_secure.md R350; 10_state.md R63) and in this model those of the
Protected and System Agent spaces (log entry 17): a read gives zero, a write changes nothing, but that one made as two accesses
takes a free value for their order (the model's choice, log entry 7), and what earlier accesses left to be counted is counted;
SMMU_S_INIT is excepted here (R2407). -/
def Obligations.SecureRegistersAreSecureOnly : Prop :=
  (∀ (d : Ids) (off : Nat) (p : RegPlace RegTarget), 0x8000 ≤ off → off < 0x10000 → regAt d off = some p → p.reg.sec = .s) ∧
  (∀ (s : State) (rest : List Input) (p : RegPlace RegTarget) (pas : Pas) (off size : Nat) (v : DWord),
    regAt s.ids off = some p → p.reg.sec = .s → p.reg ≠ .iface .s .sInit → pas ≠ .s → pas ≠ .root →
    (nextInput s = some (.regRead pas off size, rest) →
      step s = counted (.next { s with inputs := rest, reqMpam := none, outputs := [.regValue 0] })) ∧
    (nextInput s = some (.regWrite pas off size v, rest) →
      ∃ k, step s = counted (.next { s with inputs := rest, reqMpam := none, outputs := [], free := k }) ∧
        (s.impl.reg64Atomic = true → k = s.free)))

/-- Reset: SMMUEN, PRIQEN, EVENTQEN and CMDQEN zero in every interface, no error, no interrupt enabled, the Root Control Page
without Root accesses; memory, identification and parameters stay (70_reset_and_hazards.md R2500, R2504; 12_regs_control.md
R190). That the HACDBS and HDBSS interrupt enables are among those that are zero is decision D40 (log entry 8); that stalled
transactions end with an abort (log entry 51) and that the caches hold what they held (log entry 10) is the model's choice. -/
def Obligations.ResetDisables : Prop :=
  ∀ (s : State) (rest : List Input), nextInput s = some (.reset, rest) →
    ∃ t, step s = .next t ∧ FixedKept s t ∧ SameMemory s t ∧ t.stalls = [] ∧ t.inputs = rest ∧ t.caches = s.caches ∧
      (∀ i, (t.iface i).cr0.extractLsb' 0 4 = 0#4 ∧ (t.iface i).cr0ack.extractLsb' 0 4 = 0#4 ∧ (t.iface i).irqCtrl = 0 ∧ (t.iface i).gerror = 0 ∧
        (t.iface i).gerrorn = 0) ∧
      t.root.cr0 = 0 ∧ t.root.cr0ack = 0 ∧
      (∀ x ∈ s.stalls, ∀ q, x.what = .txn q → .response q.tag .abort ∈ t.outputs)

/-- Stored bytes read back, every other byte reads as before, and the canonical form is kept, in the space of one PA space; the
same address in another PA space is another location (20_memory.md R600). -/
def Obligations.MemoryReadsBack : Prop :=
  ∀ (s : State) (pas : Pas) (addr : DWord) (bs : List Byte), MemoryCanonical s → bs.length ≤ 2 ^ 56 →
    MemoryCanonical (s.storeBytes pas addr bs) ∧
    (∀ k (h : k < bs.length), (s.storeBytes pas addr bs).byteAt pas (addr + BitVec.ofNat 64 k) = bs[k]) ∧
    (∀ (pas' : Pas) (a : DWord), pas' ≠ pas ∨ (∀ k < bs.length, a.toNat % 2 ^ 56 ≠ (addr.toNat + k) % 2 ^ 56) →
      (s.storeBytes pas addr bs).byteAt pas' a = s.byteAt pas' a)

/-- The completion of the pending Updates: SMMU_(*_)CR0ACK, IRQ_CTRLACK and SMMU_ROOT_CR0ACK take the values written, a GBPA
with its Update flag set takes effect and the flag is clear; an interface whose SMMUEN went to zero has no stalled transaction
left and each of them got an abort, and no ATOS operation of it runs (12_regs_control.md R152, R162, R181; 45_atos.md R2103). -/
def Obligations.UpdatesComplete : Prop :=
  ∀ (s : State) (i : Sec),
    ((runUpdates s).iface i).cr0 = (s.iface i).cr0 ∧ ((runUpdates s).iface i).cr0ack = (s.iface i).cr0 ∧
    ((runUpdates s).iface i).irqCtrlAck = (s.iface i).irqCtrl ∧
    (runUpdates s).root.cr0ack = s.root.cr0 ∧
    ((runUpdates s).iface i).gbpa.getLsbD 31 = false ∧
    ((s.iface i).gbpa.getLsbD 31 = true → ((runUpdates s).iface i).gbpaEff = ((runUpdates s).iface i).gbpa) ∧
    ((s.iface i).cr0.getLsbD 0 = false → (s.iface i).cr0ack.getLsbD 0 = true →
      (∀ x ∈ (runUpdates s).stalls, x.what.sec ≠ i) ∧
      (∀ x ∈ s.stalls, ∀ q, x.what = .txn q → q.sec = i → .response q.tag .abort ∈ (runUpdates s).outputs) ∧
      (∀ g : AtosGroup, g.sec = i → ((runUpdates s).atosRegs g).run = false))

/-! ## Client transactions, events, errors, counters, ATOS -/

/-- While SMMUEN is zero: a Realm transaction, one beyond the OAS, and every one if ABORT is one, is aborted and leaves no
trace; a Non-secure write otherwise stores its data at its own address, an Exclusive one as the interconnect's monitor decides
(20_memory.md R611; 23_translation.md R2801; 12_regs_control.md R180; 32_special_transactions.md R1527; log entry 24). -/
def Obligations.DisabledBypass : Prop :=
  ∀ (s : State) (t : Txn), s.smmuEn t.sec = false → unsupported s t = none →
    (t.kind.isHint = false → t.sec = .rl ∨ 2 ^ s.ids.oas ≤ t.addr.toNat ∨ (s.iface t.sec).gbpaEff.getLsbD 20 = true →
      processOt s t = s.respond t.tag .abort) ∧
    (t.sec = .ns → t.addr.toNat < 2 ^ s.ids.oas → s.ns.gbpaEff.getLsbD 20 = false → t.kind = .write →
      ∀ pas, gpcCheck s (.stream .ns t.pm) .ns t.addr true = .pass pas →
        s.extAbort pas t.addr (max 1 (max t.data.length t.len)) = false →
        (processOt s t).sansFetch = ({ s with mem := (processOt s t).mem } : State).sansFetch ∧
          (((processOt s t).mem = s.mem.store pas t.addr t.data ∧ .response t.tag (.done []) ∈ (processOt s t).outputs) ∨
            (t.exclusive = true ∧ (processOt s t).mem = s.mem.store pas t.addr t.data ∧
              .response t.tag (.exOkay []) ∈ (processOt s t).outputs) ∨
            (t.exclusive = true ∧ (processOt s t).mem = s.mem ∧ .response t.tag (.done []) ∈ (processOt s t).outputs)))

/-- Records in the output queues. An event that no stalled transaction waits for. Writable queue: the record is stored at the entry
that PROD names and PROD advances; on a queue that was not empty nothing else happens, on an empty one the interrupt is raised,
and memory changes further only in the four bytes of its MSI and of the GERROR MSI; an aborted write stores nothing and
activates EVENTQ_ABT_ERR, and PROD stays, nothing else happening, or has advanced where the implementation finds aborts
asynchronously (log entry 2). Queue not writable: the record is discarded, and OVFLG is toggled exactly if the queue is enabled
and full and there is no unacknowledged overflow (60_exceptions.md R2160, R2163, R2164). A Page Request, with its entry: on a PRI
queue that takes it (26_ats_pri.md R1734) the entry is stored where PROD points and PROD advances, with an interrupt if LO of
SMMU_(*_)PRIQ_IRQ_CFG2 is set and Last is, or LO is clear and the queue was empty (13_regs_tables_queues.md R263; 26_ats_pri.md
R1733; 60_exceptions.md R2156), and memory changes further only in the bytes of the MSIs; an aborted write stores nothing and
activates PRIQ_ABT_ERR, and PROD stays and the request is refused, or PROD has advanced where the implementation finds aborts
asynchronously (log entry 2); on a full queue, one with an overflow, or one whose indexes are inconsistent, which the model
treats as full (log entry 18), it is discarded, OVFLG toggled unless it is already, and a request without Last is not answered;
with the queue disabled, PRIQ_ABT_ERR active or no PRI it is refused and no register changes (26_ats_pri.md R1731, R1735,
R1736, R1739, R1740). -/
def Obligations.OutputQueueRecording : Prop :=
  (∀ (d : Ids) (r : PriReq) (x : DWord),
    (priEntry d r x).extractLsb' 0 32 = r.sid ∧ (∀ p, r.pasid d = some p → (priEntry d r x).extractLsb' 32 20 = p) ∧
    (priEntry d r x).getLsbD 63 = (r.pasid d).isSome ∧ (priEntry d r x).getLsbD 62 = r.last ∧
    (priEntry d r x).getLsbD 61 = r.uW ∧ (priEntry d r x).getLsbD 60 = r.uR ∧
    (priEntry d r x).getLsbD 59 = (r.uX && (r.pasid d).isSome) ∧ (priEntry d r x).getLsbD 58 = (r.priv && (r.pasid d).isSome) ∧
    (priEntry d r x).extractLsb' 64 9 = r.prgIndex ∧ (priEntry d r x).extractLsb' 76 52 = r.addr.extractLsb' 12 52) ∧
  (∀ (s : State) (r : PriReq) (q : QueueRegs) (n : Nat), q = (s.iface r.sec).priq → n = queueLog2 q.base s.ids.priqs →
    (r.sec = .s ∨ s.ids.priOf r.sec = false ∨ s.priqEn r.sec = false ∨ gerrActive (s.iface r.sec) .priqAbt = true ∨ s.sfm = true →
      processPri s r = priRefuse s r ∧ (priRefuse s r = s ∨ ∃ o, priRefuse s r = s.send o)) ∧
    (r.sec ≠ .s → s.ids.priOf r.sec = true → s.priqEn r.sec = true → gerrActive (s.iface r.sec) .priqAbt = false →
      s.sfm = false →
      (overflowed q = false → queueFull q.prod q.cons n = false → queueConsistent q.prod q.cons n = true →
        ∀ x w v, s.takeFree = (x, w) → ∀ e, smmuWrite w (w.ownAcc r.sec .priq) r.sec.pas (w.entryAt q.base n 4 q.prod)
            (natBytes 16 (priEntry s.ids r x).toNat) .priq = (e, v) →
          (e = none →
            v.mem = s.mem.store r.sec.pas (s.entryAt q.base n 4 q.prod) (natBytes 16 (priEntry s.ids r x).toNat) ∧
            processPri s r = priAdvance v r (queueEmpty q.prod q.cons n) ∧
            ((processPri s r).iface r.sec).priq = { q with
              prod := putField q.prod 0 20 ((indexOf q.prod n + 1) % 2 ^ (n + 1)) } ∧
            ((if priLastOnly s r.sec then r.last else queueEmpty q.prod q.cons n) = false → (processPri s r).mem = v.mem) ∧
            (MemoryCanonical s → ∀ pas a, OutsideMsi s r.sec .priq pas a → OutsideMsi s r.sec .gerror pas a →
              (processPri s r).byteAt pas a = v.byteAt pas a)) ∧
          (e ≠ none → v.mem = s.mem ∧
            (gerrPresent s.ids r.sec .priqAbt = true → gerrActive ((processPri s r).iface r.sec) .priqAbt = true) ∧
            (s.impl.priqAbortSync = true → processPri s r = priRefuse (raiseGerror v r.sec .priqAbt) r ∧
              ((processPri s r).iface r.sec).priq = q) ∧
            (s.impl.priqAbortSync = false →
              processPri s r = raiseGerror (priAdvance v r (queueEmpty q.prod q.cons n)) r.sec .priqAbt ∧
              ((processPri s r).iface r.sec).priq =
                { q with prod := putField q.prod 0 20 ((indexOf q.prod n + 1) % 2 ^ (n + 1)) }))) ∧
      (overflowed q = true ∨ queueFull q.prod q.cons n = true ∨ queueConsistent q.prod q.cons n = false →
        ((processPri s r).iface r.sec).priq = (if overflowed q then q else { q with prod := toggleBit q.prod 31 }) ∧
        (r.last = false → processPri s r = if overflowed q then s else s.setPriqProd r.sec (toggleBit · 31))))) ∧
  ∀ (s u : State) (i : Sec) (rec : BitVec 256) (q : QueueRegs) (n : Nat), q = (s.iface i).eventq →
    n = queueLog2 q.base s.ids.eventqs →
    (s.eventqWritable i = true →
      (smmuWrite s (s.ownAcc i .eventq) i.pas (s.entryAt q.base n 5 q.prod) (natBytes 32 rec.toNat) .eventq = (none, u) →
        u.mem = s.mem.store i.pas (s.entryAt q.base n 5 q.prod) (natBytes 32 rec.toNat) ∧
        ((recordEvent s i rec).iface i).eventq.prod = indexAdvance q.prod n ∧
        recordEvent s i rec = eventqAdvance u i (queueEmpty q.prod q.cons n) ∧
        (queueEmpty q.prod q.cons n = false → recordEvent s i rec = u.setEventqProd i (indexAdvance · n)) ∧
        (MemoryCanonical s → ∀ pas a, OutsideMsi s i .eventq pas a → OutsideMsi s i .gerror pas a →
          (recordEvent s i rec).byteAt pas a = u.byteAt pas a)) ∧
      (∀ e, smmuWrite s (s.ownAcc i .eventq) i.pas (s.entryAt q.base n 5 q.prod) (natBytes 32 rec.toNat) .eventq = (some e, u) →
        u.mem = s.mem ∧ gerrActive ((recordEvent s i rec).iface i) .eventqAbt = true ∧
        (s.impl.eventqAbortSync = true →
          ((recordEvent s i rec).iface i).eventq = q ∧ OnlyGerror u (recordEvent s i rec) i .eventqAbt) ∧
        (s.impl.eventqAbortSync = false → ((recordEvent s i rec).iface i).eventq = { q with prod := indexAdvance q.prod n }))) ∧
    (s.eventqWritable i = false →
      if s.eventqEn i = true ∧ overflowed q = false ∧ queueFull q.prod q.cons n = true then
        recordEvent s i rec = s.setEventqProd i (toggleBit · 31) ∧ overflowed ((recordEvent s i rec).iface i).eventq = true
      else recordEvent s i rec = s)

/-- A global error that the interface has is active after it is raised; while it is active a new one changes nothing; no other
flag but MSI_GERROR_ABT_ERR, and no bit of SMMU_(*_)GERRORN, is touched; an error that the interface does not have is never
raised (60_exceptions.md R2175; 12_regs_control.md R190). -/
def Obligations.GlobalErrors : Prop :=
  ∀ (s : State) (i : Sec) (e : GErr),
    (gerrPresent s.ids i e = true → gerrActive ((raiseGerror s i e).iface i) e = true) ∧
    (gerrPresent s.ids i e = false ∨ gerrActive (s.iface i) e = true → raiseGerror s i e = s) ∧
    ((raiseGerror s i e).iface i).gerrorn = (s.iface i).gerrorn ∧
    (∀ k, k ≠ gerrBit e → k ≠ gerrBit .msiGerror →
      ((raiseGerror s i e).iface i).gerror.getLsbD k = (s.iface i).gerror.getLsbD k) ∧
    (∀ j, j ≠ i → (raiseGerror s i e).iface j = s.iface j)

/-- A counter that counts goes up by one modulo 2 to its number of bits; wrapping to zero sets its overflow status, which is not
read, and nothing else of OVS changes; no other counter's value changes (17_regs_pmcg.md R504, R505). With CR.E zero, or the
counter not enabled, no occurrence is counted (R504, R537). -/
def Obligations.CountersCount : Prop :=
  ∀ (s : State) (n k : Nat) (p : Pmcg), s.pmcgs[n]? = some p →
    (k < p.counters.length → k < 64 →
      ∃ q, (countOne s n k).pmcgs[n]? = some q ∧
        (q.counter k).value = BitVec.ofNat 64 (((p.counter k).value.toNat + 1) % 2 ^ p.bits) ∧
        (∀ j, j ≠ k → (q.counter j).value = (p.counter j).value) ∧
        (∀ j, q.ovs.getLsbD j =
          (p.ovs.getLsbD j || (decide (j = k) && decide (((p.counter k).value.toNat + 1) % 2 ^ p.bits = 0))))) ∧
    (∀ o : PmuOcc, p.cr.getLsbD 0 = false ∨ p.cnten.getLsbD k = false → counterMatches s p o k = false) ∧
    (∀ o : PmuOcc, p.cr.getLsbD 0 = false → countGroup s o n = s)

/-- ATOS registers: while RUN is one a write changes nothing; RUN is set by a one written with SMMUEN one and not being
cleared, and by nothing else: that both hold in every version, where R2101 and R2102 leave SMMUv3.1 and earlier CONSTRAINED
UNPREDICTABLE, is the model's choice (log entry 17). The completion clears RUN and writes PAR: a success with FAULT zero, the
address, its attributes and Shareability; a failure with FAULT one and its FAULTCODE; with SMMUEN zero a fault (45_atos.md
R2100 to R2102, R2106, R2122, R2133). -/
def Obligations.AtosOperation : Prop :=
  ∀ (s : State) (g : AtosGroup) (k : Nat) (v : DWord),
    ((s.atosRegs g).run = true → writeAtos s g k v = s) ∧
    ((s.atosRegs g).run = false →
      (((writeAtos s g k v).atosRegs g).run = true ↔
        k = 0 ∧ v.getLsbD 0 = true ∧ (s.iface g.sec).cr0.getLsbD 0 = true ∧ (s.iface g.sec).cr0ack.getLsbD 0 = true)) ∧
    ((runAtos s g).atosRegs g).run = false ∧
    ((runAtos s g).atosRegs g).sid = (s.atosRegs g).sid ∧ ((runAtos s g).atosRegs g).addr = (s.atosRegs g).addr ∧
    (s.smmuEn g.sec = false → ((runAtos s g).atosRegs g).par.getLsbD 0 = true ∧ SameMemory s (runAtos s g) ∧
      (runAtos s g).caches = s.caches) ∧
    (∀ q par, q = atosRequest s.ids g (s.atosRegs g) → par = ((runAtos s g).atosRegs g).par →
      (atosInvReq s.ids g q = true → par.getLsbD 0 = true ∧ fieldNat par 4 8 = 0xFF) ∧
      (atosInvReq s.ids g q = false → s.smmuEn g.sec = true → s.smmuEn q.sec = true →
        ∀ r u, X.run (atosLookup g q { ev := ⟨q.sec, q.sid, q.ssid, q.addr, q.read, q.ind, q.priv, q.ind, q.priv, false⟩
                                       inhibit := q.httui }) s = (r, u) →
          (∀ ok, r = .ok (.inl ok) → par.getLsbD 0 = false ∧ fieldNat par 8 2 = ok.sh % 4 ∧ par.extractLsb' 56 8 = ok.attr ∧
            par.getLsbD 11 = decide (12 < ok.sizeLog2) ∧
            (ok.sizeLog2 ≤ 12 → fieldNat par 12 44 = fieldNat ok.addr 12 44 % 2 ^ (s.ids.oas - 12))) ∧
          (r = .ok (.inr .invStage) → par.getLsbD 0 = true ∧ fieldNat par 4 8 = 0xFE) ∧
          (∀ f a b c, r = .error (.trf f a b c) → par.getLsbD 0 = true ∧
            (f.s2 = false ∨ q.type = 2 → fieldNat par 4 8 = f.kind.number))))
end

