-- ==== Sys2Proof/Laws/Bits.lean ====
section
/-! SUPPORT. Laws of the bit fields of a command: a placed field reads back, and lies outside every other field. -/

namespace Sys2Proof.Laws

theorem extract_or (a b : CmdWord) (lo k : Nat) :
    (a ||| b).extractLsb' lo k = a.extractLsb' lo k ||| b.extractLsb' lo k := by
  ext i hi
  simp

theorem extract_fld_same {n : Nat} (lo : Nat) (x : BitVec n) (h : lo + n ≤ 128) :
    (fld lo x).extractLsb' lo n = x := by
  ext i hi
  have h1 : lo + i < 128 := by omega
  simp [fld, h1, BitVec.getLsbD_eq_getElem hi]

theorem extract_fld_other {n : Nat} (lo lo' k : Nat) (x : BitVec n) (h : lo + n ≤ lo' ∨ lo' + k ≤ lo) :
    (fld lo x).extractLsb' lo' k = 0#k := by
  ext i hi
  simp only [fld, BitVec.getElem_extractLsb', BitVec.getLsbD_shiftLeft, BitVec.getLsbD_setWidth, BitVec.getElem_zero]
  rcases h with h | h
  · have : n ≤ lo' + i - lo := by omega
    simp [BitVec.getLsbD_of_ge x _ this]
  · have : lo' + i < lo := by omega
    simp [this]

theorem bit_or (a b : CmdWord) (i : Nat) : (a ||| b).getLsbD i = (a.getLsbD i || b.getLsbD i) := by
  simp

theorem bit_fld_other {n : Nat} (lo i : Nat) (x : BitVec n) (h : lo + n ≤ i ∨ i < lo) :
    (fld lo x).getLsbD i = false := by
  simp only [fld, BitVec.getLsbD_shiftLeft, BitVec.getLsbD_setWidth]
  rcases h with h | h
  · have : n ≤ i - lo := by omega
    simp [BitVec.getLsbD_of_ge x _ this]
  · simp [h]

theorem bit_flag_same (lo : Nat) (b : Bool) (h : lo < 128) : (flag lo b).getLsbD lo = b := by
  simp [flag, fld, h]

theorem bit_flag_other (lo i : Nat) (b : Bool) (h : lo ≠ i) : (flag lo b).getLsbD i = false := by
  unfold flag
  apply bit_fld_other
  omega

theorem extract_flag_other (lo lo' k : Nat) (b : Bool) (h : lo + 1 ≤ lo' ∨ lo' + k ≤ lo) :
    (flag lo b).extractLsb' lo' k = 0#k := extract_fld_other lo lo' k _ h

end Sys2Proof.Laws
end

