-- ==== Sys2Proof/Laws/Fields.lean ====
section
/-! SUPPORT. Laws of bit fields: what each bit of a masked, replaced, toggled or merged word is. -/

namespace Sys2Proof.Machine

theorem maskAt_getLsbD (w lo k n : Nat) : (maskAt w lo k).getLsbD n = decide (n < w ∧ lo ≤ n ∧ n < lo + k) := by
  simp only [maskAt, BitVec.getLsbD_ofNat, Nat.testBit_mul_two_pow, Nat.testBit_two_pow_sub_one]
  by_cases h1 : n < w <;> by_cases h2 : lo ≤ n <;> by_cases h3 : n < lo + k <;> simp [h1, h2, h3] <;> omega

theorem putField_getLsbD {w : Nat} (x : BitVec w) (lo k v n : Nat) :
    (putField x lo k v).getLsbD n = if n < w ∧ lo ≤ n ∧ n < lo + k then v.testBit (n - lo) else x.getLsbD n := by
  simp only [putField, BitVec.getLsbD_or, BitVec.getLsbD_and, BitVec.getLsbD_not, maskAt_getLsbD, BitVec.getLsbD_ofNat,
    Nat.testBit_mul_two_pow, Nat.testBit_mod_two_pow]
  by_cases h1 : n < w
  · by_cases h2 : lo ≤ n
    · by_cases h3 : n < lo + k
      · have : n - lo < k := by omega
        simp [h1, h2, h3, this]
      · have : ¬ n - lo < k := by omega
        simp [h1, h3, this]
    · simp [h1, h2]
  · simp [h1, BitVec.getLsbD_of_ge x n (by omega)]

theorem putBit_getLsbD {w : Nat} (x : BitVec w) (k : Nat) (b : Bool) (n : Nat) :
    (putBit x k b).getLsbD n = if n < w ∧ n = k then b else x.getLsbD n := by
  rw [putBit, putField_getLsbD]
  by_cases h : n < w ∧ n = k
  · obtain ⟨h1, rfl⟩ := h
    cases b <;> simp [h1]
  · rw [if_neg h, if_neg (by omega)]

theorem toggleBit_getLsbD {w : Nat} (x : BitVec w) (k n : Nat) :
    (toggleBit x k).getLsbD n = (x.getLsbD n ^^ decide (n < w ∧ n = k)) := by
  rw [toggleBit, BitVec.getLsbD_xor, maskAt_getLsbD]
  congr 1
  rw [decide_eq_decide]
  omega

theorem toggleBit_other {w : Nat} (x : BitVec w) (k n : Nat) (h : n ≠ k) : (toggleBit x k).getLsbD n = x.getLsbD n := by
  simp [toggleBit_getLsbD, h]

theorem mergeBits_getLsbD {w : Nat} (old new mask : BitVec w) (n : Nat) :
    (mergeBits old new mask).getLsbD n = if mask.getLsbD n then new.getLsbD n else old.getLsbD n := by
  simp only [mergeBits, BitVec.getLsbD_or, BitVec.getLsbD_and, BitVec.getLsbD_not]
  by_cases h : n < w
  · cases mask.getLsbD n <;> simp [h]
  · simp [BitVec.getLsbD_of_ge _ n (Nat.le_of_not_lt h)]

theorem fieldNat_lt {w : Nat} (x : BitVec w) (lo n : Nat) : fieldNat x lo n < 2 ^ n := (x.extractLsb' lo n).isLt

end Sys2Proof.Machine
end

