-- ==== Sys2Proof/Laws/Memory.lean ====
section
/-! SUPPORT. Laws of memory: a read after a write, and the canonical form that every operation keeps. -/

namespace Sys2Proof.Machine

theorem memory_wfFrom_mono {m : Memory} {lo lo' : Nat} (h : lo' ≤ lo) (hm : Memory.wfFrom lo m = true) :
    Memory.wfFrom lo' m = true := by
  cases m with
  | nil => rfl
  | cons p m =>
    simp only [Memory.wfFrom, Bool.and_eq_true, decide_eq_true_eq] at hm ⊢
    exact ⟨⟨by omega, hm.1.2⟩, hm.2⟩

theorem memory_get_below {m : Memory} {lo k : Nat} (hm : Memory.wfFrom lo m = true) (h : k < lo) :
    m.get k = Memory.default := by
  cases m with
  | nil => rfl
  | cons p m =>
    simp only [Memory.wfFrom, Bool.and_eq_true, decide_eq_true_eq] at hm
    simp only [Memory.get]
    rw [if_neg (by omega), if_pos (by omega)]

theorem memory_set_wfFrom {m : Memory} {lo k : Nat} {v : Byte} (hm : Memory.wfFrom lo m = true) (h : lo ≤ k) :
    Memory.wfFrom lo (m.set k v) = true := by
  induction m generalizing lo with
  | nil =>
    simp only [Memory.set]
    split
    · rfl
    · rename_i hv
      simp [Memory.wfFrom, h, hv]
  | cons p m ih =>
    obtain ⟨a, b⟩ := p
    simp only [Memory.wfFrom, Bool.and_eq_true, decide_eq_true_eq] at hm
    simp only [Memory.set]
    split
    · split
      · exact memory_wfFrom_mono (by omega) hm.2
      · rename_i hk hv
        subst hk
        simp [Memory.wfFrom, hm.1.1, hv, hm.2]
    · split
      · split
        · simp [Memory.wfFrom, hm]
        · rename_i hk hv
          have : k + 1 ≤ a := by omega
          simp [Memory.wfFrom, h, hv, this, hm]
      · simp only [Memory.wfFrom, Bool.and_eq_true, decide_eq_true_eq]
        exact ⟨hm.1, ih hm.2 (by omega)⟩

/-- A write keeps the canonical form. -/
theorem memory_set_wf {m : Memory} (k : Nat) (v : Byte) (hm : m.wf = true) : (m.set k v).wf = true :=
  memory_set_wfFrom hm (Nat.zero_le k)

/-- A store keeps the canonical form. -/
theorem memory_store_wf {m : Memory} (pas : Pas) (addr : DWord) (bs : List Byte) (hm : m.wf = true) :
    (m.store pas addr bs).wf = true := by
  induction bs generalizing m addr with
  | nil => exact hm
  | cons b bs ih => exact ih (addr + 1) (memory_set_wf _ _ hm)

theorem memory_get_set_same_from {m : Memory} {lo k : Nat} {v : Byte} (hm : Memory.wfFrom lo m = true) :
    (m.set k v).get k = v := by
  induction m generalizing lo with
  | nil =>
    simp only [Memory.set]
    split
    · rename_i hv; simp [Memory.get, hv]
    · simp [Memory.get]
  | cons p m ih =>
    obtain ⟨a, b⟩ := p
    simp only [Memory.wfFrom, Bool.and_eq_true, decide_eq_true_eq] at hm
    simp only [Memory.set]
    split
    · rename_i hk
      split
      · rename_i hv
        rw [memory_get_below hm.2 (by omega), hv]
      · simp [Memory.get]
    · rename_i hk
      split
      · rename_i hlt
        split
        · rename_i hv; simp [Memory.get, hk, hlt, hv]
        · simp [Memory.get]
      · rename_i hlt
        simp only [Memory.get]
        rw [if_neg hk, if_neg hlt, ih hm.2]

/-- A byte written reads as written. -/
theorem memory_get_set_same {m : Memory} (k : Nat) (v : Byte) (hm : m.wf = true) : (m.set k v).get k = v :=
  memory_get_set_same_from hm

theorem memory_get_set_other_from {m : Memory} {lo k k' : Nat} {v : Byte} (hm : Memory.wfFrom lo m = true) (h : k' ≠ k) :
    (m.set k v).get k' = m.get k' := by
  induction m generalizing lo with
  | nil =>
    simp only [Memory.set]
    split
    · rfl
    · simp [Memory.get, Ne.symm h]
  | cons p m ih =>
    obtain ⟨a, b⟩ := p
    simp only [Memory.wfFrom, Bool.and_eq_true, decide_eq_true_eq] at hm
    simp only [Memory.set]
    split
    · rename_i hk
      subst hk
      split
      · by_cases hlt : k' < a
        · simp [Memory.get, Ne.symm h, hlt, memory_get_below hm.2 (by omega : k' < a + 1)]
        · simp [Memory.get, Ne.symm h, hlt]
      · simp [Memory.get, Ne.symm h]
    · rename_i hk
      split
      · rename_i hlt
        split
        · rfl
        · by_cases hk' : k' < k
          · have : k' < a := by omega
            have : a ≠ k' := by omega
            simp [Memory.get, Ne.symm h, *]
          · simp [Memory.get, Ne.symm h, hk']
      · simp only [Memory.get, ih hm.2]

/-- A byte written leaves every other byte. -/
theorem memory_get_set_other {m : Memory} (k k' : Nat) (v : Byte) (hm : m.wf = true) (h : k' ≠ k) :
    (m.set k v).get k' = m.get k' :=
  memory_get_set_other_from hm h

/-- A store leaves every byte outside it. -/
theorem memory_store_other {m : Memory} (pas : Pas) (addr : DWord) (bs : List Byte) (k : Nat) (hm : m.wf = true)
    (h : ∀ n < bs.length, k ≠ memKey pas (addr + BitVec.ofNat 64 n)) : (m.store pas addr bs).get k = m.get k := by
  induction bs generalizing m addr with
  | nil => rfl
  | cons b bs ih =>
    rw [Memory.store, ih (addr + 1) (memory_set_wf _ _ hm)]
    · exact memory_get_set_other _ _ _ hm (by simpa using h 0 (by simp))
    · intro n hn
      have := h (n + 1) (by simpa using hn)
      rwa [show addr + BitVec.ofNat 64 (n + 1) = addr + 1 + BitVec.ofNat 64 n by
        rw [BitVec.ofNat_add, BitVec.add_comm (BitVec.ofNat 64 n), ← BitVec.add_assoc]; rfl] at this

theorem memKey_add (pas : Pas) (addr : DWord) (n : Nat) :
    memKey pas (addr + BitVec.ofNat 64 n) = pas.code * 2 ^ 56 + (addr.toNat + n) % 2 ^ 56 := by
  simp only [memKey, BitVec.toNat_add, BitVec.toNat_ofNat]
  omega

/-- The bytes stored read back. -/
theorem memory_bytes_store {m : Memory} (pas : Pas) (addr : DWord) (bs : List Byte) (hm : m.wf = true)
    (h : bs.length ≤ 2 ^ 56) : (m.store pas addr bs).bytes pas addr bs.length = bs := by
  induction bs generalizing m addr with
  | nil => rfl
  | cons b bs ih =>
    simp only [List.length_cons] at h
    simp only [Memory.store, List.length_cons, Memory.bytes]
    rw [ih (addr + 1) (memory_set_wf _ _ hm) (by omega), memory_store_other _ _ _ _ (memory_set_wf _ _ hm)]
    · rw [memory_get_set_same _ _ hm]
    · intro n hn
      have e : addr + 1 + BitVec.ofNat 64 n = addr + BitVec.ofNat 64 (n + 1) := by
        rw [BitVec.ofNat_add, BitVec.add_comm (BitVec.ofNat 64 n), ← BitVec.add_assoc]; rfl
      rw [e, memKey_add, memKey]
      omega

end Sys2Proof.Machine
end

