-- ==== Sys2Proof/Laws/Only.lean ====
section
/-! SUPPORT. The relation "differs from a state only in what a function drops, and keeps the invariants of memory and errors",
and its laws for computations that may stop. -/

namespace Sys2Proof.Laws

open Sys2Proof.Machine Sys2Proof.Safety

/-- `t` differs from `s` only in what `f` drops; memory stays canonical and only flags that are present are active. -/
structure Only (f : State → State) (s t : State) : Prop where
  same : f t = f s
  memory : MemoryCanonical s → MemoryCanonical t
  errors : ErrorsPresent s → ErrorsPresent t

theorem Only.refl {f : State → State} (s : State) : Only f s s := ⟨rfl, id, id⟩

theorem Only.trans {f : State → State} {s t u : State} (h : Only f s t) (k : Only f t u) : Only f s u :=
  ⟨k.same.trans h.same, fun m => k.memory (h.memory m), fun m => k.errors (h.errors m)⟩

/-- A change that leaves memory, GERROR, GERRORN and the identification registers alone. -/
theorem Only.of_fields {f : State → State} {s t : State} (h : f t = f s) (hm : t.mem = s.mem) (hi : t.ids = s.ids)
    (he : ∀ i, (t.iface i).gerror = (s.iface i).gerror) (hn : ∀ i, (t.iface i).gerrorn = (s.iface i).gerrorn) :
    Only f s t := by
  refine ⟨h, ?_, ?_⟩
  · intro m; simpa [MemoryCanonical, hm] using m
  · intro m i n hb
    rw [he, hn] at hb
    rw [hi]
    exact m i n hb

/-- A change that leaves the interfaces, memory and the identification registers alone. -/
theorem Only.of_same {f : State → State} {s t : State} (h : f t = f s) (hm : t.mem = s.mem) (hi : t.ids = s.ids)
    (h1 : t.ns = s.ns) (h2 : t.sec = s.sec) (h3 : t.rlm = s.rlm) : Only f s t :=
  .of_fields h hm hi (fun i => by cases i <;> simp [State.iface, h1, h2, h3])
    (fun i => by cases i <;> simp [State.iface, h1, h2, h3])

theorem sansRecord_of_sansLookup {s t : State} (h : t.sansLookup = s.sansLookup) : t.sansRecord = s.sansRecord := by
  have e (u : State) : u.sansRecord = u.sansLookup.sansRecord := by
    simp [State.sansRecord, State.sansLookup, Iface.sansLookup, Iface.sansRecord, RootRegs.sansFar]
  rw [e t, e s, h]

/-- What a lookup may change, a recording may change. -/
theorem Only.weaken {s t : State} (h : Only State.sansLookup s t) : Only State.sansRecord s t :=
  ⟨sansRecord_of_sansLookup h.same, h.memory, h.errors⟩

theorem Only.foldl {f : State → State} {α : Type} (g : State → α → State) (hg : ∀ s a, Only f s (g s a)) (l : List α) (s : State) :
    Only f s (l.foldl g s) := by
  induction l generalizing s with
  | nil => exact .refl s
  | cons a l ih => exact (hg s a).trans (ih (g s a))

theorem Only.ite {f : State → State} {s a b : State} {c : Prop} [Decidable c] (h : Only f s a) (k : Only f s b) :
    Only f s (if c then a else b) := by
  split
  · exact h
  · exact k

/-! ## Computations that may stop -/

theorem run_pure {α : Type} (a : α) (s : State) : X.run (pure a : X α) s = (.ok a, s) := rfl

theorem run_stop {α : Type} (e : Stop) (s : State) : X.run (X.stop e : X α) s = (.error e, s) := rfl

theorem run_state (s : State) : X.run X.state s = (.ok s, s) := rfl

theorem run_set (t s : State) : X.run (set t : X PUnit) s = (.ok ⟨⟩, t) := rfl

theorem run_bind {α β : Type} (x : X α) (g : α → X β) (s : State) :
    X.run (x >>= g) s = match X.run x s with
      | (.ok a, t) => X.run (g a) t
      | (.error e, t) => (.error e, t) := by
  simp only [X.run, ExceptT.run_bind, StateT.run_bind]
  rcases h : StateT.run (ExceptT.run x) s with ⟨r, t⟩
  cases r <;> rfl

/-- Whatever state it runs in, the computation changes only what `f` drops. -/
def XOnly (f : State → State) {α : Type} (x : X α) : Prop := ∀ s, Only f s (X.run x s).2

variable {f : State → State} {α β : Type}

theorem xonly_apply {x : X α} (h : XOnly f x) (s : State) : Only f s (X.run x s).2 := h s

theorem xonly_pure (a : α) : XOnly f (pure a) := fun s => .refl s

theorem xonly_stop (e : Stop) : XOnly f (X.stop e : X α) := fun s => .refl s

theorem xonly_state : XOnly f X.state := fun s => .refl s

theorem xonly_bind {x : X α} {g : α → X β} (hx : XOnly f x) (hg : ∀ a, XOnly f (g a)) : XOnly f (x >>= g) := by
  intro s
  rw [run_bind]
  have h := hx s
  split
  · rename_i a t e
    rw [e] at h
    exact h.trans (hg a t)
  · rename_i e' t e
    rw [e] at h
    exact h

theorem xonly_map {x : X α} (g : α → β) (hx : XOnly f x) : XOnly f (g <$> x) := by
  rw [map_eq_pure_bind]
  exact xonly_bind hx fun a => xonly_pure _

theorem xonly_discard {x : X α} (hx : XOnly f x) : XOnly f (discard x) := xonly_map _ hx

/-- An operation of the state run as a computation. -/
theorem xonly_step (g : State → α × State) (hg : ∀ s, Only f s (g s).2) :
    XOnly f (do
      let s ← X.state
      let r := g s
      set r.2
      pure r.1) := fun s => hg s

theorem xonly_set_state (g : State → State) (hg : ∀ s, Only f s (g s)) :
    XOnly f (do
      let s ← X.state
      set (g s)) := fun s => hg s

theorem xonly_modify (g : State → State) (hg : ∀ s, Only f s (g s)) : XOnly f (modify g : X PUnit) := fun s => hg s

/-- The state after a computation, by cases on its result. -/
theorem only_run {x : X α} (hx : XOnly f x) {s t : State} {r : Except Stop α} (h : X.run x s = (r, t)) : Only f s t := by
  have := hx s
  rwa [h] at this

theorem only_snd {γ : Type} {s t : State} {r : γ} {p : γ × State} (hp : Only f s p.2) (h : p = (r, t)) : Only f s t := by
  rwa [h] at hp

end Sys2Proof.Laws
end

