-- ==== Sys2Proof/Laws/State.lean ====
section
/-! SUPPORT. Laws of the updates of a state: one for each field and update, so that no later proof unfolds them. -/

namespace Sys2Proof.Machine

@[simp] theorem State.send_ids (s : State) (o : Output) : (s.send o).ids = s.ids := rfl
@[simp] theorem State.send_impl (s : State) (o : Output) : (s.send o).impl = s.impl := rfl
@[simp] theorem State.send_ns (s : State) (o : Output) : (s.send o).ns = s.ns := rfl
@[simp] theorem State.send_sec (s : State) (o : Output) : (s.send o).sec = s.sec := rfl
@[simp] theorem State.send_rlm (s : State) (o : Output) : (s.send o).rlm = s.rlm := rfl
@[simp] theorem State.send_root (s : State) (o : Output) : (s.send o).root = s.root := rfl
@[simp] theorem State.send_statusr (s : State) (o : Output) : (s.send o).statusr = s.statusr := rfl
@[simp] theorem State.send_sInit (s : State) (o : Output) : (s.send o).sInit = s.sInit := rfl
@[simp] theorem State.send_gatos (s : State) (o : Output) : (s.send o).gatos = s.gatos := rfl
@[simp] theorem State.send_sGatos (s : State) (o : Output) : (s.send o).sGatos = s.sGatos := rfl
@[simp] theorem State.send_vatos (s : State) (o : Output) : (s.send o).vatos = s.vatos := rfl
@[simp] theorem State.send_sVatos (s : State) (o : Output) : (s.send o).sVatos = s.sVatos := rfl
@[simp] theorem State.send_vatosSel (s : State) (o : Output) : (s.send o).vatosSel = s.vatosSel := rfl
@[simp] theorem State.send_sVatosSel (s : State) (o : Output) : (s.send o).sVatosSel = s.sVatosSel := rfl
@[simp] theorem State.send_pmcgs (s : State) (o : Output) : (s.send o).pmcgs = s.pmcgs := rfl
@[simp] theorem State.send_mem (s : State) (o : Output) : (s.send o).mem = s.mem := rfl
@[simp] theorem State.send_aborts (s : State) (o : Output) : (s.send o).aborts = s.aborts := rfl
@[simp] theorem State.send_caches (s : State) (o : Output) : (s.send o).caches = s.caches := rfl
@[simp] theorem State.send_stalls (s : State) (o : Output) : (s.send o).stalls = s.stalls := rfl
@[simp] theorem State.send_atcInvs (s : State) (o : Output) : (s.send o).atcInvs = s.atcInvs := rfl
@[simp] theorem State.send_itag (s : State) (o : Output) : (s.send o).itag = s.itag := rfl
@[simp] theorem State.send_sfm (s : State) (o : Output) : (s.send o).sfm = s.sfm := rfl
@[simp] theorem State.send_cur (s : State) (o : Output) : (s.send o).cur = s.cur := rfl
@[simp] theorem State.send_turn (s : State) (o : Output) : (s.send o).turn = s.turn := rfl
@[simp] theorem State.send_free (s : State) (o : Output) : (s.send o).free = s.free := rfl
@[simp] theorem State.send_pmuLog (s : State) (o : Output) : (s.send o).pmuLog = s.pmuLog := rfl
@[simp] theorem State.send_reqMpam (s : State) (o : Output) : (s.send o).reqMpam = s.reqMpam := rfl
@[simp] theorem State.send_inputs (s : State) (o : Output) : (s.send o).inputs = s.inputs := rfl

@[simp] theorem State.send_outputs (s : State) (o : Output) : (s.send o).outputs = s.outputs ++ [o] := rfl

@[simp] theorem State.storeBytes_ids (s : State) (p : Pas) (a : DWord) (bs : List Byte) : (s.storeBytes p a bs).ids = s.ids := rfl
@[simp] theorem State.storeBytes_impl (s : State) (p : Pas) (a : DWord) (bs : List Byte) : (s.storeBytes p a bs).impl = s.impl := rfl
@[simp] theorem State.storeBytes_ns (s : State) (p : Pas) (a : DWord) (bs : List Byte) : (s.storeBytes p a bs).ns = s.ns := rfl
@[simp] theorem State.storeBytes_sec (s : State) (p : Pas) (a : DWord) (bs : List Byte) : (s.storeBytes p a bs).sec = s.sec := rfl
@[simp] theorem State.storeBytes_rlm (s : State) (p : Pas) (a : DWord) (bs : List Byte) : (s.storeBytes p a bs).rlm = s.rlm := rfl
@[simp] theorem State.storeBytes_root (s : State) (p : Pas) (a : DWord) (bs : List Byte) : (s.storeBytes p a bs).root = s.root := rfl
@[simp] theorem State.storeBytes_statusr (s : State) (p : Pas) (a : DWord) (bs : List Byte) : (s.storeBytes p a bs).statusr = s.statusr := rfl
@[simp] theorem State.storeBytes_sInit (s : State) (p : Pas) (a : DWord) (bs : List Byte) : (s.storeBytes p a bs).sInit = s.sInit := rfl
@[simp] theorem State.storeBytes_gatos (s : State) (p : Pas) (a : DWord) (bs : List Byte) : (s.storeBytes p a bs).gatos = s.gatos := rfl
@[simp] theorem State.storeBytes_sGatos (s : State) (p : Pas) (a : DWord) (bs : List Byte) : (s.storeBytes p a bs).sGatos = s.sGatos := rfl
@[simp] theorem State.storeBytes_vatos (s : State) (p : Pas) (a : DWord) (bs : List Byte) : (s.storeBytes p a bs).vatos = s.vatos := rfl
@[simp] theorem State.storeBytes_sVatos (s : State) (p : Pas) (a : DWord) (bs : List Byte) : (s.storeBytes p a bs).sVatos = s.sVatos := rfl
@[simp] theorem State.storeBytes_vatosSel (s : State) (p : Pas) (a : DWord) (bs : List Byte) : (s.storeBytes p a bs).vatosSel = s.vatosSel := rfl
@[simp] theorem State.storeBytes_sVatosSel (s : State) (p : Pas) (a : DWord) (bs : List Byte) : (s.storeBytes p a bs).sVatosSel = s.sVatosSel := rfl
@[simp] theorem State.storeBytes_pmcgs (s : State) (p : Pas) (a : DWord) (bs : List Byte) : (s.storeBytes p a bs).pmcgs = s.pmcgs := rfl
@[simp] theorem State.storeBytes_aborts (s : State) (p : Pas) (a : DWord) (bs : List Byte) : (s.storeBytes p a bs).aborts = s.aborts := rfl
@[simp] theorem State.storeBytes_caches (s : State) (p : Pas) (a : DWord) (bs : List Byte) : (s.storeBytes p a bs).caches = s.caches := rfl
@[simp] theorem State.storeBytes_stalls (s : State) (p : Pas) (a : DWord) (bs : List Byte) : (s.storeBytes p a bs).stalls = s.stalls := rfl
@[simp] theorem State.storeBytes_atcInvs (s : State) (p : Pas) (a : DWord) (bs : List Byte) : (s.storeBytes p a bs).atcInvs = s.atcInvs := rfl
@[simp] theorem State.storeBytes_itag (s : State) (p : Pas) (a : DWord) (bs : List Byte) : (s.storeBytes p a bs).itag = s.itag := rfl
@[simp] theorem State.storeBytes_sfm (s : State) (p : Pas) (a : DWord) (bs : List Byte) : (s.storeBytes p a bs).sfm = s.sfm := rfl
@[simp] theorem State.storeBytes_cur (s : State) (p : Pas) (a : DWord) (bs : List Byte) : (s.storeBytes p a bs).cur = s.cur := rfl
@[simp] theorem State.storeBytes_turn (s : State) (p : Pas) (a : DWord) (bs : List Byte) : (s.storeBytes p a bs).turn = s.turn := rfl
@[simp] theorem State.storeBytes_free (s : State) (p : Pas) (a : DWord) (bs : List Byte) : (s.storeBytes p a bs).free = s.free := rfl
@[simp] theorem State.storeBytes_pmuLog (s : State) (p : Pas) (a : DWord) (bs : List Byte) : (s.storeBytes p a bs).pmuLog = s.pmuLog := rfl
@[simp] theorem State.storeBytes_reqMpam (s : State) (p : Pas) (a : DWord) (bs : List Byte) : (s.storeBytes p a bs).reqMpam = s.reqMpam := rfl
@[simp] theorem State.storeBytes_inputs (s : State) (p : Pas) (a : DWord) (bs : List Byte) : (s.storeBytes p a bs).inputs = s.inputs := rfl
@[simp] theorem State.storeBytes_outputs (s : State) (p : Pas) (a : DWord) (bs : List Byte) : (s.storeBytes p a bs).outputs = s.outputs := rfl

@[simp] theorem State.storeBytes_mem (s : State) (p : Pas) (a : DWord) (bs : List Byte) : (s.storeBytes p a bs).mem = s.mem.store p a bs := rfl

@[simp] theorem State.takeFree_ids (s : State) : (s.takeFree.2).ids = s.ids := rfl
@[simp] theorem State.takeFree_impl (s : State) : (s.takeFree.2).impl = s.impl := rfl
@[simp] theorem State.takeFree_ns (s : State) : (s.takeFree.2).ns = s.ns := rfl
@[simp] theorem State.takeFree_sec (s : State) : (s.takeFree.2).sec = s.sec := rfl
@[simp] theorem State.takeFree_rlm (s : State) : (s.takeFree.2).rlm = s.rlm := rfl
@[simp] theorem State.takeFree_root (s : State) : (s.takeFree.2).root = s.root := rfl
@[simp] theorem State.takeFree_statusr (s : State) : (s.takeFree.2).statusr = s.statusr := rfl
@[simp] theorem State.takeFree_sInit (s : State) : (s.takeFree.2).sInit = s.sInit := rfl
@[simp] theorem State.takeFree_gatos (s : State) : (s.takeFree.2).gatos = s.gatos := rfl
@[simp] theorem State.takeFree_sGatos (s : State) : (s.takeFree.2).sGatos = s.sGatos := rfl
@[simp] theorem State.takeFree_vatos (s : State) : (s.takeFree.2).vatos = s.vatos := rfl
@[simp] theorem State.takeFree_sVatos (s : State) : (s.takeFree.2).sVatos = s.sVatos := rfl
@[simp] theorem State.takeFree_vatosSel (s : State) : (s.takeFree.2).vatosSel = s.vatosSel := rfl
@[simp] theorem State.takeFree_sVatosSel (s : State) : (s.takeFree.2).sVatosSel = s.sVatosSel := rfl
@[simp] theorem State.takeFree_pmcgs (s : State) : (s.takeFree.2).pmcgs = s.pmcgs := rfl
@[simp] theorem State.takeFree_mem (s : State) : (s.takeFree.2).mem = s.mem := rfl
@[simp] theorem State.takeFree_aborts (s : State) : (s.takeFree.2).aborts = s.aborts := rfl
@[simp] theorem State.takeFree_caches (s : State) : (s.takeFree.2).caches = s.caches := rfl
@[simp] theorem State.takeFree_stalls (s : State) : (s.takeFree.2).stalls = s.stalls := rfl
@[simp] theorem State.takeFree_atcInvs (s : State) : (s.takeFree.2).atcInvs = s.atcInvs := rfl
@[simp] theorem State.takeFree_itag (s : State) : (s.takeFree.2).itag = s.itag := rfl
@[simp] theorem State.takeFree_sfm (s : State) : (s.takeFree.2).sfm = s.sfm := rfl
@[simp] theorem State.takeFree_cur (s : State) : (s.takeFree.2).cur = s.cur := rfl
@[simp] theorem State.takeFree_turn (s : State) : (s.takeFree.2).turn = s.turn := rfl
@[simp] theorem State.takeFree_pmuLog (s : State) : (s.takeFree.2).pmuLog = s.pmuLog := rfl
@[simp] theorem State.takeFree_reqMpam (s : State) : (s.takeFree.2).reqMpam = s.reqMpam := rfl
@[simp] theorem State.takeFree_inputs (s : State) : (s.takeFree.2).inputs = s.inputs := rfl
@[simp] theorem State.takeFree_outputs (s : State) : (s.takeFree.2).outputs = s.outputs := rfl

@[simp] theorem State.takeFree_free (s : State) : s.takeFree.2.free = s.free + 1 := rfl

@[simp] theorem State.cacheNow_ids (s : State) : s.cacheNow.2.ids = s.ids := by
  unfold State.cacheNow; split <;> rfl
@[simp] theorem State.cacheNow_impl (s : State) : s.cacheNow.2.impl = s.impl := by
  unfold State.cacheNow; split <;> rfl
@[simp] theorem State.cacheNow_ns (s : State) : s.cacheNow.2.ns = s.ns := by
  unfold State.cacheNow; split <;> rfl
@[simp] theorem State.cacheNow_sec (s : State) : s.cacheNow.2.sec = s.sec := by
  unfold State.cacheNow; split <;> rfl
@[simp] theorem State.cacheNow_rlm (s : State) : s.cacheNow.2.rlm = s.rlm := by
  unfold State.cacheNow; split <;> rfl
@[simp] theorem State.cacheNow_root (s : State) : s.cacheNow.2.root = s.root := by
  unfold State.cacheNow; split <;> rfl
@[simp] theorem State.cacheNow_statusr (s : State) : s.cacheNow.2.statusr = s.statusr := by
  unfold State.cacheNow; split <;> rfl
@[simp] theorem State.cacheNow_sInit (s : State) : s.cacheNow.2.sInit = s.sInit := by
  unfold State.cacheNow; split <;> rfl
@[simp] theorem State.cacheNow_gatos (s : State) : s.cacheNow.2.gatos = s.gatos := by
  unfold State.cacheNow; split <;> rfl
@[simp] theorem State.cacheNow_sGatos (s : State) : s.cacheNow.2.sGatos = s.sGatos := by
  unfold State.cacheNow; split <;> rfl
@[simp] theorem State.cacheNow_vatos (s : State) : s.cacheNow.2.vatos = s.vatos := by
  unfold State.cacheNow; split <;> rfl
@[simp] theorem State.cacheNow_sVatos (s : State) : s.cacheNow.2.sVatos = s.sVatos := by
  unfold State.cacheNow; split <;> rfl
@[simp] theorem State.cacheNow_vatosSel (s : State) : s.cacheNow.2.vatosSel = s.vatosSel := by
  unfold State.cacheNow; split <;> rfl
@[simp] theorem State.cacheNow_sVatosSel (s : State) : s.cacheNow.2.sVatosSel = s.sVatosSel := by
  unfold State.cacheNow; split <;> rfl
@[simp] theorem State.cacheNow_pmcgs (s : State) : s.cacheNow.2.pmcgs = s.pmcgs := by
  unfold State.cacheNow; split <;> rfl
@[simp] theorem State.cacheNow_mem (s : State) : s.cacheNow.2.mem = s.mem := by
  unfold State.cacheNow; split <;> rfl
@[simp] theorem State.cacheNow_aborts (s : State) : s.cacheNow.2.aborts = s.aborts := by
  unfold State.cacheNow; split <;> rfl
@[simp] theorem State.cacheNow_caches (s : State) : s.cacheNow.2.caches = s.caches := by
  unfold State.cacheNow; split <;> rfl
@[simp] theorem State.cacheNow_stalls (s : State) : s.cacheNow.2.stalls = s.stalls := by
  unfold State.cacheNow; split <;> rfl
@[simp] theorem State.cacheNow_atcInvs (s : State) : s.cacheNow.2.atcInvs = s.atcInvs := by
  unfold State.cacheNow; split <;> rfl
@[simp] theorem State.cacheNow_itag (s : State) : s.cacheNow.2.itag = s.itag := by
  unfold State.cacheNow; split <;> rfl
@[simp] theorem State.cacheNow_sfm (s : State) : s.cacheNow.2.sfm = s.sfm := by
  unfold State.cacheNow; split <;> rfl
@[simp] theorem State.cacheNow_cur (s : State) : s.cacheNow.2.cur = s.cur := by
  unfold State.cacheNow; split <;> rfl
@[simp] theorem State.cacheNow_turn (s : State) : s.cacheNow.2.turn = s.turn := by
  unfold State.cacheNow; split <;> rfl
@[simp] theorem State.cacheNow_pmuLog (s : State) : s.cacheNow.2.pmuLog = s.pmuLog := by
  unfold State.cacheNow; split <;> rfl
@[simp] theorem State.cacheNow_reqMpam (s : State) : s.cacheNow.2.reqMpam = s.reqMpam := by
  unfold State.cacheNow; split <;> rfl
@[simp] theorem State.cacheNow_inputs (s : State) : s.cacheNow.2.inputs = s.inputs := by
  unfold State.cacheNow; split <;> rfl
@[simp] theorem State.cacheNow_outputs (s : State) : s.cacheNow.2.outputs = s.outputs := by
  unfold State.cacheNow; split <;> rfl

@[simp] theorem State.setIface_ids (s : State) (i : Sec) (g : Iface → Iface) : (s.setIface i g).ids = s.ids := by
  cases i <;> rfl
@[simp] theorem State.setIface_impl (s : State) (i : Sec) (g : Iface → Iface) : (s.setIface i g).impl = s.impl := by
  cases i <;> rfl
@[simp] theorem State.setIface_root (s : State) (i : Sec) (g : Iface → Iface) : (s.setIface i g).root = s.root := by
  cases i <;> rfl
@[simp] theorem State.setIface_statusr (s : State) (i : Sec) (g : Iface → Iface) : (s.setIface i g).statusr = s.statusr := by
  cases i <;> rfl
@[simp] theorem State.setIface_sInit (s : State) (i : Sec) (g : Iface → Iface) : (s.setIface i g).sInit = s.sInit := by
  cases i <;> rfl
@[simp] theorem State.setIface_gatos (s : State) (i : Sec) (g : Iface → Iface) : (s.setIface i g).gatos = s.gatos := by
  cases i <;> rfl
@[simp] theorem State.setIface_sGatos (s : State) (i : Sec) (g : Iface → Iface) : (s.setIface i g).sGatos = s.sGatos := by
  cases i <;> rfl
@[simp] theorem State.setIface_vatos (s : State) (i : Sec) (g : Iface → Iface) : (s.setIface i g).vatos = s.vatos := by
  cases i <;> rfl
@[simp] theorem State.setIface_sVatos (s : State) (i : Sec) (g : Iface → Iface) : (s.setIface i g).sVatos = s.sVatos := by
  cases i <;> rfl
@[simp] theorem State.setIface_vatosSel (s : State) (i : Sec) (g : Iface → Iface) : (s.setIface i g).vatosSel = s.vatosSel := by
  cases i <;> rfl
@[simp] theorem State.setIface_sVatosSel (s : State) (i : Sec) (g : Iface → Iface) : (s.setIface i g).sVatosSel = s.sVatosSel := by
  cases i <;> rfl
@[simp] theorem State.setIface_pmcgs (s : State) (i : Sec) (g : Iface → Iface) : (s.setIface i g).pmcgs = s.pmcgs := by
  cases i <;> rfl
@[simp] theorem State.setIface_mem (s : State) (i : Sec) (g : Iface → Iface) : (s.setIface i g).mem = s.mem := by
  cases i <;> rfl
@[simp] theorem State.setIface_aborts (s : State) (i : Sec) (g : Iface → Iface) : (s.setIface i g).aborts = s.aborts := by
  cases i <;> rfl
@[simp] theorem State.setIface_caches (s : State) (i : Sec) (g : Iface → Iface) : (s.setIface i g).caches = s.caches := by
  cases i <;> rfl
@[simp] theorem State.setIface_stalls (s : State) (i : Sec) (g : Iface → Iface) : (s.setIface i g).stalls = s.stalls := by
  cases i <;> rfl
@[simp] theorem State.setIface_atcInvs (s : State) (i : Sec) (g : Iface → Iface) : (s.setIface i g).atcInvs = s.atcInvs := by
  cases i <;> rfl
@[simp] theorem State.setIface_itag (s : State) (i : Sec) (g : Iface → Iface) : (s.setIface i g).itag = s.itag := by
  cases i <;> rfl
@[simp] theorem State.setIface_sfm (s : State) (i : Sec) (g : Iface → Iface) : (s.setIface i g).sfm = s.sfm := by
  cases i <;> rfl
@[simp] theorem State.setIface_cur (s : State) (i : Sec) (g : Iface → Iface) : (s.setIface i g).cur = s.cur := by
  cases i <;> rfl
@[simp] theorem State.setIface_turn (s : State) (i : Sec) (g : Iface → Iface) : (s.setIface i g).turn = s.turn := by
  cases i <;> rfl
@[simp] theorem State.setIface_free (s : State) (i : Sec) (g : Iface → Iface) : (s.setIface i g).free = s.free := by
  cases i <;> rfl
@[simp] theorem State.setIface_pmuLog (s : State) (i : Sec) (g : Iface → Iface) : (s.setIface i g).pmuLog = s.pmuLog := by
  cases i <;> rfl
@[simp] theorem State.setIface_reqMpam (s : State) (i : Sec) (g : Iface → Iface) : (s.setIface i g).reqMpam = s.reqMpam := by
  cases i <;> rfl
@[simp] theorem State.setIface_inputs (s : State) (i : Sec) (g : Iface → Iface) : (s.setIface i g).inputs = s.inputs := by
  cases i <;> rfl
@[simp] theorem State.setIface_outputs (s : State) (i : Sec) (g : Iface → Iface) : (s.setIface i g).outputs = s.outputs := by
  cases i <;> rfl

@[simp] theorem State.setIface_iface_same (s : State) (i : Sec) (g : Iface → Iface) :
    (s.setIface i g).iface i = g (s.iface i) := by
  cases i <;> rfl

theorem State.setIface_iface_other (s : State) {i j : Sec} (g : Iface → Iface) (h : j ≠ i) :
    (s.setIface i g).iface j = s.iface j := by
  cases i <;> cases j <;> first | rfl | exact absurd rfl h

@[simp] theorem State.setEcmdq_ids (s : State) (i : Sec) (n : Nat) (g : Ecmdq → Ecmdq) : (s.setEcmdq i n g).ids = s.ids := by
  simp [State.setEcmdq]
@[simp] theorem State.setCons_ids (s : State) (q : QueueId) (g : BitVec 32 → BitVec 32) : (s.setCons q g).ids = s.ids := by
  cases q <;> simp [State.setCons]
@[simp] theorem State.setEcmdq_impl (s : State) (i : Sec) (n : Nat) (g : Ecmdq → Ecmdq) : (s.setEcmdq i n g).impl = s.impl := by
  simp [State.setEcmdq]
@[simp] theorem State.setCons_impl (s : State) (q : QueueId) (g : BitVec 32 → BitVec 32) : (s.setCons q g).impl = s.impl := by
  cases q <;> simp [State.setCons]
@[simp] theorem State.setEcmdq_root (s : State) (i : Sec) (n : Nat) (g : Ecmdq → Ecmdq) : (s.setEcmdq i n g).root = s.root := by
  simp [State.setEcmdq]
@[simp] theorem State.setCons_root (s : State) (q : QueueId) (g : BitVec 32 → BitVec 32) : (s.setCons q g).root = s.root := by
  cases q <;> simp [State.setCons]
@[simp] theorem State.setEcmdq_statusr (s : State) (i : Sec) (n : Nat) (g : Ecmdq → Ecmdq) : (s.setEcmdq i n g).statusr = s.statusr := by
  simp [State.setEcmdq]
@[simp] theorem State.setCons_statusr (s : State) (q : QueueId) (g : BitVec 32 → BitVec 32) : (s.setCons q g).statusr = s.statusr := by
  cases q <;> simp [State.setCons]
@[simp] theorem State.setEcmdq_sInit (s : State) (i : Sec) (n : Nat) (g : Ecmdq → Ecmdq) : (s.setEcmdq i n g).sInit = s.sInit := by
  simp [State.setEcmdq]
@[simp] theorem State.setCons_sInit (s : State) (q : QueueId) (g : BitVec 32 → BitVec 32) : (s.setCons q g).sInit = s.sInit := by
  cases q <;> simp [State.setCons]
@[simp] theorem State.setEcmdq_gatos (s : State) (i : Sec) (n : Nat) (g : Ecmdq → Ecmdq) : (s.setEcmdq i n g).gatos = s.gatos := by
  simp [State.setEcmdq]
@[simp] theorem State.setCons_gatos (s : State) (q : QueueId) (g : BitVec 32 → BitVec 32) : (s.setCons q g).gatos = s.gatos := by
  cases q <;> simp [State.setCons]
@[simp] theorem State.setEcmdq_sGatos (s : State) (i : Sec) (n : Nat) (g : Ecmdq → Ecmdq) : (s.setEcmdq i n g).sGatos = s.sGatos := by
  simp [State.setEcmdq]
@[simp] theorem State.setCons_sGatos (s : State) (q : QueueId) (g : BitVec 32 → BitVec 32) : (s.setCons q g).sGatos = s.sGatos := by
  cases q <;> simp [State.setCons]
@[simp] theorem State.setEcmdq_vatos (s : State) (i : Sec) (n : Nat) (g : Ecmdq → Ecmdq) : (s.setEcmdq i n g).vatos = s.vatos := by
  simp [State.setEcmdq]
@[simp] theorem State.setCons_vatos (s : State) (q : QueueId) (g : BitVec 32 → BitVec 32) : (s.setCons q g).vatos = s.vatos := by
  cases q <;> simp [State.setCons]
@[simp] theorem State.setEcmdq_sVatos (s : State) (i : Sec) (n : Nat) (g : Ecmdq → Ecmdq) : (s.setEcmdq i n g).sVatos = s.sVatos := by
  simp [State.setEcmdq]
@[simp] theorem State.setCons_sVatos (s : State) (q : QueueId) (g : BitVec 32 → BitVec 32) : (s.setCons q g).sVatos = s.sVatos := by
  cases q <;> simp [State.setCons]
@[simp] theorem State.setEcmdq_vatosSel (s : State) (i : Sec) (n : Nat) (g : Ecmdq → Ecmdq) : (s.setEcmdq i n g).vatosSel = s.vatosSel := by
  simp [State.setEcmdq]
@[simp] theorem State.setCons_vatosSel (s : State) (q : QueueId) (g : BitVec 32 → BitVec 32) : (s.setCons q g).vatosSel = s.vatosSel := by
  cases q <;> simp [State.setCons]
@[simp] theorem State.setEcmdq_sVatosSel (s : State) (i : Sec) (n : Nat) (g : Ecmdq → Ecmdq) : (s.setEcmdq i n g).sVatosSel = s.sVatosSel := by
  simp [State.setEcmdq]
@[simp] theorem State.setCons_sVatosSel (s : State) (q : QueueId) (g : BitVec 32 → BitVec 32) : (s.setCons q g).sVatosSel = s.sVatosSel := by
  cases q <;> simp [State.setCons]
@[simp] theorem State.setEcmdq_pmcgs (s : State) (i : Sec) (n : Nat) (g : Ecmdq → Ecmdq) : (s.setEcmdq i n g).pmcgs = s.pmcgs := by
  simp [State.setEcmdq]
@[simp] theorem State.setCons_pmcgs (s : State) (q : QueueId) (g : BitVec 32 → BitVec 32) : (s.setCons q g).pmcgs = s.pmcgs := by
  cases q <;> simp [State.setCons]
@[simp] theorem State.setEcmdq_mem (s : State) (i : Sec) (n : Nat) (g : Ecmdq → Ecmdq) : (s.setEcmdq i n g).mem = s.mem := by
  simp [State.setEcmdq]
@[simp] theorem State.setCons_mem (s : State) (q : QueueId) (g : BitVec 32 → BitVec 32) : (s.setCons q g).mem = s.mem := by
  cases q <;> simp [State.setCons]
@[simp] theorem State.setEcmdq_aborts (s : State) (i : Sec) (n : Nat) (g : Ecmdq → Ecmdq) : (s.setEcmdq i n g).aborts = s.aborts := by
  simp [State.setEcmdq]
@[simp] theorem State.setCons_aborts (s : State) (q : QueueId) (g : BitVec 32 → BitVec 32) : (s.setCons q g).aborts = s.aborts := by
  cases q <;> simp [State.setCons]
@[simp] theorem State.setEcmdq_caches (s : State) (i : Sec) (n : Nat) (g : Ecmdq → Ecmdq) : (s.setEcmdq i n g).caches = s.caches := by
  simp [State.setEcmdq]
@[simp] theorem State.setCons_caches (s : State) (q : QueueId) (g : BitVec 32 → BitVec 32) : (s.setCons q g).caches = s.caches := by
  cases q <;> simp [State.setCons]
@[simp] theorem State.setEcmdq_stalls (s : State) (i : Sec) (n : Nat) (g : Ecmdq → Ecmdq) : (s.setEcmdq i n g).stalls = s.stalls := by
  simp [State.setEcmdq]
@[simp] theorem State.setCons_stalls (s : State) (q : QueueId) (g : BitVec 32 → BitVec 32) : (s.setCons q g).stalls = s.stalls := by
  cases q <;> simp [State.setCons]
@[simp] theorem State.setEcmdq_atcInvs (s : State) (i : Sec) (n : Nat) (g : Ecmdq → Ecmdq) : (s.setEcmdq i n g).atcInvs = s.atcInvs := by
  simp [State.setEcmdq]
@[simp] theorem State.setCons_atcInvs (s : State) (q : QueueId) (g : BitVec 32 → BitVec 32) : (s.setCons q g).atcInvs = s.atcInvs := by
  cases q <;> simp [State.setCons]
@[simp] theorem State.setEcmdq_itag (s : State) (i : Sec) (n : Nat) (g : Ecmdq → Ecmdq) : (s.setEcmdq i n g).itag = s.itag := by
  simp [State.setEcmdq]
@[simp] theorem State.setCons_itag (s : State) (q : QueueId) (g : BitVec 32 → BitVec 32) : (s.setCons q g).itag = s.itag := by
  cases q <;> simp [State.setCons]
@[simp] theorem State.setEcmdq_sfm (s : State) (i : Sec) (n : Nat) (g : Ecmdq → Ecmdq) : (s.setEcmdq i n g).sfm = s.sfm := by
  simp [State.setEcmdq]
@[simp] theorem State.setCons_sfm (s : State) (q : QueueId) (g : BitVec 32 → BitVec 32) : (s.setCons q g).sfm = s.sfm := by
  cases q <;> simp [State.setCons]
@[simp] theorem State.setEcmdq_cur (s : State) (i : Sec) (n : Nat) (g : Ecmdq → Ecmdq) : (s.setEcmdq i n g).cur = s.cur := by
  simp [State.setEcmdq]
@[simp] theorem State.setCons_cur (s : State) (q : QueueId) (g : BitVec 32 → BitVec 32) : (s.setCons q g).cur = s.cur := by
  cases q <;> simp [State.setCons]
@[simp] theorem State.setEcmdq_turn (s : State) (i : Sec) (n : Nat) (g : Ecmdq → Ecmdq) : (s.setEcmdq i n g).turn = s.turn := by
  simp [State.setEcmdq]
@[simp] theorem State.setCons_turn (s : State) (q : QueueId) (g : BitVec 32 → BitVec 32) : (s.setCons q g).turn = s.turn := by
  cases q <;> simp [State.setCons]
@[simp] theorem State.setEcmdq_free (s : State) (i : Sec) (n : Nat) (g : Ecmdq → Ecmdq) : (s.setEcmdq i n g).free = s.free := by
  simp [State.setEcmdq]
@[simp] theorem State.setCons_free (s : State) (q : QueueId) (g : BitVec 32 → BitVec 32) : (s.setCons q g).free = s.free := by
  cases q <;> simp [State.setCons]
@[simp] theorem State.setEcmdq_pmuLog (s : State) (i : Sec) (n : Nat) (g : Ecmdq → Ecmdq) : (s.setEcmdq i n g).pmuLog = s.pmuLog := by
  simp [State.setEcmdq]
@[simp] theorem State.setEcmdq_reqMpam (s : State) (i : Sec) (n : Nat) (g : Ecmdq → Ecmdq) : (s.setEcmdq i n g).reqMpam = s.reqMpam := by
  simp [State.setEcmdq]
@[simp] theorem State.setCons_pmuLog (s : State) (q : QueueId) (g : BitVec 32 → BitVec 32) : (s.setCons q g).pmuLog = s.pmuLog := by
  cases q <;> simp [State.setCons]
@[simp] theorem State.setCons_reqMpam (s : State) (q : QueueId) (g : BitVec 32 → BitVec 32) : (s.setCons q g).reqMpam = s.reqMpam := by
  cases q <;> simp [State.setCons]
@[simp] theorem State.setEcmdq_inputs (s : State) (i : Sec) (n : Nat) (g : Ecmdq → Ecmdq) : (s.setEcmdq i n g).inputs = s.inputs := by
  simp [State.setEcmdq]
@[simp] theorem State.setCons_inputs (s : State) (q : QueueId) (g : BitVec 32 → BitVec 32) : (s.setCons q g).inputs = s.inputs := by
  cases q <;> simp [State.setCons]
@[simp] theorem State.setEcmdq_outputs (s : State) (i : Sec) (n : Nat) (g : Ecmdq → Ecmdq) : (s.setEcmdq i n g).outputs = s.outputs := by
  simp [State.setEcmdq]
@[simp] theorem State.setCons_outputs (s : State) (q : QueueId) (g : BitVec 32 → BitVec 32) : (s.setCons q g).outputs = s.outputs := by
  cases q <;> simp [State.setCons]

@[simp] theorem State.send_iface (s : State) (o : Output) (i : Sec) : (s.send o).iface i = s.iface i := by
  cases i <;> rfl

@[simp] theorem State.storeBytes_iface (s : State) (p : Pas) (a : DWord) (bs : List Byte) (i : Sec) :
    (s.storeBytes p a bs).iface i = s.iface i := by
  cases i <;> rfl

@[simp] theorem State.takeFree_iface (s : State) (i : Sec) : s.takeFree.2.iface i = s.iface i := by
  cases i <;> rfl

@[simp] theorem State.cacheNow_iface (s : State) (i : Sec) : s.cacheNow.2.iface i = s.iface i := by
  cases i <;> simp [State.iface]

end Sys2Proof.Machine
end

