-- ==== Sys2Proof/Laws/OnlyOps.lean ====
section
/-! SUPPORT. What the shared operations change at most: outputs, accesses of the SMMU, interrupts, global errors, records. -/

namespace Sys2Proof.Laws

open Sys2Proof.Machine Sys2Proof.Safety

theorem only_send (s : State) (o : Output) : Only State.sansLookup s (s.send o) := .of_same rfl rfl rfl rfl rfl rfl

theorem only_takeFree (s : State) : Only State.sansLookup s s.takeFree.2 := .of_same rfl rfl rfl rfl rfl rfl

theorem only_cacheNow (s : State) : Only State.sansLookup s s.cacheNow.2 := by
  unfold State.cacheNow
  split
  · exact .refl s
  · exact .refl s
  · exact .of_same rfl rfl rfl rfl rfl rfl

theorem only_caches (s : State) (k : Caches) : Only State.sansLookup s { s with caches := k } :=
  .of_same rfl rfl rfl rfl rfl rfl

theorem only_storeBytes (s : State) (p : Pas) (a : DWord) (bs : List Byte) :
    Only State.sansLookup s (s.storeBytes p a bs) :=
  ⟨rfl, memory_store_wf p a bs, fun h i n => by simpa using h i n⟩

theorem sansLookup_setIface (s : State) (i : Sec) (g : Iface → Iface)
    (h : (g (s.iface i)).sansLookup = (s.iface i).sansLookup) : (s.setIface i g).sansLookup = s.sansLookup := by
  cases i <;> simp only [State.iface] at h <;> simp [State.setIface, State.sansLookup, h]

theorem sansRecord_setIface (s : State) (i : Sec) (g : Iface → Iface)
    (h : (g (s.iface i)).sansRecord = (s.iface i).sansRecord) : (s.setIface i g).sansRecord = s.sansRecord := by
  cases i <;> simp only [State.iface] at h <;> simp [State.setIface, State.sansRecord, h]

/-- A change of one interface that leaves GERROR and GERRORN alone. -/
theorem only_setIface {f : State → State} (s : State) (i : Sec) (g : Iface → Iface)
    (h : f (s.setIface i g) = f s) (he : (g (s.iface i)).gerror = (s.iface i).gerror)
    (hn : (g (s.iface i)).gerrorn = (s.iface i).gerrorn) : Only f s (s.setIface i g) := by
  refine .of_fields h (by simp) (by simp) (fun j => ?_) (fun j => ?_)
  · by_cases hj : j = i
    · subst hj; simpa using he
    · rw [State.setIface_iface_other s g hj]
  · by_cases hj : j = i
    · subst hj; simpa using hn
    · rw [State.setIface_iface_other s g hj]

theorem only_recordGpc (s : State) (res : GpcResult) (p : Pas) (a : DWord) (c : FarCode) :
    Only State.sansLookup s (recordGpc s res p a c) := by
  unfold recordGpc
  split
  · exact .refl s
  · split
    · exact .refl s
    · exact .of_same rfl rfl rfl rfl rfl rfl
  · split
    · exact .refl s
    · exact .of_same rfl rfl rfl rfl rfl rfl

theorem only_reportGpc (s : State) (q : Bool) (res : GpcResult) (p : Pas) (a : DWord) (c : FarCode) :
    Only State.sansLookup s (reportGpc s q res p a c) := by
  unfold reportGpc recordQuietGpc
  split
  · split
    · exact .refl s
    · exact .ite ((only_takeFree s).trans (only_recordGpc _ _ _ _ _)) (only_takeFree s)
  · exact only_recordGpc _ _ _ _ _

theorem only_cacheGpi (s : State) (a : DWord) : Only State.sansLookup s (cacheGpi s a) := by
  unfold cacheGpi
  split
  · exact .refl s
  · have h := only_cacheNow s
    split
    · rename_i t e; rw [e] at h; exact h
    · rename_i t e
      rw [e] at h
      split
      · exact h.trans (only_caches _ _)
      · exact h

theorem only_limitMpam (s : State) (lim : BitVec 32) (p : BitVec 16) (g : BitVec 8) :
    Only State.sansLookup s (s.limitMpam lim p g).2 := only_takeFree s

theorem only_mpamWithin (s : State) (lim : BitVec 32) (m : Mpam) : Only State.sansLookup s (s.mpamWithin lim m).2 :=
  only_takeFree s

theorem only_noteGpt (s : State) (src : PmuSrc) (m : Mpam) (a : DWord) : Only State.sansLookup s (noteGpt s src m a) := by
  unfold noteGpt
  split
  · exact .of_same rfl rfl rfl rfl rfl rfl
  · exact .refl s

theorem only_noteOwnGpt (s : State) (o : AccFrom) (a : DWord) : Only State.sansLookup s (noteOwnGpt s o a) := by
  unfold noteOwnGpt
  split
  · exact (only_mpamWithin s o.lim o.mpam).trans (only_noteGpt _ _ _ _)
  · exact .refl s

theorem only_smmuAccess (s : State) (o : AccFrom) (p : Pas) (a : DWord) (n : Nat) (w : Bool) (c : FarCode) (r : Bool) :
    Only State.sansLookup s (smmuAccess s o p a n w c r).2 := by
  have h := only_noteOwnGpt s o a
  unfold smmuAccess
  dsimp only
  split
  · exact h.trans (only_cacheGpi _ a)
  · exact h.trans (only_reportGpc _ _ _ _ _ _)

theorem only_smmuRead (s : State) (o : AccFrom) (p : Pas) (a : DWord) (n : Nat) (c : FarCode) (r : Bool) :
    Only State.sansLookup s (smmuRead s o p a n c r).2 := by
  have h := only_smmuAccess s o p a n false c r
  unfold smmuRead
  split <;> (rename_i e; rw [e] at h; exact h)

theorem only_smmuWrite (s : State) (o : AccFrom) (p : Pas) (a : DWord) (bs : List Byte) (c : FarCode) (r : Bool) :
    Only State.sansLookup s (smmuWrite s o p a bs c r).2 := by
  have h := only_smmuAccess s o p a bs.length true c r
  unfold smmuWrite
  split
  · rename_i e; rw [e] at h; exact h
  · rename_i e; rw [e] at h; exact h.trans (only_storeBytes _ _ _ _)

theorem only_sendMsi (s : State) (o : AccFrom) (p : Pas) (a : DWord) (d : BitVec 32) (x : Attrs) (dev : DeviceId)
    (c : FarCode) : Only State.sansLookup s (sendMsi s o p a d x dev c).2 := by
  unfold sendMsi
  dsimp only
  split
  · rename_i e; exact (only_snd (only_smmuWrite _ _ _ _ _ _ _) e).trans (only_send _ _)
  · rename_i e; exact only_snd (only_smmuWrite _ _ _ _ _ _ _) e

theorem only_signalIrq (s : State) (i : Sec) (x : IrqSrc) : Only State.sansLookup s (signalIrq s i x).2 := by
  unfold signalIrq
  split
  · exact .refl s
  · have h : Only State.sansLookup s (if s.impl.wiredInterrupts then s.send (.wire (x.wire i)) else s) := by
      split
      · exact only_send _ _
      · exact .refl s
    dsimp only
    generalize (if s.impl.wiredInterrupts then s.send (.wire (x.wire i)) else s) = t at h ⊢
    split
    · exact h.trans (only_sendMsi _ _ _ _ _ _ _ _)
    · exact h

theorem only_toggleGerror (s : State) (i : Sec) (e : GErr) (h : gerrPresent s.ids i e = true) :
    Only State.sansLookup s (toggleGerror s i e) := by
  unfold toggleGerror
  refine ⟨sansLookup_setIface s i _ rfl, ?_, ?_⟩
  · intro m; simpa [MemoryCanonical] using m
  · intro m j n hb
    simp only [State.setIface_ids]
    by_cases hj : j = i
    · subst hj
      simp only [State.setIface_iface_same] at hb
      by_cases hn : n = gerrBit e
      · exact ⟨e, hn.symm, h⟩
      · rw [toggleBit_other _ _ _ hn] at hb
        exact m j n hb
    · rw [State.setIface_iface_other s _ hj] at hb
      exact m j n hb

theorem only_raiseGerror (s : State) (i : Sec) (e : GErr) : Only State.sansLookup s (raiseGerror s i e) := by
  unfold raiseGerror
  split
  · exact .refl s
  · rename_i hp
    have hp' : gerrPresent s.ids i e = true := by
      cases h : gerrPresent s.ids i e <;> simp_all
    have h1 := only_toggleGerror s i e hp'
    dsimp only
    split
    · exact h1
    · have h2 := only_signalIrq (toggleGerror s i e) i .gerror
      split
      · rename_i t he; rw [he] at h2; exact h1.trans h2
      · rename_i t he
        rw [he] at h2
        split
        · rename_i hq
          refine (h1.trans h2).trans (only_toggleGerror _ _ _ ?_)
          cases h : gerrPresent t.ids i .msiGerror <;> simp_all
        · exact h1.trans h2

theorem only_raiseIrq (s : State) (i : Sec) (x : IrqSrc) : Only State.sansLookup s (raiseIrq s i x) := by
  have h := only_signalIrq s i x
  unfold raiseIrq
  split
  · rename_i e; rw [e] at h; exact h
  · rename_i e; rw [e] at h; exact h.trans (only_raiseGerror _ _ _)

/-! ## Records -/

theorem only_setEventqProd (s : State) (i : Sec) (g : BitVec 32 → BitVec 32) :
    Only State.sansRecord s (s.setEventqProd i g) := by
  unfold State.setEventqProd
  exact only_setIface s i _ (sansRecord_setIface s i _ rfl) rfl rfl

theorem only_eventqOverflow (s : State) (i : Sec) : Only State.sansRecord s (eventqOverflow s i) := by
  unfold eventqOverflow
  dsimp only
  split
  · exact only_setEventqProd _ _ _
  · exact .refl s

theorem only_eventqAdvance (s : State) (i : Sec) (b : Bool) : Only State.sansRecord s (eventqAdvance s i b) := by
  unfold eventqAdvance
  dsimp only
  split
  · exact (only_setEventqProd _ _ _).trans (only_raiseIrq _ _ _).weaken
  · exact only_setEventqProd _ _ _

theorem only_writeRecord (s : State) (i : Sec) (r : BitVec 256) : Only State.sansRecord s (writeRecord s i r).2 := by
  unfold writeRecord
  dsimp only
  split
  · rename_i e
    have h := (only_snd (only_smmuWrite _ _ _ _ _ _ _) e).weaken
    split
    · exact h.trans (only_raiseGerror _ _ _).weaken
    · exact (h.trans (only_eventqAdvance _ _ _)).trans (only_raiseGerror _ _ _).weaken
  · rename_i e
    exact (only_snd (only_smmuWrite _ _ _ _ _ _ _) e).weaken.trans (only_eventqAdvance _ _ _)

theorem only_recordEvent (s : State) (i : Sec) (r : BitVec 256) : Only State.sansRecord s (recordEvent s i r) := by
  unfold recordEvent
  split
  · exact only_writeRecord _ _ _
  · exact only_eventqOverflow _ _

end Sys2Proof.Laws
end

