-- ==== Sys2Proof/Laws/OnlyLookup.lean ====
section
/-! SUPPORT. What the lookup of a stream's configuration changes at most. -/

namespace Sys2Proof.Laws

open Sys2Proof.Machine Sys2Proof.Safety

theorem only_noteAccess (s : State) (o : AccFrom) (k : FarCode) : Only State.sansLookup s (noteAccess s o k) := by
  unfold noteAccess
  split
  · exact .of_same rfl rfl rfl rfl rfl rfl
  · exact .refl s

theorem only_noteMade (s : State) (o : AccFrom) (k : FarCode) (e : Option MemErr) :
    Only State.sansLookup s (noteMade s o k e) :=
  .ite (.refl s) (only_noteAccess s o k)

theorem only_noteMiss (s : State) (x : PmuSrc) (k : FarCode) : Only State.sansLookup s (noteMiss s x k) := by
  unfold noteMiss
  split
  · exact .of_same rfl rfl rfl rfl rfl rfl
  · exact .refl s

theorem xonly_miss (c : Ctx) (k : FarCode) : XOnly State.sansLookup (X.miss c k) := fun s => only_noteMiss s _ _

theorem xonly_read (c : Ctx) (o : AccFrom) (p : Pas) (a : DWord) (n : Nat) (k : FarCode) :
    XOnly State.sansLookup (X.read c o p a n k) :=
  fun s => (only_smmuRead s _ _ _ _ _ _).trans (only_noteMade _ _ _ _)

theorem xonly_write (c : Ctx) (o : AccFrom) (p : Pas) (a : DWord) (bs : List Byte) (k : FarCode) :
    XOnly State.sansLookup (X.write c o p a bs k) :=
  fun s => (only_smmuWrite s _ _ _ _ _ _).trans (only_noteMade _ _ _ _)

theorem xonly_free : XOnly State.sansLookup X.free := fun s => only_takeFree s

theorem xonly_cacheNow : XOnly State.sansLookup X.cacheNow := fun s => only_cacheNow s

theorem xonly_caches (g : Caches → Caches) : XOnly State.sansLookup (X.caches g) := fun s => only_caches s _

theorem xonly_mpamLimit (l : BitVec 32) (p : BitVec 16) (g : BitVec 8) : XOnly State.sansLookup (mpamLimit l p g) :=
  fun s => only_limitMpam s l p g

theorem xonly_clientMpam (c : Ctx) (x : Ste) (v : Option (BitVec 512)) (d : Option Cd) :
    XOnly State.sansLookup (clientMpam c x v d) := by
  unfold clientMpam
  repeat' first
    | with_reducible exact xonly_pure _ | with_reducible exact xonly_state | with_reducible exact xonly_mpamLimit _ _ _
    | with_reducible refine xonly_bind ?_ fun _ => ?_
    | split
    | dsimp only

theorem only_noteMpam (s : State) (m : Mpam) : Only State.sansLookup s (s.noteMpam m) := .of_same rfl rfl rfl rfl rfl rfl

theorem xonly_requestMpam (c : Ctx) (x : Ste) (v : Option (BitVec 512)) (d : Option Cd) :
    XOnly State.sansLookup (requestMpam c x v d) :=
  xonly_bind (xonly_clientMpam c x v d) fun m => xonly_bind (fun s => only_noteMpam s m) fun _ => xonly_pure _

theorem xonly_steMpam (c : Ctx) (x : Ste) : XOnly State.sansLookup (steMpam c x) := xonly_clientMpam _ _ _ _

theorem xonly_fetchPhys (c : Ctx) (a : DWord) (n : Nat) (k : FarCode) (ev : DWord → Bool → Event) :
    XOnly State.sansLookup (fetchPhys c a n k ev) := by
  unfold fetchPhys
  repeat' first
    | with_reducible exact xonly_miss _ _
    | with_reducible exact xonly_pure _ | with_reducible exact xonly_stop _ | with_reducible exact xonly_state | with_reducible exact xonly_read _ _ _ _ _ _
    | with_reducible refine xonly_bind ?_ fun _ => ?_
    | split
    | dsimp only

theorem xonly_fetchL1std (c : Ctx) : XOnly State.sansLookup (fetchL1std c) := by
  unfold fetchL1std
  repeat' first
    | with_reducible exact xonly_pure _ | with_reducible exact xonly_stop _ | with_reducible exact xonly_state | with_reducible exact xonly_fetchPhys _ _ _ _ _
    | with_reducible exact xonly_cacheNow | with_reducible exact xonly_caches _
    | with_reducible refine xonly_bind ?_ fun _ => ?_
    | split
    | dsimp only

theorem xonly_steAddr (c : Ctx) : XOnly State.sansLookup (steAddr c) := by
  unfold steAddr
  repeat' first
    | with_reducible exact xonly_pure _ | with_reducible exact xonly_stop _ | with_reducible exact xonly_state | with_reducible exact xonly_fetchL1std _
    | with_reducible refine xonly_bind ?_ fun _ => ?_
    | split
    | dsimp only

theorem xonly_findSte (c : Ctx) : XOnly State.sansLookup (findSte c) := by
  unfold findSte
  repeat' first
    | with_reducible exact xonly_pure _ | with_reducible exact xonly_stop _ | with_reducible exact xonly_state
    | with_reducible refine xonly_bind ?_ fun _ => ?_
    | split

theorem xonly_fetchSte (c : Ctx) : XOnly State.sansLookup (fetchSte c) := by
  unfold fetchSte
  repeat' first
    | with_reducible exact xonly_pure _ | with_reducible exact xonly_stop _ | with_reducible exact xonly_state | with_reducible exact xonly_fetchPhys _ _ _ _ _
    | with_reducible exact xonly_findSte _ | with_reducible exact xonly_steAddr _ | with_reducible exact xonly_cacheNow
    | with_reducible exact xonly_caches _
    | with_reducible refine xonly_bind ?_ fun _ => ?_
    | split
    | dsimp only

theorem xonly_fetchValidSte (c : Ctx) : XOnly State.sansLookup (fetchValidSte c) := by
  unfold fetchValidSte
  repeat' first
    | with_reducible exact xonly_pure _ | with_reducible exact xonly_stop _ | with_reducible exact xonly_state | with_reducible exact xonly_fetchSte _
    | with_reducible refine xonly_bind ?_ fun _ => ?_
    | split
    | dsimp only

theorem xonly_fetchVms (c : Ctx) (x : Ste) : XOnly State.sansLookup (fetchVms c x) := by
  unfold fetchVms
  repeat' first
    | with_reducible exact xonly_pure _ | with_reducible exact xonly_stop _ | with_reducible exact xonly_state | with_reducible exact xonly_fetchPhys _ _ _ _ _
    | with_reducible exact xonly_cacheNow | with_reducible exact xonly_caches _
    | with_reducible refine xonly_bind ?_ fun _ => ?_
    | split
    | dsimp only

theorem only_lookupSte (s : State) (i : Sec) (sid : BitVec 32) (q : Bool) :
    Only State.sansLookup s (lookupSte s i sid q).2 :=
  xonly_fetchValidSte _ s

theorem only_recordOf (s : State) (t : EvTxn) (e : Event) : Only State.sansLookup s (s.recordOf t e).2 :=
  .of_same rfl rfl rfl rfl rfl rfl

theorem only_emitEvent (s : State) (t : EvTxn) (e : Event) : Only State.sansRecord s (emitEvent s t e) :=
  (only_recordOf s t e).weaken.trans (only_recordEvent _ _ _)

end Sys2Proof.Laws
end

