-- ==== Sys2Proof/Laws/OnlyWalk.lean ====
section
/-! SUPPORT. What translation table walks and stage 2 change at most. -/

namespace Sys2Proof.Laws

open Sys2Proof.Machine Sys2Proof.Safety

/-- The accesses of a walk change only what `f` drops. -/
structure WalkOnly (f : State → State) (m : WalkMem) : Prop where
  read : ∀ a n ns x t, XOnly f (m.read a n ns x t)
  update : ∀ a ns v, XOnly f (m.update a ns v)
  fault : ∀ k n, XOnly f (m.fault k n)

theorem xonly_walkLevels {f : State → State} (g : WalkCfg) (m : WalkMem) (hm : WalkOnly f m) (va : DWord)
    (n below top : Nat) (table : DWord) (acc : WalkAcc) : XOnly f (walkLevels g m va n below top table acc) := by
  induction n generalizing below top table acc with
  | zero => exact hm.fault _ _
  | succ n ih =>
    unfold walkLevels
    repeat' first
      | with_reducible apply hm.fault
      | with_reducible apply hm.read
      | with_reducible apply hm.update
      | with_reducible apply ih
      | with_reducible apply xonly_pure
      | with_reducible refine xonly_bind ?_ fun _ => ?_
      | split
      | dsimp only

theorem xonly_walk {f : State → State} (g : WalkCfg) (m : WalkMem) (hm : WalkOnly f m) (va : DWord) :
    XOnly f (walk g m va) := xonly_walkLevels g m hm va _ _ _ _ _

theorem xonly_storeLeaf {f : State → State} (g : WalkCfg) (m : WalkMem) (hm : WalkOnly f m) (l : Leaf) :
    XOnly f (storeLeaf g m l) := hm.update _ _ _

theorem xonly_checkLeaf (g : WalkCfg) (m : WalkMem) (hm : WalkOnly State.sansLookup m) (k : LeafCheck)
    (hk : ∀ i, XOnly State.sansLookup (k.fault i)) (a : Acc) (l : Leaf) :
    XOnly State.sansLookup (checkLeaf g m k a l) := by
  unfold checkLeaf
  repeat' first
    | with_reducible apply hm.fault
    | with_reducible apply xonly_storeLeaf _ _ hm
    | with_reducible apply hk
    | with_reducible apply xonly_free
    | with_reducible apply xonly_pure
    | with_reducible refine xonly_bind ?_ fun _ => ?_
    | split
    | dsimp only

theorem only_setHdbssProd (s : State) (i : Sec) (n : Nat) (g : BitVec 64 → BitVec 64) :
    Only State.sansLookup s (s.setHdbssProd i n g) := by
  unfold State.setHdbssProd
  refine only_setIface s i _ (sansLookup_setIface s i _ ?_) ?_ ?_ <;> split <;> rfl

theorem only_hdbssError (s : State) (i : Sec) (n k : Nat) : Only State.sansLookup s (hdbssError s i n k) :=
  (only_setHdbssProd _ _ _ _).trans (only_raiseGerror _ _ _)

theorem only_hdbssAppend (s : State) (i : Sec) (ipa : DWord) (level : Nat) (ns : Bool) :
    Only State.sansLookup s (hdbssAppend s i ipa level ns) := by
  unfold hdbssAppend
  dsimp only
  split
  · exact .refl s
  · split
    · exact only_hdbssError _ _ _ _
    · split
      · exact .refl s
      · split
        · rename_i e; exact (only_snd (only_smmuWrite _ _ _ _ _ _ _) e).trans (only_hdbssError _ _ _ _)
        · rename_i e; exact (only_snd (only_smmuWrite _ _ _ _ _ _ _) e).trans (only_hdbssError _ _ _ _)
        · rename_i e
          have h := only_snd (only_smmuWrite _ _ _ _ _ _ _) e
          repeat' split
          all_goals first
            | exact (h.trans (only_setHdbssProd _ _ _ _)).trans (only_raiseIrq _ _ _)
            | exact h.trans (only_setHdbssProd _ _ _ _)

theorem xonly_modify_hdbss (i : Sec) (ipa : DWord) (level : Nat) (ns : Bool) :
    XOnly State.sansLookup (modify fun s => hdbssAppend s i ipa level ns : X PUnit) :=
  fun s => only_hdbssAppend s i ipa level ns

theorem xonly_stopTrf {α : Type} (c : Ctx) (f : TrfInfo) (a r st : Bool) : XOnly State.sansLookup (stopTrf c f a r st : X α) :=
  xonly_bind xonly_state fun _ => xonly_stop _

theorem xonly_s2Fault {α : Type} (c : Ctx) (q : S2Req) (f : TrfInfo → TrfInfo) (k : TrfKind) :
    XOnly State.sansLookup (s2Fault c q f k : X α) := xonly_stopTrf _ _ _ _ _

theorem xonly_s2Eabt {α : Type} (q : S2Req) (a : DWord) (e : MemErr) : XOnly State.sansLookup (s2Eabt q a e : X α) :=
  xonly_bind xonly_state fun _ => xonly_stop _

theorem walkOnly_s2Mem (c : Ctx) (q : S2Req) : WalkOnly State.sansLookup (s2Mem c q) := by
  refine ⟨fun a n ns x t => ?_, fun a ns v => ?_, fun k n => xonly_s2Fault _ _ _ _⟩ <;> dsimp only [s2Mem] <;> (
  repeat' first
    | with_reducible apply xonly_state
    | with_reducible apply xonly_steMpam
    | with_reducible apply xonly_read
    | with_reducible apply xonly_write
    | with_reducible apply xonly_s2Eabt
    | with_reducible apply xonly_pure
    | with_reducible refine xonly_bind ?_ fun _ => ?_
    | split
    | dsimp only)

theorem xonly_oneTlbEntry (d : Ids) (b : Bool) (a : DWord) (n : Bool) (l : List TlbEntry) :
    XOnly State.sansLookup (oneTlbEntry d b a n l) := by
  unfold oneTlbEntry
  split
  · exact xonly_stop _
  · exact xonly_pure _

theorem xonly_s2Translate (c : Ctx) (q : S2Req) : XOnly State.sansLookup (s2Translate c q) := by
  unfold s2Translate
  repeat' first
    | with_reducible apply xonly_miss
    | with_reducible apply xonly_pure
    | with_reducible apply xonly_state
    | with_reducible apply xonly_cacheNow
    | with_reducible apply xonly_caches
    | with_reducible apply xonly_s2Fault
    | with_reducible apply xonly_oneTlbEntry
    | with_reducible apply xonly_modify_hdbss
    | with_reducible apply xonly_walk _ _ (walkOnly_s2Mem _ _)
    | with_reducible apply xonly_checkLeaf _ _ (walkOnly_s2Mem _ _) _ (fun _ => xonly_s2Fault _ _ _ _)
    | with_reducible refine xonly_bind ?_ fun _ => ?_
    | split
    | dsimp only

end Sys2Proof.Laws
end

