-- ==== Sys2Proof/Laws/OnlyPath.lean ====
section
/-! SUPPORT. What the lookup of a CD, stage 1, both stages and the DPT check change at most. -/

namespace Sys2Proof.Laws

open Sys2Proof.Machine Sys2Proof.Safety

theorem xonly_readCdMem (c : Ctx) (x : Ste) (addr : DWord) (n : Nat) : XOnly State.sansLookup (readCdMem c x addr n) := by
  unfold readCdMem
  repeat' first
    | with_reducible apply xonly_miss
    | with_reducible apply xonly_pure
    | with_reducible apply xonly_stop
    | with_reducible apply xonly_state
    | with_reducible apply xonly_read
    | with_reducible apply xonly_steMpam
    | with_reducible apply xonly_s2Translate
    | with_reducible refine xonly_bind ?_ fun _ => ?_
    | split
    | dsimp only

theorem xonly_cdTable (c : Ctx) (x : Ste) (ssid k : Nat) : XOnly State.sansLookup (cdTable c x ssid k) := by
  unfold cdTable
  repeat' first
    | with_reducible apply xonly_pure
    | with_reducible apply xonly_stop
    | with_reducible apply xonly_state
    | with_reducible apply xonly_cacheNow
    | with_reducible apply xonly_caches
    | with_reducible apply xonly_readCdMem
    | with_reducible refine xonly_bind ?_ fun _ => ?_
    | split
    | dsimp only

theorem xonly_fetchCd (c : Ctx) (x : Ste) (ssid : Nat) : XOnly State.sansLookup (fetchCd c x ssid) := by
  unfold fetchCd
  repeat' first
    | with_reducible apply xonly_pure
    | with_reducible apply xonly_stop
    | with_reducible apply xonly_state
    | with_reducible apply xonly_cacheNow
    | with_reducible apply xonly_caches
    | with_reducible apply xonly_readCdMem
    | with_reducible apply xonly_cdTable
    | with_reducible refine xonly_bind ?_ fun _ => ?_
    | split
    | dsimp only

theorem xonly_selectCd (c : Ctx) (x : Ste) : XOnly State.sansLookup (selectCd c x) := by
  unfold selectCd
  repeat' first
    | with_reducible apply xonly_pure
    | with_reducible apply xonly_stop
    | with_reducible apply xonly_state
    | with_reducible refine xonly_bind ?_ fun _ => ?_
    | split
    | dsimp only

theorem xonly_s1Fault {α : Type} (c : Ctx) (q : S1Req) (f : TrfInfo → TrfInfo) (k : TrfKind) :
    XOnly State.sansLookup (s1Fault c q f k : X α) := xonly_stopTrf _ _ _ _ _

theorem xonly_s1Eabt {α : Type} (q : S1Req) (a : DWord) (e : MemErr) : XOnly State.sansLookup (s1Eabt q a e : X α) :=
  xonly_bind xonly_state fun _ => xonly_stop _

theorem xonly_s1DescAddr (c : Ctx) (q : S1Req) (a : DWord) (ns notAssured : Bool) (top : Option Bool) (acc : Acc)
    (t : MemType) : XOnly State.sansLookup (s1DescAddr c q a ns notAssured top acc t) := by
  unfold s1DescAddr
  repeat' first
    | with_reducible apply xonly_pure
    | with_reducible apply xonly_state
    | with_reducible apply xonly_s2Translate
    | with_reducible refine xonly_bind ?_ fun _ => ?_
    | split
    | dsimp only

theorem walkOnly_s1Mem (c : Ctx) (q : S1Req) (half : Bool) : WalkOnly State.sansLookup (s1Mem c q half) := by
  refine ⟨fun a n ns x t => ?_, fun a ns v => ?_, fun k n => xonly_s1Fault _ _ _ _⟩ <;> dsimp only [s1Mem] <;> (
  repeat' first
    | with_reducible apply xonly_state
    | with_reducible apply xonly_read
    | with_reducible apply xonly_write
    | with_reducible apply xonly_s1DescAddr
    | with_reducible apply xonly_s1Eabt
    | with_reducible apply xonly_pure
    | with_reducible refine xonly_bind ?_ fun _ => ?_
    | split
    | dsimp only)

theorem xonly_s1Translate (c : Ctx) (q : S1Req) : XOnly State.sansLookup (s1Translate c q) := by
  unfold s1Translate
  repeat' first
    | with_reducible apply xonly_miss
    | with_reducible apply xonly_pure
    | with_reducible apply xonly_state
    | with_reducible apply xonly_cacheNow
    | with_reducible apply xonly_caches
    | with_reducible apply xonly_s1Fault
    | with_reducible apply xonly_oneTlbEntry
    | with_reducible apply (walkOnly_s1Mem _ _ _).fault
    | with_reducible apply xonly_walk _ _ (walkOnly_s1Mem _ _ _)
    | with_reducible apply xonly_checkLeaf _ _ (walkOnly_s1Mem _ _ _) _ (fun _ => xonly_s1Fault _ _ _ _)
    | with_reducible refine xonly_bind ?_ fun _ => ?_
    | split
    | dsimp only

theorem xonly_skipFault {α : Type} (k : TrfKind) : XOnly State.sansLookup (skipFault k : X α) := by
  unfold skipFault
  repeat' first
    | with_reducible apply xonly_stop
    | with_reducible apply xonly_pure
    | with_reducible refine xonly_bind ?_ fun _ => ?_
    | split
    | dsimp only

theorem xonly_pathS1 (c : Ctx) (q : PathReq) : XOnly State.sansLookup (pathS1 c q) := by
  unfold pathS1
  repeat' first
    | with_reducible apply xonly_pure
    | with_reducible apply xonly_state
    | with_reducible apply xonly_fetchCd
    | with_reducible apply xonly_selectCd
    | with_reducible apply xonly_requestMpam
    | with_reducible apply xonly_s1Translate
    | with_reducible apply xonly_skipFault
    | with_reducible refine xonly_bind ?_ fun _ => ?_
    | split
    | dsimp only

theorem xonly_pathThrough (c : Ctx) (q : PathReq) : XOnly State.sansLookup (pathThrough c q) := by
  unfold pathThrough
  repeat' first
    | with_reducible apply xonly_pure
    | with_reducible apply xonly_stopTrf
    | with_reducible apply xonly_state
    | with_reducible apply xonly_s2Translate
    | with_reducible apply xonly_skipFault
    | with_reducible apply xonly_pathS1
    | with_reducible refine xonly_bind ?_ fun _ => ?_
    | split
    | dsimp only

theorem only_dptFar (s : State) (i : Sec) (v : BitVec 64) :
    Only State.sansLookup s (raiseGerror (s.setIface i fun r => { r with dptFar := v }) i .dpt) :=
  (only_setIface s i _ (sansLookup_setIface s i _ rfl) rfl rfl).trans (only_raiseGerror _ _ _)

theorem xonly_dptFault {α : Type} (c : Ctx) (addr : DWord) (code level : Nat) :
    XOnly State.sansLookup (dptFault c addr code level : X α) := by
  intro s
  unfold dptFault
  rw [run_bind, run_state]
  dsimp only
  split
  · rw [run_bind, run_set]
    exact only_dptFar s c.sec _
  · exact xonly_stop _ s

theorem xonly_dptInsert (c : Ctx) (addr : DWord) (g : DptGrant) (size : Nat) (fromAts isTable : Bool) : XOnly State.sansLookup (dptInsert c addr g size fromAts isTable) := by
  unfold dptInsert
  repeat' first
    | with_reducible apply xonly_cacheNow
    | with_reducible apply xonly_caches
    | with_reducible apply xonly_pure
    | with_reducible refine xonly_bind ?_ fun _ => ?_
    | split
    | dsimp only

theorem xonly_dptWalk (c : Ctx) (x : Ste) (addr : DWord) : XOnly State.sansLookup (dptWalk c x addr) := by
  unfold dptWalk
  repeat' first
    | with_reducible apply xonly_pure
    | with_reducible apply xonly_state
    | with_reducible apply xonly_read
    | with_reducible apply xonly_steMpam
    | with_reducible apply xonly_dptFault
    | with_reducible apply xonly_dptInsert
    | with_reducible refine xonly_bind ?_ fun _ => ?_
    | split
    | dsimp only

theorem xonly_dptCheck (c : Ctx) (x : Ste) (addr : DWord) (write : Bool) : XOnly State.sansLookup (dptCheck c x addr write) := by
  unfold dptCheck
  repeat' first
    | with_reducible apply xonly_pure
    | with_reducible apply xonly_stop
    | with_reducible apply xonly_state
    | with_reducible apply xonly_dptWalk
    | with_reducible refine xonly_bind ?_ fun _ => ?_
    | split
    | dsimp only

theorem xonly_otConfig (c : Ctx) : XOnly State.sansLookup (otConfig c) := by
  unfold otConfig
  repeat' first
    | with_reducible apply xonly_pure
    | with_reducible apply xonly_stop
    | with_reducible apply xonly_state
    | with_reducible apply xonly_fetchValidSte
    | with_reducible apply xonly_fetchVms
    | with_reducible refine xonly_bind ?_ fun _ => ?_
    | with_reducible refine xonly_map _ ?_
    | split
    | dsimp only

theorem xonly_otPath (c : Ctx) (t : Txn) (x : Ste) (vms : Option (BitVec 512)) (ov : Overrides) : XOnly State.sansLookup (otPath c t x vms ov) := by
  unfold otPath
  repeat' first
    | with_reducible apply xonly_pure
    | with_reducible apply xonly_state
    | with_reducible apply xonly_pathThrough
    | with_reducible apply xonly_clientMpam
    | with_reducible refine xonly_bind ?_ fun _ => ?_
    | split
    | dsimp only

theorem xonly_ttCd (c : Ctx) (t : Txn) (x : Ste) : XOnly State.sansLookup (ttCd c t x) := by
  unfold ttCd
  repeat' first
    | with_reducible apply xonly_pure
    | with_reducible apply xonly_stop
    | with_reducible apply xonly_state
    | with_reducible apply xonly_fetchCd
    | with_reducible apply xonly_selectCd
    | with_reducible refine xonly_bind ?_ fun _ => ?_
    | with_reducible refine xonly_map _ ?_
    | split
    | dsimp only

theorem xonly_ttPath (c : Ctx) (t : Txn) (x : Ste) (vms : Option (BitVec 512)) (eats : Nat) (ov : Overrides) :
    XOnly State.sansLookup (ttPath c t x vms eats ov) := by
  unfold ttPath
  repeat' first
    | with_reducible apply xonly_pure
    | with_reducible apply xonly_stop
    | with_reducible apply xonly_state
    | with_reducible apply xonly_ttCd
    | with_reducible apply xonly_s2Translate
    | with_reducible apply xonly_skipFault
    | with_reducible apply xonly_clientMpam
    | with_reducible apply xonly_requestMpam
    | with_reducible apply xonly_dptCheck
    | with_reducible refine xonly_bind ?_ fun _ => ?_
    | with_reducible refine xonly_map _ ?_
    | split
    | dsimp only

theorem xonly_atosS1 (c : Ctx) (q : AtosReq) (x : Ste) (vms : Option (BitVec 512)) (acc : Acc) :
    XOnly State.sansLookup (atosS1 c q x vms acc) := by
  unfold atosS1
  repeat' first
    | with_reducible apply xonly_pure
    | with_reducible apply xonly_state
    | with_reducible apply xonly_fetchCd
    | with_reducible apply xonly_selectCd
    | with_reducible apply xonly_clientMpam
    | with_reducible apply xonly_s1Translate
    | with_reducible apply xonly_skipFault
    | with_reducible apply xonly_free
    | with_reducible refine xonly_bind ?_ fun _ => ?_
    | with_reducible refine xonly_map _ ?_
    | split
    | dsimp only

theorem xonly_atosLookup (g : AtosGroup) (q : AtosReq) (c : Ctx) : XOnly State.sansLookup (atosLookup g q c) := by
  unfold atosLookup
  repeat' first
    | with_reducible apply xonly_pure
    | with_reducible apply xonly_stop
    | with_reducible apply xonly_state
    | with_reducible apply xonly_free
    | with_reducible apply xonly_fetchValidSte
    | with_reducible apply xonly_fetchVms
    | with_reducible apply xonly_s2Translate
    | with_reducible apply xonly_skipFault
    | with_reducible apply xonly_atosS1
    | with_reducible refine xonly_bind ?_ fun _ => ?_
    | with_reducible refine xonly_map _ ?_
    | split
    | dsimp only

theorem xonly_hacdbsClean (c : Ctx) (x : Ste) (ipa : DWord) (level : Nat) (ns : Bool) : XOnly State.sansLookup (hacdbsClean c x ipa level ns) := by
  unfold hacdbsClean
  repeat' first
    | with_reducible apply xonly_miss
    | with_reducible apply xonly_pure
    | with_reducible apply xonly_state
    | with_reducible apply xonly_s2Fault
    | with_reducible apply xonly_walk _ _ (walkOnly_s2Mem _ _)
    | with_reducible apply xonly_storeLeaf _ _ (walkOnly_s2Mem _ _)
    | with_reducible apply (walkOnly_s2Mem _ _).fault
    | with_reducible refine xonly_bind ?_ fun _ => ?_
    | split
    | dsimp only

theorem xonly_hacdbsSte (c : Ctx) : XOnly State.sansLookup (hacdbsSte c) := by
  unfold hacdbsSte
  repeat' first
    | with_reducible apply xonly_pure
    | with_reducible apply xonly_state
    | with_reducible apply xonly_fetchValidSte
    | with_reducible apply xonly_fetchVms
    | with_reducible apply xonly_steMpam
    | with_reducible refine xonly_bind ?_ fun _ => ?_
    | with_reducible refine xonly_discard ?_
    | split
    | dsimp only

end Sys2Proof.Laws
end

