-- ==== Sys2Proof/Laws/OnlyClient.lean ====
section
/-! SUPPORT. What client transactions, Translation Requests, Page Requests and counting change at most, and the bound on
stalled transactions. -/

namespace Sys2Proof.Laws

open Sys2Proof.Machine Sys2Proof.Safety

/-- `t` comes from `s` by the action of a client: no register that software configures changes, and the bound on stalled
transactions is kept. -/
structure Takes (s t : State) : Prop where
  only : Only State.sansClient s t
  stalls : StallsBounded s → StallsBounded t

theorem Takes.refl (s : State) : Takes s s := ⟨.refl s, id⟩

theorem Takes.trans {s t u : State} (h : Takes s t) (k : Takes t u) : Takes s u :=
  ⟨h.only.trans k.only, fun b => k.stalls (h.stalls b)⟩

theorem Takes.ite {s a b : State} {c : Prop} [Decidable c] (h : Takes s a) (k : Takes s b) :
    Takes s (if c then a else b) := by
  split
  · exact h
  · exact k

theorem Takes.foldl {α : Type} (g : State → α → State) (hg : ∀ s a, Takes s (g s a)) (l : List α) (s : State) :
    Takes s (l.foldl g s) := by
  induction l generalizing s with
  | nil => exact .refl s
  | cons a l ih => exact (hg s a).trans (ih (g s a))

theorem stallsBounded_congr {s t : State} (h : t.stalls = s.stalls) (hi : t.ids = s.ids) (b : StallsBounded s) :
    StallsBounded t := by
  unfold StallsBounded recordedStalls at *
  rwa [h, hi]

theorem ids_of_sansRecord {s t : State} (h : t.sansRecord = s.sansRecord) : t.ids = s.ids := by
  have := congrArg State.ids h
  exact this

theorem stalls_of_sansRecord {s t : State} (h : t.sansRecord = s.sansRecord) : t.stalls = s.stalls := by
  have := congrArg State.stalls h
  exact this

theorem sansClient_of_sansRecord {s t : State} (h : t.sansRecord = s.sansRecord) : t.sansClient = s.sansClient := by
  have e : t.pmcgs = s.pmcgs := by
    have := congrArg State.pmcgs h
    exact this
  unfold State.sansClient
  rw [h, e]

theorem Takes.of_record {s t : State} (h : Only State.sansRecord s t) : Takes s t :=
  ⟨⟨sansClient_of_sansRecord h.same, h.memory, h.errors⟩,
    stallsBounded_congr (stalls_of_sansRecord h.same) (ids_of_sansRecord h.same)⟩

theorem Takes.of_lookup {s t : State} (h : Only State.sansLookup s t) : Takes s t := .of_record h.weaken

theorem takes_send (s : State) (o : Output) : Takes s (s.send o) := .of_lookup (only_send s o)

theorem takes_respond (s : State) (n : Nat) (r : Response) : Takes s (s.respond n r) := takes_send _ _

theorem takes_emitEvent (s : State) (e : EvTxn) (v : Event) : Takes s (emitEvent s e v) := .of_record (only_emitEvent s e v)

theorem takes_emitFor (s : State) (e : EvTxn) (v : Event) : Takes s (emitFor s e v) := by
  unfold emitFor
  split
  · exact .refl s
  · exact takes_emitEvent _ _ _

/-! ## STAGs -/

/-- A number below the length of a list plus one is not in the list. -/
theorem exists_unused (l : List Nat) : ∃ n, n < l.length + 1 ∧ n ∉ l := by
  by_contra h
  have h' : ∀ n, n < l.length + 1 → n ∈ l := fun n hn => by
    by_contra hc
    exact h ⟨n, hn, hc⟩
  have hs : Finset.range (l.length + 1) ⊆ l.toFinset := by
    intro n hn
    simpa using h' n (by simpa using hn)
  have h1 := Finset.card_le_card hs
  have h2 := List.toFinset_card_le l
  simp only [Finset.card_range] at h1
  omega

theorem find?_range_least (n : Nat) (p : Nat → Bool) {k : Nat} (hk : k < n) (hp : p k = true) :
    ∃ m, (List.range n).find? p = some m ∧ p m = true ∧ m ≤ k := by
  induction n with
  | zero => omega
  | succ n ih =>
    rw [List.range_succ, List.find?_append]
    by_cases hkn : k < n
    · obtain ⟨m, h1, h2, h3⟩ := ih hkn
      exact ⟨m, by rw [h1]; rfl, h2, h3⟩
    · have : k = n := by omega
      subst this
      cases hf : (List.range k).find? p with
      | none => exact ⟨k, by simp [hp], hp, Nat.le_refl k⟩
      | some m =>
        refine ⟨m, by simp, List.find?_some hf, ?_⟩
        have := List.mem_of_find?_eq_some hf
        simp at this
        omega

/-- The STAG that a stall takes is held by no recorded stall. -/
theorem freshStag_unused (s : State) (h : (recordedStalls s).length < 2 ^ 16) :
    ∀ x ∈ recordedStalls s, x.stag ≠ freshStag s := by
  obtain ⟨n, hn, hu⟩ := exists_unused ((recordedStalls s).map fun x => x.stag.toNat)
  simp only [List.length_map] at hn
  have hlen : (recordedStalls s).length ≤ s.stalls.length := List.length_filter_le _ _
  have hp : (!s.stalls.any fun x => x.recorded && x.stag.toNat == n) = true := by
    simp only [Bool.not_eq_true', List.any_eq_false]
    intro x hx hc
    simp only [Bool.and_eq_true, beq_iff_eq] at hc
    exact hu (List.mem_map.2 ⟨x, List.mem_filter.2 ⟨hx, hc.1⟩, hc.2⟩)
  obtain ⟨m, hf, hm, hle⟩ := find?_range_least (s.stalls.length + 1)
    (fun n => !s.stalls.any fun x => x.recorded && x.stag.toNat == n) (k := n) (by omega) hp
  intro x hx hc
  unfold freshStag at hc
  rw [hf] at hc
  simp only [Option.getD_some] at hc
  have hm2 : x.stag.toNat = m := by
    rw [hc, BitVec.toNat_ofNat, Nat.mod_eq_of_lt (by omega)]
  simp only [Bool.not_eq_true', List.any_eq_false] at hm
  have hx' := List.mem_filter.1 hx
  exact hm x hx'.1 (by simp [hx'.2, hm2])

theorem stallMax_lt (d : Ids) : d.stallMax < 2 ^ 16 := fieldNat_lt _ _ _

/-- A stalled transaction added. -/
theorem takes_addStall (s : State) (x : Stall) (h : x.recorded = true →
    (recordedStalls s).length < s.ids.stallMax ∧ ∀ y ∈ recordedStalls s, y.stag ≠ x.stag) :
    Takes s { s with stalls := s.stalls ++ [x] } := by
  refine ⟨.of_same rfl rfl rfl rfl rfl rfl, fun b => ?_⟩
  unfold StallsBounded recordedStalls at *
  simp only [List.filter_append]
  cases hx : x.recorded with
  | false => simpa [hx] using b
  | true =>
    obtain ⟨h1, h2⟩ := h hx
    simp only [List.filter_cons, hx, if_true, List.filter_nil, List.map_append, List.map_cons, List.map_nil,
      List.length_append, List.length_cons, List.length_nil]
    refine ⟨?_, by omega⟩
    rw [List.nodup_append]
    refine ⟨b.1, by simp, ?_⟩
    intro a ha b' hb'
    obtain ⟨y, hy, rfl⟩ := List.mem_map.1 ha
    simp only [List.mem_singleton] at hb'
    rw [hb']
    exact h2 y hy

theorem takes_stallAccess (s : State) (w : Stalled) (ev : EvTxn) (f : TrfInfo) : Takes s (stallAccess s w ev f) := by
  unfold stallAccess
  dsimp only
  split
  · rename_i hw
    have hlen : (recordedStalls s).length < s.ids.stallMax := by
      have := (Bool.and_eq_true _ _).mp hw
      exact of_decide_eq_true this.2
    have hfresh := freshStag_unused s (by have := stallMax_lt s.ids; omega)
    have h1 : Only State.sansRecord s (writeRecord (s.recordOf ev (.trf f (some (freshStag s)))).2 w.sec
        (s.recordOf ev (.trf f (some (freshStag s)))).1).2 :=
      (only_recordOf s _ _).weaken.trans (only_writeRecord _ _ _)
    have hs := stalls_of_sansRecord h1.same
    have hi := ids_of_sansRecord h1.same
    refine (Takes.of_record h1).trans (takes_addStall _ ⟨freshStag s, w, _⟩ fun _ => ?_)
    unfold recordedStalls at *
    rw [hs, hi]
    exact ⟨hlen, hfresh⟩
  · exact takes_addStall _ _ (fun h => by simp at h)

theorem takes_endStopped (s : State) (t : Txn) (ev : EvTxn) (w : Stop) : Takes s (endStopped s t ev w) := by
  unfold endStopped
  repeat' split
  all_goals first
    | exact takes_respond _ _ _
    | exact takes_stallAccess _ _ _ _
    | exact (takes_emitFor _ _ _).trans (takes_respond _ _ _)
    | exact (takes_emitEvent _ _ _).trans (takes_respond _ _ _)

/-- Part of the stalled transactions taken away. -/
theorem takes_dropStalls (s : State) (l : List Stall) (h : l.Sublist s.stalls) : Takes s { s with stalls := l } := by
  refine ⟨.of_same rfl rfl rfl rfl rfl rfl, fun b => ?_⟩
  have hf : (l.filter (·.recorded)).Sublist (s.stalls.filter (·.recorded)) := h.filter _
  exact ⟨b.1.sublist (hf.map _), Nat.le_trans hf.length_le b.2⟩

/-! ## Output -/

theorem only_memAccess (s : State) (t : Txn) (k : TxnKind) (p : Pas) (a : DWord) :
    Only State.sansLookup s (memAccess s t k p a) := by
  unfold memAccess
  dsimp only
  repeat' split
  all_goals first
    | exact only_send _ _
    | exact (only_storeBytes _ _ _ _).trans (only_send _ _)

theorem only_exclusiveAccess (s : State) (t : Txn) (k : TxnKind) (p : Pas) (a : DWord) :
    Only State.sansLookup s (exclusiveAccess s t k p a) := by
  unfold exclusiveAccess
  split
  · have h := only_takeFree s
    generalize s.takeFree = q at h ⊢
    obtain ⟨u, v⟩ := q
    exact .ite ((h.trans (only_storeBytes _ _ _ _)).trans (only_send _ _)) (h.trans (only_send _ _))
  · exact only_send _ _

/-- An access forwarded, then answered. -/
theorem only_forward (s : State) (o : Output) (c : Prop) [Decidable c] (t : Txn) (k : TxnKind) (p : Pas) (a : DWord) :
    Only State.sansLookup s (if c then exclusiveAccess (s.send o) t k p a else memAccess (s.send o) t k p a) :=
  .ite ((only_send _ _).trans (only_exclusiveAccess _ _ _ _ _)) ((only_send _ _).trans (only_memAccess _ _ _ _ _))

theorem only_outputTxn (s : State) (t : Txn) (q : OutReq) : Only State.sansLookup s (outputTxn s t q) := by
  unfold outputTxn
  dsimp only
  split
  · exact only_send _ _
  · refine .trans (only_noteGpt s (.stream t.sec t.sid t.pm) (q.partid, q.pmg, q.mpamSp) q.addr) ?_
    split
    · exact only_send _ _
    · exact (only_reportGpc _ _ _ _ _ _).trans (only_send _ _)
    · exact (only_cacheGpi _ _).trans (only_forward _ _ _ _ _ _ _)
    · exact (only_reportGpc _ _ _ _ _ _).trans (only_send _ _)

theorem takes_outputTxn (s : State) (t : Txn) (q : OutReq) : Takes s (outputTxn s t q) := .of_lookup (only_outputTxn s t q)

theorem takes_run {α : Type} {x : X α} (hx : XOnly State.sansLookup x) {s t : State} {r : Except Stop α}
    (h : X.run x s = (r, t)) : Takes s t := .of_lookup (only_run hx h)

theorem only_gbpMpam (s : State) (i : Sec) : Only State.sansLookup s (gbpMpam s i).2 := only_mpamWithin s _ _

theorem only_bypassGlobal (s : State) (t : Txn) : Only State.sansLookup s (bypassGlobal s t) := by
  unfold bypassGlobal
  refine .ite (only_send _ _) ?_
  dsimp only
  exact ((only_gbpMpam s t.sec).trans (only_noteMpam _ _)).trans (only_outputTxn _ _ _)

theorem takes_unsupported {s u : State} {t : Txn} (h : unsupported s t = some u) : Takes s u := by
  unfold unsupported at h
  split at h
  · cases h; exact takes_respond _ _ _
  · split at h
    · cases h; exact takes_endStopped _ _ _ _
    · cases h

theorem takes_processOt (s : State) (t : Txn) : Takes s (processOt s t) := by
  unfold processOt
  split
  · rename_i h; exact takes_unsupported h
  · split
    · exact .of_lookup (only_bypassGlobal _ _)
    · dsimp only
      split
      · rename_i h; exact (takes_run (xonly_otConfig _) h).trans (takes_endStopped _ _ _ _)
      · rename_i h
        have h1 := takes_run (xonly_otConfig _) h
        split
        · rename_i h'; exact (h1.trans (takes_run (xonly_otPath _ _ _ _ _) h')).trans (takes_endStopped _ _ _ _)
        · rename_i h'; exact (h1.trans (takes_run (xonly_otPath _ _ _ _ _) h')).trans (takes_outputTxn _ _ _)

/-- An access forwarded and answered: aborted, or a store, or a read. -/
theorem only_answered (s : State) (o : Output) (c d : Prop) [Decidable c] [Decidable d] (n : Nat) (p : Pas) (a : DWord)
    (bs : List Byte) (q r : Response) :
    Only State.sansLookup s (if c then (s.send o).respond n .abort
      else if d then ((s.send o).storeBytes p a bs).respond n q else (s.send o).respond n r) :=
  (only_send s o).trans (.ite (only_send _ _) (.ite ((only_storeBytes _ _ _ _).trans (only_send _ _)) (only_send _ _)))

theorem only_processNoSid (s : State) (t : NoSidTxn) : Only State.sansLookup s (processNoSid s t) := by
  unfold processNoSid
  refine .ite (only_send _ _) ?_
  refine .trans ((only_noteMpam s (t.mpam s)).trans (only_noteGpt _ (.noSid t.pas) (t.mpam s) t.addr)) ?_
  dsimp only
  split
  · exact (only_cacheGpi _ _).trans (only_answered _ _ _ _ _ _ _ _ _ _)
  · exact (only_recordGpc _ _ _ _ _).trans (only_send _ _)

/-! ## Translation Requests and Translated transactions -/

theorem takes_denyTr (s : State) (r : AtsReq) (b : Bool) : Takes s (denyTr s r b) := by
  unfold denyTr
  dsimp only
  split
  · exact (takes_emitEvent _ _ _).trans (takes_send _ _)
  · exact takes_send _ _

theorem takes_abortTr (s : State) (r : AtsReq) (ev : EvTxn) (e : Option Event) : Takes s (abortTr s r ev e) := by
  unfold abortTr
  dsimp only
  repeat' split
  all_goals first
    | exact takes_send _ _
    | exact (takes_emitFor _ _ _).trans (takes_send _ _)

theorem takes_emptyTr (s : State) (r : AtsReq) (e : Nat) (b : Bool) : Takes s (emptyTr s r e b) := takes_send _ _

theorem only_trChecked (s : State) : Only State.sansLookup s (trChecked s).2 := by
  unfold trChecked
  split
  · exact .refl s
  · exact only_takeFree s

theorem only_trGpc (s : State) (r : AtsReq) (m : Mpam) (p : Pas) (a : DWord) (w : Bool) :
    Only State.sansLookup s (trGpc s r m p a w).2 := by
  have h := only_trChecked s
  unfold trGpc
  generalize trChecked s = q at h ⊢
  obtain ⟨b, t⟩ := q
  cases b
  · exact h
  · have k := h.trans (only_noteGpt t (.stream r.sec r.sid r.pm) m a)
    dsimp only
    repeat' split
    all_goals first
      | exact k
      | exact k.trans (only_reportGpc _ _ _ _ _ _)

theorem takes_completeTr (s : State) (r : AtsReq) (c : Ctx) (x : Ste) (eats : Nat) (ov : Overrides) (p : Path) :
    Takes s (completeTr s r c x eats ov p) := by
  unfold completeTr
  dsimp only
  split
  · exact takes_emptyTr _ _ _ _
  · generalize hq : (if eats = 2 then ((some (trGrants s x r p).2.1, s) : Option Bool × State)
      else trGpc s r p.mpam p.pas p.addr (trGrants s x r p).2.1) = q
    have h : Only State.sansLookup s q.2 := by
      rw [← hq]
      split
      · exact .refl s
      · exact only_trGpc _ _ _ _ _ _
    split
    · exact (Takes.of_lookup h).trans (takes_send _ _)
    · split
      · exact (Takes.of_lookup h).trans (takes_emptyTr _ _ _ _)
      · refine (Takes.of_lookup h).trans ?_
        dsimp only
        split
        · exact (Takes.of_lookup (xonly_dptInsert _ _ _ _ _ _ _)).trans (takes_send _ _)
        · exact takes_send _ _

theorem xonly_trConfig (c : Ctx) : XOnly State.sansLookup (trConfig c) := by
  unfold trConfig
  repeat' first
    | with_reducible apply xonly_pure
    | with_reducible apply xonly_state
    | with_reducible apply xonly_fetchValidSte
    | with_reducible apply xonly_fetchVms
    | with_reducible refine xonly_bind ?_ fun _ => ?_
    | with_reducible refine xonly_map _ ?_
    | split

theorem takes_trAsSeen (s : State) (r : AtsReq) : Takes s (trAsSeen s r) := by
  unfold trAsSeen
  split
  · exact takes_denyTr _ _ _
  · refine (Takes.of_lookup (only_takeFree s)).trans ?_
    generalize s.takeFree = p
    obtain ⟨u, s⟩ := p
    dsimp only
    split
    · exact takes_abortTr _ _ _ _
    · split
      · rename_i h; exact (takes_run (xonly_trConfig _) h).trans (takes_abortTr _ _ _ _)
      · rename_i h; exact (takes_run (xonly_trConfig _) h).trans (takes_abortTr _ _ _ _)
      · rename_i h
        refine (takes_run (xonly_trConfig _) h).trans (.ite (takes_denyTr _ _ _) (.ite (takes_denyTr _ _ _) ?_))
        split
        · rename_i h'; exact (takes_run (xonly_pathThrough _ _) h').trans (takes_emptyTr _ _ _ _)
        · rename_i h'; exact (takes_run (xonly_pathThrough _ _) h').trans (takes_abortTr _ _ _ _)
        · rename_i h'; exact (takes_run (xonly_pathThrough _ _) h').trans (takes_abortTr _ _ _ _)
        · rename_i h'; exact (takes_run (xonly_pathThrough _ _) h').trans (takes_completeTr _ _ _ _ _ _ _)

theorem takes_processTr (s : State) (r : AtsReq) : Takes s (processTr s r) := takes_trAsSeen _ _

theorem takes_forbidTt (s : State) (t : Txn) (ev : EvTxn) : Takes s (forbidTt s t ev) := takes_endStopped _ _ _ _

theorem takes_endTt (s : State) (t : Txn) (ev : EvTxn) (w : Stop) : Takes s (endTt s t ev w) := by
  unfold endTt
  repeat' split
  all_goals first
    | exact takes_endStopped _ _ _ _
    | exact (takes_emitEvent _ _ _).trans (takes_endStopped _ _ _ _)

theorem takes_unsupportedTt {s u : State} {t : Txn} {ev : EvTxn} (h : unsupportedTt s t ev = some u) : Takes s u := by
  unfold unsupportedTt at h
  split at h
  · cases h; exact takes_endStopped _ _ _ _
  · split at h
    · cases h; exact takes_respond _ _ _
    · cases h

theorem takes_processTt (s : State) (t : Txn) : Takes s (processTt s t) := by
  unfold processTt
  dsimp only
  split
  · rename_i h; exact takes_unsupportedTt h
  refine .ite (takes_forbidTt _ _ _) (.ite ?_ ?_)
  · split
    · exact takes_endStopped _ _ _ _
    · exact (Takes.of_lookup ((only_gbpMpam s t.sec).trans (only_noteMpam _ _))).trans (takes_outputTxn _ _ _)
  · split
    · rename_i h; exact (takes_run (xonly_otConfig _) h).trans (takes_endTt _ _ _ _)
    · rename_i h
      refine (takes_run (xonly_otConfig _) h).trans (.ite (takes_forbidTt _ _ _) ?_)
      generalize hx : X.run (ttPath _ _ _ _ _ _) _ = q
      obtain ⟨r, u⟩ := q
      refine (takes_run (xonly_ttPath _ _ _ _ _ _) hx).trans ?_
      cases r
      · exact takes_endTt _ _ _ _
      · exact takes_outputTxn _ _ _

theorem takes_processTxn (s : State) (t : Txn) : Takes s (processTxn s t) := by
  unfold processTxn
  dsimp only
  split
  · exact takes_respond _ _ _
  · split
    · exact takes_processTt _ _
    · exact takes_processOt _ _

theorem takes_pmuLog (s : State) (l : List PmuOcc) : Takes s { s with pmuLog := l } :=
  .of_lookup (.of_same rfl rfl rfl rfl rfl rfl)

theorem takes_noteRequest (s : State) (src : PmuSrc) (m : Option Mpam) (l : List Nat) : Takes s (noteRequest s src m l) :=
  takes_pmuLog _ _

theorem takes_takeTxn (s : State) (t : Txn) : Takes s (takeTxn s t) :=
  (takes_processTxn _ _).trans (takes_noteRequest _ _ _ _)

theorem takes_retryAccess (s : State) (w : Stalled) : Takes s (retryAccess s w) := by
  cases w with
  | txn t => exact .ite (takes_takeTxn _ _) ((takes_processTxn _ _).trans (takes_pmuLog _ _))
  | dcmdq => exact .refl s

end Sys2Proof.Laws
end

