-- ==== Sys2Proof/Laws/OnlyWorld.lean ====
section
/-! SUPPORT. What Page Requests, hints and performance monitors change at most. -/

namespace Sys2Proof.Laws

open Sys2Proof.Machine Sys2Proof.Safety

/-! ## Page Requests -/

theorem only_priRespond (s : State) (r : PriReq) (p : Option (BitVec 20)) (c : PrgCode) :
    Only State.sansLookup s (priRespond s r p c) := .ite (.refl s) (only_send _ _)

theorem takes_setPriqProd (s : State) (i : Sec) (g : BitVec 32 → BitVec 32) : Takes s (s.setPriqProd i g) := by
  refine .of_record (only_setIface s i _ (sansRecord_setIface s i _ rfl) rfl rfl)

theorem takes_priPpar (s : State) (r : PriReq) : Takes s (priPpar s r).2 := by
  unfold priPpar
  split
  · exact .refl s
  · have hx (c : Ctx) (b : Ste → Bool) : XOnly State.sansLookup (do
        let x ← fetchValidSte c
        if b x then discard (fetchVms c x)
        pure x : X Ste) := by
      repeat' first
        | with_reducible apply xonly_fetchValidSte
        | with_reducible apply xonly_fetchVms
        | with_reducible apply xonly_discard
        | with_reducible apply xonly_pure
        | with_reducible refine xonly_bind ?_ fun _ => ?_
        | split
        | dsimp only
    dsimp only
    generalize hq : X.run _ s = q
    have h := takes_run (hx _ _) hq
    obtain ⟨x, u⟩ := q
    rcases x with (_ | e | _) | x
    · exact h
    · exact h.trans (.ite (takes_emitFor _ _ _) (.refl _))
    · exact h
    · exact h

theorem takes_priOverflowResponse (s : State) (r : PriReq) : Takes s (priOverflowResponse s r) := by
  unfold priOverflowResponse
  refine .ite (.refl s) ?_
  split
  · refine .ite ?_ (.of_lookup (only_priRespond _ _ _ _))
    have h := takes_priPpar s r
    split
    · rename_i e; rw [e] at h; exact h.trans (.of_lookup (only_priRespond _ _ _ _))
    · rename_i e; rw [e] at h; exact h.trans (.of_lookup (only_priRespond _ _ _ _))
  · refine .ite (.of_lookup (only_priRespond _ _ _ _)) ?_
    have h := takes_priPpar s r
    split
    · rename_i e; rw [e] at h; exact h.trans (.of_lookup (only_priRespond _ _ _ _))
    · rename_i e; rw [e] at h; exact h.trans (.of_lookup (only_priRespond _ _ _ _))
    · rename_i e; rw [e] at h; exact h.trans (.of_lookup (only_priRespond _ _ _ _))

theorem takes_raiseIrq (s : State) (i : Sec) (x : IrqSrc) : Takes s (raiseIrq s i x) := .of_lookup (only_raiseIrq _ _ _)

theorem takes_raiseGerror (s : State) (i : Sec) (e : GErr) : Takes s (raiseGerror s i e) := .of_lookup (only_raiseGerror _ _ _)

theorem takes_priAdvance (s : State) (r : PriReq) (b : Bool) : Takes s (priAdvance s r b) := by
  unfold priAdvance
  dsimp only
  generalize hv : State.setPriqProd _ _ _ = v
  have h : Takes _ v := hv ▸ takes_setPriqProd _ _ _
  exact h.trans (.ite (takes_raiseIrq _ _ _) (.refl _))

theorem takes_processPri (s : State) (r : PriReq) : Takes s (processPri s r) := by
  unfold processPri
  refine .ite (.of_lookup (only_priRespond _ _ _ _)) ?_
  refine .ite ?_ ?_
  · dsimp only
    generalize hu : (if overflowed (s.iface r.sec).priq then s else s.setPriqProd r.sec (toggleBit · 31)) = u
    have h : Takes s u := by
      rw [← hu]
      exact .ite (.refl s) (takes_setPriqProd _ _ _)
    have h2 := h.trans (takes_priOverflowResponse u r)
    exact .ite (h2.trans (takes_raiseIrq _ _ _)) h2
  · have h1 : Takes s s.takeFree.2 := .of_lookup (only_takeFree s)
    generalize s.takeFree = p at h1
    obtain ⟨u, t⟩ := p
    refine h1.trans ?_
    dsimp only
    split
    · rename_i e
      exact (Takes.of_lookup (only_snd (only_smmuWrite _ _ _ _ _ _ _) e)).trans
        (.ite ((takes_raiseGerror _ _ _).trans (.of_lookup (only_priRespond _ _ _ _)))
          ((takes_priAdvance _ _ _).trans (takes_raiseGerror _ _ _)))
    · rename_i e
      exact (Takes.of_lookup (only_snd (only_smmuWrite _ _ _ _ _ _ _) e)).trans (takes_priAdvance _ _ _)

theorem takes_processPageHint (s : State) (r : PageHint) : Takes s (processPageHint s r) :=
  .ite (.refl s) (takes_emitEvent _ _ _)

/-! ## Counting -/

theorem map_modify_of_comp {α β : Type} (l : List α) (n : Nat) (f : α → α) (g : α → β) (h : ∀ a, g (f a) = g a) :
    (l.modify n f).map g = l.map g := by
  apply List.ext_getElem?
  intro i
  simp only [List.getElem?_map, List.getElem?_modify]
  cases l[i]? with
  | none => rfl
  | some a =>
    simp only [Option.map_some]
    split <;> simp [h]

/-- A change of one group that counting may make. -/
theorem takes_setPmcg (s : State) (n : Nat) (f : Pmcg → Pmcg) (h : ∀ p, (f p).sansCount = p.sansCount) :
    Takes s (s.setPmcg n f) := by
  refine ⟨.of_same ?_ rfl rfl rfl rfl rfl, fun b => b⟩
  unfold State.sansClient State.setPmcg
  dsimp only
  rw [map_modify_of_comp _ _ _ _ h]
  rfl

theorem takes_pmcgInterrupt (s : State) (n : Nat) : Takes s (pmcgInterrupt s n) := by
  unfold pmcgInterrupt
  split
  · exact .refl s
  · rename_i p hp
    refine .ite (.refl s) ?_
    dsimp only
    generalize hu : (if (s.impl.wiredInterrupts || !p.msi) = true then s.send (.wire (.pmcg n)) else s) = u
    have h : Takes s u := by
      rw [← hu]
      exact .ite (takes_send _ _) (.refl s)
    refine h.trans (.ite ?_ (.refl u))
    split
    · rename_i e; exact .of_lookup (only_snd (only_sendMsi _ _ _ _ _ _ _ _) e)
    · rename_i e
      exact (Takes.of_lookup (only_snd (only_sendMsi _ _ _ _ _ _ _ _) e)).trans
        (.ite (.refl _) (takes_setPmcg _ _ _ fun _ => rfl))

theorem sansCount_doCapture (p : Pmcg) : p.doCapture.sansCount = p.sansCount := by
  unfold Pmcg.doCapture
  split
  · simp [Pmcg.sansCount]
  · rfl

theorem takes_overflowEffects (s : State) (n k : Nat) : Takes s (overflowEffects s n k) := by
  unfold overflowEffects
  split
  · exact .refl s
  · rename_i p hp
    dsimp only
    generalize hu : (if (p.counter k).evtyper.getLsbD 31 = true then s.setPmcg n Pmcg.doCapture else s) = u
    have h : Takes s u := by
      rw [← hu]
      exact .ite (takes_setPmcg _ _ _ sansCount_doCapture) (.refl s)
    exact h.trans (.ite (takes_pmcgInterrupt _ _) (.refl _))

theorem takes_countOne (s : State) (n k : Nat) : Takes s (countOne s n k) := by
  unfold countOne
  split
  · exact .refl s
  · rename_i p hp
    dsimp only
    generalize hu : State.setPmcg s n (fun q => _) = u
    have h : Takes s u := by
      rw [← hu]
      refine takes_setPmcg _ _ _ fun q => ?_
      simp only [Pmcg.sansCount]
      rw [map_modify_of_comp]
      intro c
      rfl
    have h2 : Takes u (u.setPmcg n fun p => { p with ovs := putBit p.ovs k true }) := takes_setPmcg _ _ _ fun _ => rfl
    exact h.trans (.ite (h2.trans (takes_overflowEffects _ _ _)) (.refl _))

theorem takes_countGroup (s : State) (o : PmuOcc) (n : Nat) : Takes s (countGroup s o n) := by
  unfold countGroup
  split
  · exact .refl s
  · exact .foldl _ (fun _ _ => takes_countOne _ _ _) _ _

theorem takes_countOcc (s : State) (o : PmuOcc) : Takes s (countOcc s o) := .foldl _ (fun _ _ => takes_countGroup _ _ _) _ _

theorem takes_countLog (s : State) : Takes s (countLog s) :=
  (takes_pmuLog s []).trans (.foldl _ (fun _ _ => takes_countOcc _ _) _ _)

end Sys2Proof.Laws
end

