-- ==== Sys2Proof/Laws/OnlyCommand.lean ====
section
/-! SUPPORT. What commands change at most. -/

namespace Sys2Proof.Laws

open Sys2Proof.Machine Sys2Proof.Safety

/-- `t` comes from `s` by the action of a command: no register that software configures changes, and the bound on stalled
transactions is kept. -/
structure Obeys (s t : State) : Prop where
  only : Only State.sansCommand s t
  stalls : StallsBounded s → StallsBounded t

theorem Obeys.refl (s : State) : Obeys s s := ⟨.refl s, id⟩

theorem Obeys.trans {s t u : State} (h : Obeys s t) (k : Obeys t u) : Obeys s u :=
  ⟨h.only.trans k.only, fun b => k.stalls (h.stalls b)⟩

theorem Obeys.ite {s a b : State} {c : Prop} [Decidable c] (h : Obeys s a) (k : Obeys s b) :
    Obeys s (if c then a else b) := by
  split
  · exact h
  · exact k

theorem Obeys.foldl {α : Type} (g : State → α → State) (hg : ∀ s a, Obeys s (g s a)) (l : List α) (s : State) :
    Obeys s (l.foldl g s) := by
  induction l generalizing s with
  | nil => exact .refl s
  | cons a l ih => exact (hg s a).trans (ih (g s a))

theorem sansCommand_of_sansClient {s t : State} (h : t.sansClient = s.sansClient) : t.sansCommand = s.sansCommand := by
  have h1 : t.ns.sansRecord = s.ns.sansRecord := by have := congrArg State.ns h; exact this
  have h2 : t.sec.sansRecord = s.sec.sansRecord := by have := congrArg State.sec h; exact this
  have h3 : t.rlm.sansRecord = s.rlm.sansRecord := by have := congrArg State.rlm h; exact this
  unfold State.sansCommand
  rw [h, h1, h2, h3]

theorem Obeys.of_takes {s t : State} (h : Takes s t) : Obeys s t :=
  ⟨⟨sansCommand_of_sansClient h.only.same, h.only.memory, h.only.errors⟩, h.stalls⟩

theorem Obeys.of_lookup {s t : State} (h : Only State.sansLookup s t) : Obeys s t := .of_takes (.of_lookup h)

theorem obeys_send (s : State) (o : Output) : Obeys s (s.send o) := .of_lookup (only_send s o)

theorem obeys_caches (s : State) (k : Caches) : Obeys s { s with caches := k } := .of_lookup (only_caches s k)

theorem obeys_takeFree (s : State) : Obeys s s.takeFree.2 := .of_lookup (only_takeFree s)

theorem obeys_raiseGerror (s : State) (i : Sec) (e : GErr) : Obeys s (raiseGerror s i e) := .of_lookup (only_raiseGerror _ _ _)

/-! ## CONS registers and command errors -/

theorem sansCommand_setIface (s : State) (i : Sec) (g : Iface → Iface)
    (h : (g (s.iface i)).sansRecord.sansCommand = (s.iface i).sansRecord.sansCommand) :
    (s.setIface i g).sansCommand = s.sansCommand := by
  cases i <;> simp only [State.iface] at h <;>
    simp [State.setIface, State.sansCommand, State.sansClient, State.sansRecord, h]

theorem obeys_setIface (s : State) (i : Sec) (g : Iface → Iface)
    (h : (g (s.iface i)).sansRecord.sansCommand = (s.iface i).sansRecord.sansCommand)
    (he : (g (s.iface i)).gerror = (s.iface i).gerror) (hn : (g (s.iface i)).gerrorn = (s.iface i).gerrorn) :
    Obeys s (s.setIface i g) :=
  ⟨only_setIface s i g (sansCommand_setIface s i g h) he hn, stallsBounded_congr (by simp) (by simp)⟩

/-- A change of the CONS register or of the pending MSI report of an ECMDQ. -/
theorem obeys_setEcmdq (s : State) (i : Sec) (n : Nat) (g : Ecmdq → Ecmdq)
    (h : ∀ e, ({ g e with cons := 0, msiAborted := false } : Ecmdq) = { e with cons := 0, msiAborted := false }) :
    Obeys s (s.setEcmdq i n g) := by
  unfold State.setEcmdq
  refine obeys_setIface s i _ ?_ rfl rfl
  simp only [Iface.sansRecord, Iface.sansCommand]
  rw [map_modify_of_comp _ _ _ _ h]

theorem obeys_setCons (s : State) (q : QueueId) (g : BitVec 32 → BitVec 32) : Obeys s (s.setCons q g) := by
  cases q with
  | main i => exact obeys_setIface s i (fun r => { r with cmdq := { r.cmdq with cons := g r.cmdq.cons } }) rfl rfl rfl
  | ecmdq i n => exact obeys_setEcmdq s i n _ fun _ => rfl
  | dcmdq i n => exact obeys_setEcmdq s i n _ fun _ => rfl

theorem obeys_reportDcmdqPage (s : State) (i : Sec) (n : Nat) : Obeys s (reportDcmdqPage s i n) := by
  unfold reportDcmdqPage
  exact .ite (.refl s) ((obeys_setIface s i (fun r =>
    { r with dcmdqpErr := r.dcmdqpErr.modify (dcmdqPage s.ids i n / 64) fun v => toggleBit v (dcmdqPage s.ids i n % 64) })
    rfl rfl rfl).trans (obeys_raiseGerror _ _ _))

theorem obeys_takeCmdError (s : State) (e : CmdErr) : Obeys s (takeCmdError s e) := by
  unfold takeCmdError
  split
  · exact (obeys_setCons _ _ _).trans (obeys_raiseGerror _ _ _)
  · exact (obeys_setCons _ _ _).trans (obeys_raiseGerror _ _ _)
  · exact (obeys_setCons _ _ _).trans (obeys_reportDcmdqPage _ _ _)

theorem obeys_hsErrorOf (s : State) (i : Sec) (n : Nat) (e : HsErr) : Obeys s (hsErrorOf s i n e) :=
  (obeys_setCons _ _ _).trans (obeys_reportDcmdqPage _ _ _)

theorem obeys_takeHsError (s : State) (e : HsErr) : Obeys s (takeHsError s e) := by
  unfold takeHsError
  split
  · exact obeys_hsErrorOf _ _ _ _
  · exact .refl s

theorem obeys_consume (s : State) : Obeys s s.consume := by
  unfold State.consume
  split
  · exact .refl s
  · exact .ite ((obeys_setCons _ _ _).trans (obeys_send _ _)) (obeys_setCons _ _ _)

/-- The state before the end of a command. -/
def CmdOut.before : CmdOut → State
  | .consumed s => s
  | .error _ s => s
  | .hsError _ s => s
  | .waiting s => s

theorem obeys_state (c : CmdOut) : Obeys (CmdOut.before c) c.state := by
  cases c with
  | consumed s => exact obeys_consume s
  | error e s => exact obeys_takeCmdError s e
  | hsError e s => exact obeys_takeHsError s e
  | waiting s => exact .refl s

/-- A command answers a next state, and changes at most what commands change. -/
def ObeysTo (s : State) (o : Host.Outcome State Fault Refusal) : Prop := ∃ t, o = .next t ∧ Obeys s t

theorem obeysTo_finish {s : State} {c : CmdOut} (h : Obeys s (CmdOut.before c)) : ObeysTo s (finish c) :=
  ⟨c.state, rfl, h.trans (obeys_state c)⟩

theorem obeysTo_command (s : State) (ill : Bool) (eff : State → State) (h : Obeys s (eff s)) : ObeysTo s (command s ill eff) := by
  unfold command
  cases ill
  · exact obeysTo_finish (c := .consumed (eff s)) h
  · exact obeysTo_finish (c := .error .ill s) (.refl s)

/-! ## DCMDQs -/

theorem obeys_emitEvent (s : State) (e : EvTxn) (v : Event) : Obeys s (emitEvent s e v) := .of_takes (takes_emitEvent _ _ _)

theorem obeys_dcmdqFailed (s : State) (i : Sec) (n : Nat) (ev : EvTxn) (w : Stop) : Obeys s (dcmdqFailed s i n ev w).2 := by
  unfold dcmdqFailed
  dsimp only
  repeat' split
  all_goals first
    | exact .refl s
    | exact .of_takes (takes_emitFor _ _ _)
    | exact obeys_emitEvent _ _ _
    | exact .of_takes (takes_stallAccess _ _ _ _)

theorem xonly_dcmdqPath (c : Ctx) (w : Bool) (a : Attrs) : XOnly State.sansLookup (dcmdqPath c w a) := by
  unfold dcmdqPath
  repeat' first
    | with_reducible apply xonly_steMpam
    | with_reducible apply xonly_fetchValidSte
    | with_reducible apply xonly_pathThrough
    | with_reducible apply xonly_fetchVms
    | with_reducible apply xonly_state
    | with_reducible apply xonly_stop
    | with_reducible apply xonly_pure
    | with_reducible refine xonly_map _ ?_
    | with_reducible refine xonly_bind ?_ fun _ => ?_
    | split

theorem obeys_dcmdqTranslate (s : State) (i : Sec) (n : Nat) (a : DWord) (w : Bool) (x : Attrs) :
    Obeys s (dcmdqTranslate s i n a w x).2 := by
  unfold dcmdqTranslate
  dsimp only
  split
  · split
    · exact .refl s
    · exact .of_lookup (only_gbpMpam s i)
  · split <;> rename_i h
    · exact .of_takes (takes_run (xonly_dcmdqPath _ _ _) h)
    · exact (Obeys.of_takes (takes_run (xonly_dcmdqPath _ _ _) h)).trans (obeys_dcmdqFailed _ _ _ _ _)

theorem obeys_dcmdqVmid (s : State) (i : Sec) (n : Nat) : Obeys s (dcmdqVmid s i n).2 := by
  unfold dcmdqVmid
  dsimp only
  refine (obeys_takeFree s).trans ?_
  split
  · exact .refl _
  · have h := only_lookupSte s.takeFree.2 i (qsidOf s.takeFree.2.ids i n) true
    split
    · rename_i e; rw [e] at h; exact .of_lookup h
    · rename_i e; rw [e] at h; exact .of_lookup h

/-- A vSID computation changes at most what a lookup changes. -/
def VOnly {α : Type} (x : V α) : Prop := ∀ s, Only State.sansLookup s (StateT.run (ExceptT.run x) s).2

theorem vonly_apply {α : Type} {x : V α} (h : VOnly x) (s : State) :
    Only State.sansLookup s (StateT.run (ExceptT.run x) s).2 := h s

theorem vonly_pure {α : Type} (a : α) : VOnly (pure a : V α) := fun s => .refl s

theorem vonly_throw {α : Type} (e : VsidOut) : VOnly (throw e : V α) := fun s => .refl s

theorem vonly_get : VOnly (get : V State) := fun s => .refl s

theorem vonly_bind {α β : Type} {x : V α} {g : α → V β} (hx : VOnly x) (hg : ∀ a, VOnly (g a)) : VOnly (x >>= g) := by
  intro s
  have h := hx s
  simp only [ExceptT.run_bind, StateT.run_bind]
  rcases e : StateT.run (ExceptT.run x) s with ⟨r, t⟩
  rw [e] at h
  cases r with
  | error e' => exact h
  | ok a => exact h.trans (hg a t)

/-- An operation of the state in a vSID computation. -/
theorem vonly_step {α γ : Type} (g : State → γ × State) (hg : ∀ s, Only State.sansLookup s (g s).2) (k : γ → V α)
    (hk : ∀ c, VOnly (k c)) :
    VOnly (do
      let s ← (get : V State)
      let r := g s
      set r.2
      k r.1) := fun s => (hg s).trans (hk _ _)

theorem only_vsidRead (s : State) (i : Sec) (q : BitVec 32) (a : DWord) (n : Nat) (k : FarCode) :
    Only State.sansLookup s (vsidRead s i q a n k).2 := by
  unfold vsidRead
  exact (only_smmuRead s _ _ _ _ _ _).trans (.ite (.of_same rfl rfl rfl rfl rfl rfl) (.refl _))

theorem vonly_read (i : Sec) (q : BitVec 32) (a : DWord) (n : Nat) (k : FarCode) : VOnly (V.read i q a n k) := by
  unfold V.read
  refine vonly_step (fun s => vsidRead s i q a n k) (fun s => only_vsidRead _ _ _ _ _ _)
    (fun r => match r with
      | .ok v => pure (BitVec.ofNat 128 v)
      | .error _ => throw (.failed .sidEabt)) fun c => ?_
  cases c
  · exact vonly_throw _
  · exact vonly_pure _

theorem vonly_free : VOnly V.free :=
  vonly_step State.takeFree only_takeFree (fun u => pure u) fun _ => vonly_pure _

theorem vonly_cached (i : Sec) (q : BitVec 32) (n k : Nat) (look : Caches → List VsidEntry)
    (keep : Caches → List VsidEntry → Caches) (fetch : V (BitVec 128)) (h : VOnly fetch) :
    VOnly (V.cached i q n k look keep fetch) := by
  unfold V.cached
  refine vonly_bind vonly_get fun s => ?_
  split
  · exact vonly_pure _
  · refine vonly_bind h fun b => ?_
    refine vonly_step (fun s => ((), if s.cacheNow.1 then { s.cacheNow.2 with
      caches := keep s.cacheNow.2.caches (⟨i, q, n, k, b⟩ :: look s.cacheNow.2.caches) } else s.cacheNow.2)) (fun s => ?_)
      (fun _ => pure b) fun _ => vonly_pure _
    exact .ite ((only_cacheNow s).trans (only_caches _ _)) (only_cacheNow s)

theorem vonly_fetchCite (i : Sec) (p : Nat) (q : BitVec 32) : VOnly (fetchCite i p q) := by
  unfold fetchCite
  repeat' first
    | with_reducible apply vonly_free
    | with_reducible apply vonly_read
    | with_reducible apply vonly_cached
    | with_reducible apply vonly_get
    | with_reducible apply vonly_throw
    | with_reducible apply vonly_pure
    | with_reducible refine vonly_bind ?_ fun _ => ?_
    | split
    | dsimp only

theorem vonly_fetchVstte (i : Sec) (q : BitVec 32) (c : BitVec 128) (v : Nat) : VOnly (fetchVstte i q c v) := by
  unfold fetchVstte
  repeat' first
    | with_reducible apply vonly_read
    | with_reducible apply vonly_cached
    | with_reducible apply vonly_get
    | with_reducible apply vonly_throw
    | with_reducible apply vonly_pure
    | with_reducible refine vonly_bind ?_ fun _ => ?_
    | split
    | dsimp only

theorem only_vsidTranslate (s : State) (i : Sec) (n : Nat) (v : BitVec 32) :
    Only State.sansLookup s (vsidTranslate s i n v).2 := by
  unfold vsidTranslate
  dsimp only
  generalize hq : StateT.run (ExceptT.run _) s = q
  have h : Only State.sansLookup s q.2 := by
    rw [← hq]
    refine vonly_apply ?_ s
    repeat' first
      | with_reducible apply vonly_free
      | with_reducible apply vonly_fetchCite
      | with_reducible apply vonly_fetchVstte
      | with_reducible apply vonly_throw
      | with_reducible apply vonly_pure
      | with_reducible refine vonly_bind ?_ fun _ => ?_
      | split
      | dsimp only
  obtain ⟨r, u⟩ := q
  cases r <;> exact h

theorem only_streamRef (s : State) (v : BitVec 32) : Only State.sansLookup s (streamRef s v).2 := by
  unfold streamRef
  split
  · split
    · exact .refl s
    · have h := only_vsidTranslate s ‹Sec› ‹Nat› v
      split <;> (rename_i e; rw [e] at h; exact h)
  · exact .refl s

theorem only_prefetchRef (s : State) (v : BitVec 32) : Only State.sansLookup s (prefetchRef s v).2 := by
  unfold prefetchRef
  split
  · split
    · exact .refl s
    · have h := only_vsidTranslate s ‹Sec› ‹Nat› v
      split <;> (rename_i e; rw [e] at h; exact h)
  · exact .refl s

/-! ## The commands -/

theorem only_prefetchConfigAt (s : State) (i : Sec) (sid : BitVec 32) (ss : Option (BitVec 20)) :
    Only State.sansLookup s (prefetchConfigAt s i sid ss) := by
  unfold prefetchConfigAt
  refine .ite (.refl s) ?_
  unfold prefetchState
  · dsimp only
    refine xonly_apply ?_ s
    repeat' first
      | with_reducible apply xonly_fetchValidSte
      | with_reducible apply xonly_fetchVms
      | with_reducible apply xonly_selectCd
      | with_reducible apply xonly_fetchCd
      | with_reducible apply xonly_discard
      | with_reducible apply xonly_pure
      | with_reducible refine xonly_bind ?_ fun _ => ?_
      | split
      | dsimp only

theorem only_prefetchAddrAt (i : Sec) (sid : BitVec 32) (ss : Option (BitVec 20)) (ns : Bool) (s : State) (a : DWord) :
    Only State.sansLookup s (prefetchAddrAt i sid ss ns s a) := by
  unfold prefetchAddrAt prefetchState
  · dsimp only
    refine xonly_apply ?_ s
    repeat' first
      | with_reducible apply xonly_fetchValidSte
      | with_reducible apply xonly_fetchVms
      | with_reducible apply xonly_pathThrough
      | with_reducible apply xonly_discard
      | with_reducible refine xonly_map _ ?_
      | with_reducible apply xonly_pure
      | with_reducible refine xonly_bind ?_ fun _ => ?_
      | split
      | dsimp only

theorem obeysTo_prefetchConfig (ssec ssv : Bool) (ssid : BitVec 20) (sid : BitVec 32) (s : State) :
    ObeysTo s (execPrefetchConfig ssec ssv ssid sid s) := by
  unfold execPrefetchConfig
  split
  · exact obeysTo_finish (c := .error .ill s) (.refl s)
  · have h := only_prefetchRef s sid
    split
    · exact obeysTo_finish (c := .consumed s) (.refl s)
    · split <;> (rename_i e; rw [e] at h)
      · exact obeysTo_finish (c := .consumed _) (.of_lookup (h.trans (only_prefetchConfigAt _ _ _ _)))
      · exact obeysTo_finish (c := .hsError _ _) (.of_lookup h)
      · exact obeysTo_finish (c := .consumed _) (.of_lookup h)

theorem obeysTo_prefetchAddr (ssec ssv : Bool) (ssid : BitVec 20) (sid : BitVec 32) (size stride : BitVec 5) (ns : Bool)
    (addr : BitVec 52) (s : State) : ObeysTo s (execPrefetchAddr ssec ssv ssid sid size stride ns addr s) := by
  unfold execPrefetchAddr
  split
  · exact obeysTo_finish (c := .error .ill s) (.refl s)
  · have h := only_prefetchRef s sid
    split
    · exact obeysTo_finish (c := .consumed s) (.refl s)
    · split <;> (rename_i e; rw [e] at h)
      · exact obeysTo_finish (c := .consumed _) (.of_lookup (h.trans
          (.ite (.refl _) (.foldl _ (fun _ _ => only_prefetchAddrAt _ _ _ _ _ _) _ _))))
      · exact obeysTo_finish (c := .hsError _ _) (.of_lookup h)
      · exact obeysTo_finish (c := .consumed _) (.of_lookup h)

theorem obeysTo_cfgiCommand (s : State) (ssec : Bool) (ill : Sec → Bool) (eff : Sec → State → State)
    (h : ∀ i, Obeys s (eff i s)) : ObeysTo s (cfgiCommand s ssec ill eff) := by
  unfold cfgiCommand
  split
  · exact obeysTo_finish (c := .error .ill s) (.refl s)
  · exact obeysTo_command _ _ _ (h _)

theorem obeys_dropCaches (s : State) (f : Caches → Caches) : Obeys s (s.dropCaches f) := obeys_caches _ _

theorem obeys_dropTlb (s : State) (p : TlbEntry → Bool) : Obeys s (dropTlb s p) := obeys_caches _ _

theorem obeys_dropTlbRange (s : State) (rg : TlbiRange) (leaf : Bool) (a : DWord) (p : TlbEntry → Bool) :
    Obeys s (dropTlbRange s rg leaf a p) := by
  unfold dropTlbRange
  refine .ite (.ite (.refl s) ?_) (obeys_dropTlb _ _)
  exact (obeys_takeFree s).trans (.ite (obeys_dropTlb _ _) (.refl _))

theorem obeys_nhVmid (s : State) (v : BitVec 16) : Obeys s (nhVmid s v).2 := by
  unfold nhVmid
  split
  · exact obeys_dcmdqVmid _ _ _
  · exact .refl s

theorem obeys_dropEl2 (s : State) (i : Sec) (a : AsidSel) (rg : TlbiRange) (leaf : Bool) (addr : BitVec 52) :
    Obeys s (dropEl2 s i a rg leaf addr) := by
  unfold dropEl2 el2E2h
  dsimp only
  split
  · exact (obeys_takeFree s).trans (obeys_dropTlbRange _ _ _ _ _)
  · exact obeys_dropTlbRange _ _ _ _ _

theorem obeys_dropRegime (s : State) (w : World) : Obeys s (dropRegime s w) := obeys_dropTlb _ _

theorem obeys_clearDirty (s : State) (p : TlbEntry → Bool) : Obeys s (clearDirty s p) := obeys_caches _ _

theorem obeys_dropDpt (s : State) (p : DptEntry → Bool) : Obeys s (dropDpt s p) := obeys_caches _ _

theorem obeys_sendAtcInv (s : State) (sid : BitVec 32) (p : Option (BitVec 20)) (g : Bool) (n : Nat) (a : DWord) :
    Obeys s (sendAtcInv s sid p g n a) := by
  unfold sendAtcInv
  refine .trans (t := { s with atcInvs := s.atcInvs ++ [⟨s.itag, s.cur, false⟩], itag := s.itag + 1 }) ?_ (obeys_send _ _)
  exact ⟨.of_same rfl rfl rfl rfl rfl rfl, id⟩

theorem obeys_onStream (s : State) (sid : BitVec 32) (ssid : Option (BitVec 20)) (eff : State → BitVec 32 → State)
    (h : ∀ t p, Obeys t (eff t p)) : Obeys s (CmdOut.before (onStream s sid ssid eff)) := by
  unfold onStream
  have k := only_streamRef s sid
  split <;> (rename_i e; rw [e] at k)
  · exact .of_lookup k
  · exact .of_lookup k
  · exact .of_lookup k
  · exact (Obeys.of_lookup k).trans (.ite (h _ _) (.refl _))

theorem obeysTo_atcInv (g ssv : Bool) (ssid : BitVec 20) (sid : BitVec 32) (size : BitVec 6) (addr : BitVec 52) (s : State) :
    ObeysTo s (execAtcInv g ssv ssid sid size addr s) := by
  unfold execAtcInv
  refine obeysTo_finish ?_
  split
  · exact .refl s
  · split
    · exact .refl s
    · exact obeys_onStream _ _ _ _ fun _ _ => obeys_sendAtcInv _ _ _ _ _ _

theorem obeysTo_priResp (ssv : Bool) (ssid : BitVec 20) (sid : BitVec 32) (prg : BitVec 9) (resp : BitVec 2) (s : State) :
    ObeysTo s (execPriResp ssv ssid sid prg resp s) := by
  unfold execPriResp
  refine obeysTo_finish ?_
  split
  · exact .refl s
  · split
    · exact .refl s
    · split
      · exact .refl s
      · exact obeys_onStream _ _ _ _ fun _ _ => obeys_send _ _

theorem obeys_respond (s : State) (n : Nat) (r : Response) : Obeys s (s.respond n r) := obeys_send _ _

theorem obeys_endStall (s : State) (w : Stalled) (r : Response) : Obeys s (endStall s w r) := by
  unfold endStall
  split
  · exact obeys_respond _ _ _
  · exact .ite (obeys_hsErrorOf _ _ _ _) (.refl _)

theorem obeys_resumeAccess (s : State) (w : Stalled) (ac ab : Bool) : Obeys s (resumeAccess s w ac ab) := by
  unfold resumeAccess
  exact .ite (.of_takes (takes_retryAccess _ _)) (obeys_endStall _ _ _)

theorem obeys_dropStalls (s : State) (l : List Stall) (h : l.Sublist s.stalls) : Obeys s { s with stalls := l } :=
  .of_takes (takes_dropStalls s l h)

theorem obeys_resumeStall (s : State) (i : Sec) (sid : BitVec 32) (stag : BitVec 16) (ac ab : Bool) :
    Obeys s (resumeStall s i sid stag ac ab) := by
  unfold resumeStall
  split
  · exact (obeys_dropStalls _ _ (List.erase_sublist ..)).trans (obeys_resumeAccess _ _ _ _)
  · split
    · exact .refl s
    · dsimp only
      refine (obeys_takeFree s).trans (.ite ?_ (.refl _))
      exact (obeys_dropStalls _ _ (List.erase_sublist ..)).trans (obeys_resumeAccess _ _ _ _)

theorem obeysTo_resume (ssec ac ab : Bool) (sid : BitVec 32) (stag : BitVec 16) (s : State) :
    ObeysTo s (execResume ssec ac ab sid stag s) := by
  unfold execResume
  split
  · exact obeysTo_finish (c := .error .ill s) (.refl s)
  · exact obeysTo_command _ _ _ (obeys_resumeStall _ _ _ _ _ _)

theorem obeys_termStalls (s : State) (i : Sec) (sid : BitVec 32) : Obeys s (termStalls s i sid) := by
  unfold termStalls
  exact (obeys_dropStalls s _ (List.filter_sublist ..)).trans (.foldl _ (fun _ _ => obeys_endStall _ _ _) _ _)

theorem only_steTerminates (s : State) (i : Sec) (sid : BitVec 32) : Only State.sansLookup s (steTerminates s i sid).2 := by
  unfold steTerminates
  split
  · exact .refl s
  · have h := only_lookupSte s i sid true
    split <;> (rename_i e; rw [e] at h; exact h)

theorem obeysTo_stallTerm (ssec : Bool) (sid : BitVec 32) (s : State) : ObeysTo s (execStallTerm ssec sid s) := by
  unfold execStallTerm
  split
  · exact obeysTo_finish (c := .error .ill s) (.refl s)
  · rename_i i hi
    refine obeysTo_command _ _ _ ?_
    have h := Obeys.of_lookup (only_steTerminates s i sid)
    split <;> (rename_i e; rw [e] at h)
    · exact h.trans (obeys_termStalls _ _ _)
    · dsimp only
      exact h.trans ((obeys_takeFree _).trans (.ite (obeys_termStalls _ _ _) (.refl _)))

theorem obeys_sendMsi (s : State) (o : AccFrom) (p : Pas) (a : DWord) (d : BitVec 32) (x : Attrs) (dev : DeviceId)
    (c : FarCode) : Obeys s (sendMsi s o p a d x dev c).2 := .of_lookup (only_sendMsi _ _ _ _ _ _ _ _)

theorem obeys_syncIrq (s : State) (i : Sec) (a : DWord) (d : BitVec 32) (x : Attrs) (ns : Bool) :
    Obeys s (syncIrq s i a d x ns) := by
  unfold syncIrq
  dsimp only
  generalize hu : (if (s.ids.msi i && a != 0) = true then _ else s) = u
  have h : Obeys s u := by
    rw [← hu]
    refine .ite ?_ (.refl s)
    have k := obeys_sendMsi s (s.ownAcc i .msiCmdq) (syncPas i ns) a d x .own .msiCmdq
    split <;> (rename_i e; rw [e] at k)
    · exact k
    · exact k.trans (obeys_raiseGerror _ _ _)
  exact .ite (h.trans (obeys_send _ _)) h

theorem obeys_syncDirect (s : State) (i : Sec) (n : Nat) (a : DWord) (d : BitVec 32) (x : Attrs) :
    Obeys s (CmdOut.before (syncDirect s i n a d x)) := by
  unfold syncDirect
  split
  · exact .refl s
  · have h := obeys_dcmdqTranslate s i n a true x
    split <;> (rename_i e; rw [e] at h)
    · exact h
    · exact h
    · split
      · rename_i e'
        exact h.trans (.of_lookup (only_snd (only_sendMsi _ _ _ _ _ _ _ _) e'))
      · rename_i e'
        exact (h.trans (.of_lookup (only_snd (only_sendMsi _ _ _ _ _ _ _ _) e'))).trans
          (obeys_setEcmdq _ _ _ _ fun _ => rfl)

theorem obeys_syncSignal (s : State) (cs : Nat) (a : DWord) (d : BitVec 32) (x : Attrs) (ns : Bool) :
    Obeys s (CmdOut.before (syncSignal s cs a d x ns)) := by
  unfold syncSignal
  split
  · exact obeys_syncDirect _ _ _ _ _ _
  · exact obeys_syncIrq _ _ _ _ _ _
  · exact .ite (obeys_send _ _) (.refl s)
  · exact .refl s

theorem obeysTo_sync (cs msh : BitVec 2) (ma : BitVec 4) (md : BitVec 32) (a : BitVec 54) (ns : Bool) (s : State) :
    ObeysTo s (execSync cs msh ma md a ns s) := by
  unfold execSync
  refine obeysTo_finish ?_
  split
  · exact .refl s
  · split
    · unfold clearMsiPending
      dsimp only [CmdOut.before]
      split
      · exact obeys_setEcmdq _ _ _ _ fun _ => rfl
      · exact .refl s
    · split
      · exact ⟨.of_same rfl rfl rfl rfl rfl rfl, id⟩
      · split
        · exact .refl s
        · exact obeys_syncSignal _ _ _ _ _ _

theorem obeysTo_cfgiSte (ssec : Bool) (sid : BitVec 32) (leaf : Bool) (s : State) :
    ObeysTo s (execCfgiSte ssec sid leaf s) := by
  unfold execCfgiSte
  refine obeysTo_cfgiCommand _ _ _ _ fun i => ?_
  repeat' first
    | with_reducible exact .refl _
    | with_reducible exact obeys_dropCaches _ _
    | with_reducible exact (obeys_dropCaches _ _).trans (obeys_dropCaches _ _)
    | with_reducible refine .ite ?_ ?_

theorem obeysTo_cfgiSteRange (ssec : Bool) (sid : BitVec 32) (range : BitVec 5) (s : State) :
    ObeysTo s (execCfgiSteRange ssec sid range s) := by
  unfold execCfgiSteRange
  refine obeysTo_cfgiCommand _ _ _ _ fun i => ?_
  dsimp only
  repeat' first
    | with_reducible exact .refl _
    | with_reducible exact obeys_dropCaches _ _
    | with_reducible exact (obeys_dropCaches _ _).trans (obeys_dropCaches _ _)
    | with_reducible refine .ite ?_ ?_

theorem obeysTo_cfgiAll (ssec : Bool) (_sid : BitVec 32) (s : State) :
    ObeysTo s (execCfgiAll ssec _sid s) := by
  unfold execCfgiAll
  refine obeysTo_cfgiCommand _ _ _ _ fun i => ?_
  dsimp only
  repeat' first
    | with_reducible exact .refl _
    | with_reducible exact obeys_dropCaches _ _
    | with_reducible exact (obeys_dropCaches _ _).trans (obeys_dropCaches _ _)
    | with_reducible refine .ite ?_ ?_

theorem obeysTo_cfgiCd (ssec : Bool) (ssid : BitVec 20) (sid : BitVec 32) (leaf : Bool) (s : State) :
    ObeysTo s (execCfgiCd ssec ssid sid leaf s) := by
  unfold execCfgiCd
  refine obeysTo_cfgiCommand _ _ _ _ fun i => ?_
  repeat' first
    | with_reducible exact .refl _
    | with_reducible exact obeys_dropCaches _ _
    | with_reducible exact (obeys_dropCaches _ _).trans (obeys_dropCaches _ _)
    | with_reducible refine .ite ?_ ?_

theorem obeysTo_cfgiCdAll (ssec : Bool) (sid : BitVec 32) (s : State) :
    ObeysTo s (execCfgiCdAll ssec sid s) := by
  unfold execCfgiCdAll
  refine obeysTo_cfgiCommand _ _ _ _ fun i => ?_
  repeat' first
    | with_reducible exact .refl _
    | with_reducible exact obeys_dropCaches _ _
    | with_reducible exact (obeys_dropCaches _ _).trans (obeys_dropCaches _ _)
    | with_reducible refine .ite ?_ ?_

theorem obeysTo_cfgiVmsPidm (ssec : Bool) (vmid : BitVec 16) (s : State) :
    ObeysTo s (execCfgiVmsPidm ssec vmid s) := by
  unfold execCfgiVmsPidm
  refine obeysTo_cfgiCommand _ _ _ _ fun i => ?_
  repeat' first
    | with_reducible exact .refl _
    | with_reducible exact obeys_dropCaches _ _
    | with_reducible exact (obeys_dropCaches _ _).trans (obeys_dropCaches _ _)
    | with_reducible refine .ite ?_ ?_

theorem obeysTo_cfgiCit (sid : BitVec 32) (s : State) :
    ObeysTo s (execCfgiCit sid s) := by
  unfold execCfgiCit
  refine obeysTo_command _ _ _ ?_
  dsimp only
  repeat' first
    | with_reducible exact .refl _
    | with_reducible exact obeys_dropCaches _ _
    | with_reducible exact (obeys_dropCaches _ _).trans (obeys_dropCaches _ _)
    | with_reducible refine .ite ?_ ?_

theorem obeysTo_cfgiVsttVsid (sid : BitVec 32) (vsid : BitVec 16) (s : State) :
    ObeysTo s (execCfgiVsttVsid sid vsid s) := by
  unfold execCfgiVsttVsid
  refine obeysTo_command _ _ _ ?_
  repeat' first
    | with_reducible exact .refl _
    | with_reducible exact obeys_dropCaches _ _
    | with_reducible exact (obeys_dropCaches _ _).trans (obeys_dropCaches _ _)
    | with_reducible refine .ite ?_ ?_

theorem obeysTo_cfgiVstt (sid : BitVec 32) (s : State) :
    ObeysTo s (execCfgiVstt sid s) := by
  unfold execCfgiVstt
  refine obeysTo_command _ _ _ ?_
  dsimp only
  repeat' first
    | with_reducible exact .refl _
    | with_reducible exact obeys_dropCaches _ _
    | with_reducible exact (obeys_dropCaches _ _).trans (obeys_dropCaches _ _)
    | with_reducible refine .ite ?_ ?_

theorem obeysTo_tlbiNhAll (vmid : BitVec 16) (s : State) :
    ObeysTo s (execTlbiNhAll vmid s) := by
  unfold execTlbiNhAll
  refine obeysTo_command _ _ _ ?_
  exact (obeys_nhVmid s vmid).trans (obeys_dropTlb _ _)

theorem obeysTo_tlbiNhAsid (vmid asid : BitVec 16) (s : State) :
    ObeysTo s (execTlbiNhAsid vmid asid s) := by
  unfold execTlbiNhAsid
  refine obeysTo_command _ _ _ ?_
  exact (obeys_nhVmid s vmid).trans (obeys_dropTlb _ _)

theorem obeysTo_tlbiNhVa (vmid asid : BitVec 16) (rg : TlbiRange) (leaf : Bool) (addr : BitVec 52) (s : State) :
    ObeysTo s (execTlbiNhVa vmid asid rg leaf addr s) := by
  unfold execTlbiNhVa
  refine obeysTo_command _ _ _ ?_
  exact (obeys_nhVmid s vmid).trans (obeys_dropTlbRange _ _ _ _ _)

theorem obeysTo_tlbiNhVaa (vmid : BitVec 16) (rg : TlbiRange) (leaf : Bool) (addr : BitVec 52) (s : State) :
    ObeysTo s (execTlbiNhVaa vmid rg leaf addr s) := by
  unfold execTlbiNhVaa
  refine obeysTo_command _ _ _ ?_
  exact (obeys_nhVmid s vmid).trans (obeys_dropTlbRange _ _ _ _ _)

theorem obeysTo_tlbiEl3All (s : State) :
    ObeysTo s (execTlbiEl3All s) := by
  unfold execTlbiEl3All
  refine obeysTo_command _ _ _ ?_
  exact obeys_dropRegime _ _

theorem obeysTo_tlbiEl3Va (rg : TlbiRange) (leaf : Bool) (addr : BitVec 52) (s : State) :
    ObeysTo s (execTlbiEl3Va rg leaf addr s) := by
  unfold execTlbiEl3Va
  refine obeysTo_command _ _ _ ?_
  exact obeys_dropTlbRange _ _ _ _ _

theorem obeysTo_tlbiEl2All (s : State) :
    ObeysTo s (execTlbiEl2All s) := by
  unfold execTlbiEl2All
  refine obeysTo_command _ _ _ ?_
  exact (obeys_dropRegime _ _).trans (obeys_dropRegime _ _)

theorem obeysTo_tlbiEl2Asid (asid : BitVec 16) (s : State) :
    ObeysTo s (execTlbiEl2Asid asid s) := by
  unfold execTlbiEl2Asid
  refine obeysTo_command _ _ _ ?_
  exact obeys_dropTlb _ _

theorem obeysTo_tlbiEl2Va (asid : BitVec 16) (rg : TlbiRange) (leaf : Bool) (addr : BitVec 52) (s : State) :
    ObeysTo s (execTlbiEl2Va asid rg leaf addr s) := by
  unfold execTlbiEl2Va
  refine obeysTo_command _ _ _ ?_
  exact obeys_dropEl2 _ _ _ _ _ _

theorem obeysTo_tlbiEl2Vaa (rg : TlbiRange) (leaf : Bool) (addr : BitVec 52) (s : State) :
    ObeysTo s (execTlbiEl2Vaa rg leaf addr s) := by
  unfold execTlbiEl2Vaa
  refine obeysTo_command _ _ _ ?_
  exact obeys_dropEl2 _ _ _ _ _ _

theorem obeysTo_tlbiSEl2All (s : State) :
    ObeysTo s (execTlbiSEl2All s) := by
  unfold execTlbiSEl2All
  refine obeysTo_command _ _ _ ?_
  exact (obeys_dropRegime _ _).trans (obeys_dropRegime _ _)

theorem obeysTo_tlbiSEl2Asid (asid : BitVec 16) (s : State) :
    ObeysTo s (execTlbiSEl2Asid asid s) := by
  unfold execTlbiSEl2Asid
  refine obeysTo_command _ _ _ ?_
  exact obeys_dropTlb _ _

theorem obeysTo_tlbiSEl2Va (asid : BitVec 16) (rg : TlbiRange) (leaf : Bool) (addr : BitVec 52) (s : State) :
    ObeysTo s (execTlbiSEl2Va asid rg leaf addr s) := by
  unfold execTlbiSEl2Va
  refine obeysTo_command _ _ _ ?_
  exact obeys_dropEl2 _ _ _ _ _ _

theorem obeysTo_tlbiSEl2Vaa (rg : TlbiRange) (leaf : Bool) (addr : BitVec 52) (s : State) :
    ObeysTo s (execTlbiSEl2Vaa rg leaf addr s) := by
  unfold execTlbiSEl2Vaa
  refine obeysTo_command _ _ _ ?_
  exact obeys_dropEl2 _ _ _ _ _ _

theorem obeysTo_tlbiS2Ipa (vmid : BitVec 16) (rg : TlbiRange) (leaf : Bool) (addr : BitVec 44) (s : State) :
    ObeysTo s (execTlbiS2Ipa vmid rg leaf addr s) := by
  unfold execTlbiS2Ipa
  refine obeysTo_command _ _ _ ?_
  exact .ite (obeys_dropTlbRange _ _ _ _ _) (.refl _)

theorem obeysTo_tlbiS12Vmall (vmid : BitVec 16) (s : State) :
    ObeysTo s (execTlbiS12Vmall vmid s) := by
  unfold execTlbiS12Vmall
  refine obeysTo_command _ _ _ ?_
  exact obeys_dropTlb _ _

theorem obeysTo_tlbiS2Vmallw (vmid : BitVec 16) (s : State) :
    ObeysTo s (execTlbiS2Vmallw vmid s) := by
  unfold execTlbiS2Vmallw
  refine obeysTo_command _ _ _ ?_
  exact obeys_clearDirty _ _

theorem obeysTo_tlbiSS2Ipa (vmid : BitVec 16) (ns : Bool) (rg : TlbiRange) (leaf : Bool) (addr : BitVec 44) (s : State) :
    ObeysTo s (execTlbiSS2Ipa vmid ns rg leaf addr s) := by
  unfold execTlbiSS2Ipa
  refine obeysTo_command _ _ _ ?_
  exact .ite (obeys_dropTlbRange _ _ _ _ _) (.refl _)

theorem obeysTo_tlbiSS12Vmall (vmid : BitVec 16) (s : State) :
    ObeysTo s (execTlbiSS12Vmall vmid s) := by
  unfold execTlbiSS12Vmall
  refine obeysTo_command _ _ _ ?_
  exact obeys_dropTlb _ _

theorem obeysTo_tlbiSS2Vmallw (vmid : BitVec 16) (s : State) :
    ObeysTo s (execTlbiSS2Vmallw vmid s) := by
  unfold execTlbiSS2Vmallw
  refine obeysTo_command _ _ _ ?_
  exact obeys_clearDirty _ _

theorem obeysTo_tlbiNsnhAll (s : State) :
    ObeysTo s (execTlbiNsnhAll s) := by
  unfold execTlbiNsnhAll
  split
  · exact obeysTo_command _ _ _ ((obeys_dcmdqVmid _ _ _).trans (obeys_dropTlb _ _))
  · exact obeysTo_command _ _ _ (obeys_dropRegime _ _)

theorem obeysTo_tlbiSnhAll (s : State) :
    ObeysTo s (execTlbiSnhAll s) := by
  unfold execTlbiSnhAll
  refine obeysTo_command _ _ _ ?_
  exact obeys_dropRegime _ _

theorem obeysTo_dptiAll (s : State) :
    ObeysTo s (execDptiAll s) := by
  unfold execDptiAll
  refine obeysTo_command _ _ _ ?_
  exact obeys_dropDpt _ _

theorem obeysTo_dptiPa (leaf : Bool) (size : BitVec 4) (addr : BitVec 44) (s : State) :
    ObeysTo s (execDptiPa leaf size addr s) := by
  unfold execDptiPa
  refine obeysTo_command _ _ _ ?_
  dsimp only
  split
  · exact .refl s
  · exact .ite (.refl s) (obeys_dropDpt _ _)

end Sys2Proof.Laws
end

