-- ==== Sys2Proof/Laws/Commands.lean ====
section
/-! SUPPORT. What the consumption of a command and the removal of cache entries do, said once. -/

namespace Sys2Proof.Laws

open Sys2Proof.Machine Sys2Proof.Safety

theorem command_legal (s : State) (eff : State → State) : command s false eff = .next (eff s).consume := rfl

theorem command_ill (s : State) (eff : State → State) : command s true eff = .next (takeCmdError s .ill) := rfl

/-- Consumption changes RD of the queue and sends an event at most. -/
theorem consume_eq (s : State) : s.consume = s.advanced ∨ s.consume = s.advanced.send .sev := by
  unfold State.consume State.advanced
  cases s.queueRegs s.cur with
  | none => exact .inl rfl
  | some r =>
    dsimp only
    split
    · exact .inr rfl
    · exact .inl rfl

@[simp] theorem consume_mem (s : State) : s.consume.mem = s.mem := by
  unfold State.consume
  cases s.queueRegs s.cur <;> dsimp only
  split <;> simp

@[simp] theorem consume_caches (s : State) : s.consume.caches = s.caches := by
  unfold State.consume
  cases s.queueRegs s.cur <;> dsimp only
  split <;> simp

@[simp] theorem consume_stalls (s : State) : s.consume.stalls = s.stalls := by
  unfold State.consume
  cases s.queueRegs s.cur <;> dsimp only
  split <;> simp

/-- A command that changes nothing but caches and the count of free values, consumed. -/
theorem onlyCaches_consume (s : State) (k : Caches) (n : Nat) : OnlyCaches s ({ s with caches := k, free := n }.consume) := by
  have hq : ({ s with caches := k, free := n } : State).queueRegs s.cur = s.queueRegs s.cur := by
    cases s.cur with
    | main i => cases i <;> rfl
    | ecmdq i m => cases i <;> rfl
    | dcmdq i m => cases i <;> rfl
  have hl (b : BitVec 64) : cmdqLog2 ({ s with caches := k, free := n } : State) b = cmdqLog2 s b := rfl
  have hs (q : QueueId) (f : BitVec 32 → BitVec 32) :
      ({ s with caches := k, free := n } : State).setCons q f = { s.setCons q f with caches := k, free := n } := by
    cases q with
    | main i => cases i <;> rfl
    | ecmdq i m => cases i <;> rfl
    | dcmdq i m => cases i <;> rfl
  have hc : ({ s with caches := k, free := n } : State).consume = { s.consume with caches := k, free := n } := by
    unfold State.consume
    rw [hq]
    cases s.queueRegs s.cur with
    | none => rfl
    | some r =>
      dsimp only
      rw [hl, hs]
      split <;> rfl
  rw [hc]
  rcases consume_eq s with e | e
  all_goals
    refine ⟨?_, ?_, ?_, rfl⟩
    · rw [e]; constructor <;> simp
    · intro pas a; simp [State.byteAt]
    · rw [e]; unfold State.advanced; split <;> constructor <;> simp

/-! ## Removal of TLB entries -/

/-- A consumed removal of TLB entries: the entries are gone, and nothing else changes. -/
theorem dropTlb_consumed (s : State) (n : Nat) (must : Prop) (p : TlbEntry → Bool) :
    OnlyCaches s (dropTlb { s with free := n } p).consume ∧ TlbInvalidated s (dropTlb { s with free := n } p).consume must fun e => p e = true := by
  refine ⟨onlyCaches_consume s _ n, ?_, ?_, ?_, ?_⟩
  all_goals simp [dropTlb]
  all_goals intros; simp_all

/-- A command that removes nothing, consumed. -/
theorem nothing_consumed (s : State) (n : Nat) (scope : TlbEntry → Prop) :
    OnlyCaches s ({ s with free := n } : State).consume ∧ TlbInvalidated s ({ s with free := n } : State).consume False scope := by
  refine ⟨onlyCaches_consume s s.caches n, ?_, ?_, ?_, ?_⟩
  all_goals simp
  all_goals intros; simp_all

theorem tlbInvalidated_congr {s t : State} {a b : Prop} {p q : TlbEntry → Prop} (h : TlbInvalidated s t a p) (hb : b → a)
    (he : ∀ e, p e ↔ q e) : TlbInvalidated s t b q := by
  have : p = q := funext fun e => propext (he e)
  subst this
  exact ⟨h.old, fun m => h.gone (hb m), h.kept, h.others⟩

/-- A consumed removal by address, its range perhaps misaligned. -/
theorem dropTlbRange_consumed (s : State) (n : Nat) (rg : TlbiRange) (leaf : Bool) (addr : DWord) (p : TlbEntry → Bool) :
    OnlyCaches s (dropTlbRange { s with free := n } rg leaf addr p).consume ∧
      TlbInvalidated s (dropTlbRange { s with free := n } rg leaf addr p).consume (RangeDefined s.ids rg addr)
        fun e => (p e && addrMatches s.ids rg leaf addr e) = true := by
  unfold dropTlbRange
  dsimp only
  split
  · rename_i h
    have hf : ¬RangeDefined s.ids rg addr := by
      simp only [Bool.and_eq_true, Bool.not_eq_true'] at h
      intro k
      rw [k h.1] at h
      exact Bool.noConfusion h.2
    split
    · exact ⟨(nothing_consumed s n fun _ => True).1, tlbInvalidated_congr (nothing_consumed s n _).2 hf fun _ => Iff.rfl⟩
    · cases hb : (Config.freeValue n).getLsbD 0
      all_goals simp only [State.takeFree, hb, if_true, if_false, Bool.false_eq_true]
      · exact ⟨(nothing_consumed s (n + 1) fun _ => True).1, tlbInvalidated_congr (nothing_consumed s (n + 1) _).2 hf fun _ => Iff.rfl⟩
      · exact ⟨(dropTlb_consumed s (n + 1) False _).1,
          tlbInvalidated_congr (dropTlb_consumed s (n + 1) False _).2 hf fun _ => Iff.rfl⟩
  · exact dropTlb_consumed s n _ _

end Sys2Proof.Laws
end

