-- ==== Sys2Proof/Laws/Gerror.lean ====
section
/-! SUPPORT. All that raising a global error can do: its flag, that of an aborted GERROR MSI, and the bytes of the MSI. -/

namespace Sys2Proof.Laws

open Sys2Proof.Machine Sys2Proof.Safety

/-- `t` has the interfaces, the identification registers and the caches, but for the GPT's, of `s`. -/
structure Quiet (s t : State) : Prop where
  ifaces : t.ns = s.ns ∧ t.sec = s.sec ∧ t.rlm = s.rlm
  ids : t.ids = s.ids
  caches : ({ t.caches with gpt := [] } : Caches) = { s.caches with gpt := [] }

theorem Quiet.refl (s : State) : Quiet s s := ⟨⟨rfl, rfl, rfl⟩, rfl, rfl⟩

theorem Quiet.trans {s t u : State} (h : Quiet s t) (k : Quiet t u) : Quiet s u :=
  ⟨⟨k.ifaces.1.trans h.ifaces.1, k.ifaces.2.1.trans h.ifaces.2.1, k.ifaces.2.2.trans h.ifaces.2.2⟩, k.ids.trans h.ids,
    k.caches.trans h.caches⟩

theorem Quiet.iface {s t : State} (h : Quiet s t) (i : Sec) : t.iface i = s.iface i := by
  cases i <;> simp [State.iface, h.ifaces]

theorem quiet_noteOwnGpt (s : State) (o : AccFrom) (a : DWord) :
    Quiet s (noteOwnGpt s o a) ∧ (noteOwnGpt s o a).mem = s.mem := by
  unfold noteOwnGpt noteGpt
  split
  · dsimp only
    split <;> exact ⟨⟨⟨rfl, rfl, rfl⟩, rfl, rfl⟩, rfl⟩
  · exact ⟨.refl s, rfl⟩

theorem quiet_cacheGpi (s : State) (a : DWord) : Quiet s (cacheGpi s a) ∧ (cacheGpi s a).mem = s.mem := by
  have hc : Quiet s s.cacheNow.2 ∧ s.cacheNow.2.mem = s.mem := by
    unfold State.cacheNow
    split <;> exact ⟨⟨⟨rfl, rfl, rfl⟩, rfl, rfl⟩, rfl⟩
  unfold cacheGpi
  split
  · exact ⟨.refl s, rfl⟩
  · split <;> (rename_i e; rw [e] at hc)
    · exact hc
    · split
      · exact ⟨hc.1.trans ⟨⟨rfl, rfl, rfl⟩, rfl, rfl⟩, hc.2⟩
      · exact hc

theorem quiet_recordGpc (s : State) (res : GpcResult) (p : Pas) (a : DWord) (c : FarCode) :
    Quiet s (recordGpc s res p a c) ∧ (recordGpc s res p a c).mem = s.mem := by
  unfold recordGpc
  repeat' split
  all_goals exact ⟨⟨⟨rfl, rfl, rfl⟩, rfl, rfl⟩, rfl⟩

theorem quiet_reportGpc (s : State) (q : Bool) (res : GpcResult) (p : Pas) (a : DWord) (c : FarCode) :
    Quiet s (reportGpc s q res p a c) ∧ (reportGpc s q res p a c).mem = s.mem := by
  unfold reportGpc recordQuietGpc
  split
  · split
    · exact ⟨.refl s, rfl⟩
    · have h : Quiet s s.takeFree.2 := ⟨⟨rfl, rfl, rfl⟩, rfl, rfl⟩
      generalize hv : s.takeFree = v at h
      have hm : v.2.mem = s.mem := by rw [← hv]; rfl
      obtain ⟨u, t⟩ := v
      dsimp only
      split
      · have k := quiet_recordGpc t res p a c
        exact ⟨h.trans k.1, k.2.trans hm⟩
      · exact ⟨h, hm⟩
  · exact quiet_recordGpc _ _ _ _ _

theorem quiet_smmuAccess (s : State) (o : AccFrom) (p : Pas) (a : DWord) (n : Nat) (w : Bool) (c : FarCode) (r : Bool) :
    Quiet s (smmuAccess s o p a n w c r).2 ∧ (smmuAccess s o p a n w c r).2.mem = s.mem := by
  have h := quiet_noteOwnGpt s o a
  unfold smmuAccess
  dsimp only
  split
  · have k := quiet_cacheGpi (noteOwnGpt s o a) a
    exact ⟨h.1.trans k.1, k.2.trans h.2⟩
  · have k := quiet_reportGpc (noteOwnGpt s o a) (!r) (gpcCheck (noteOwnGpt s o a) o.gpc p a w) p a c
    exact ⟨h.1.trans k.1, k.2.trans h.2⟩

/-- A write that the SMMU makes: no interface changes, and memory exactly if it succeeds. -/
theorem quiet_smmuWrite (s : State) (o : AccFrom) (p : Pas) (a : DWord) (bs : List Byte) (c : FarCode) :
    Quiet s (smmuWrite s o p a bs c).2 ∧
      (smmuWrite s o p a bs c).2.mem = if (smmuWrite s o p a bs c).1 = none then s.mem.store p a bs else s.mem := by
  have h := quiet_smmuAccess s o p a bs.length true c true
  unfold smmuWrite
  generalize smmuAccess s o p a bs.length true c true = q at h
  obtain ⟨r, t⟩ := q
  cases r with
  | some e => exact ⟨h.1, by simpa using h.2⟩
  | none =>
    have hm : t.mem = s.mem := h.2
    exact ⟨h.1.trans ⟨⟨rfl, rfl, rfl⟩, rfl, rfl⟩, by simp [State.storeBytes, hm]⟩

/-- What an MSI does at most: the four bytes at its address, truncated to the OAS. -/
theorem quiet_sendMsi (s : State) (o : AccFrom) (p : Pas) (a : DWord) (d : BitVec 32) (x : Attrs) (dev : DeviceId) (c : FarCode) :
    Quiet s (sendMsi s o p a d x dev c).2 ∧
      ((sendMsi s o p a d x dev c).2.mem = s.mem ∨
        (sendMsi s o p a d x dev c).2.mem = s.mem.store p (s.truncOas a) (natBytes 4 d.toNat)) := by
  unfold sendMsi smmuWrite
  dsimp only
  generalize hq : smmuAccess s _ p (s.truncOas a) _ true c true = q
  have h := quiet_smmuAccess s { o with type := x.mt } p (s.truncOas a) (natBytes 4 d.toNat).length true c true
  rw [hq] at h
  obtain ⟨r, t⟩ := q
  cases r with
  | some e => exact ⟨h.1, .inl h.2⟩
  | none => exact ⟨h.1.trans ⟨⟨rfl, rfl, rfl⟩, rfl, rfl⟩, .inr (congrArg (Memory.store · p (s.truncOas a) (natBytes 4 d.toNat)) h.2)⟩

/-- The GERROR interrupt: no interface changes, and memory only if an MSI is sent, in its four bytes. -/
theorem quiet_signalGerror (s : State) (i : Sec) :
    Quiet s (signalIrq s i .gerror).2 ∧
      ((signalIrq s i .gerror).2.mem = s.mem ∨
        GerrorMsi s i ∧ ∃ d : BitVec 32, (signalIrq s i .gerror).2.mem =
          s.mem.store (msiPas i (s.iface i).gerrorIrq) (gerrorMsiAddr s i) (natBytes 4 d.toNat)) := by
  unfold signalIrq
  split
  · exact ⟨.refl s, .inl rfl⟩
  · rename_i hack
    dsimp only
    generalize hu : (if s.impl.wiredInterrupts then s.send (.wire (IrqSrc.wire i .gerror)) else s) = u
    have hq : Quiet s u ∧ u.mem = s.mem := by
      rw [← hu]; split <;> exact ⟨⟨⟨rfl, rfl, rfl⟩, rfl, rfl⟩, rfl⟩
    split
    · rename_i hm
      have k := quiet_sendMsi u (u.ownAcc i IrqSrc.gerror.farCode) (msiPas i (u.iface i).gerrorIrq)
        ((u.iface i).gerrorIrq.cfg0 &&& maskAt 64 2 54) (u.iface i).gerrorIrq.cfg1
        (msiAttrs ((u.iface i).gerrorIrq.cfg2.extractLsb' 0 4) (fieldNat (u.iface i).gerrorIrq.cfg2 4 2)) .own
        IrqSrc.gerror.farCode
      refine ⟨hq.1.trans k.1, ?_⟩
      simp only [IrqSrc.cfg, hq.1.iface i, hq.1.ids, Bool.and_eq_true, bne_iff_ne, ne_eq] at hm k ⊢
      rcases k.2 with e | e
      · exact .inl (e.trans hq.2)
      · refine .inr ⟨⟨by simpa [IrqSrc.bit] using hack, hm.1, hm.2⟩, (s.iface i).gerrorIrq.cfg1, ?_⟩
        rw [e, hq.2]
        simp [gerrorMsiAddr, State.truncOas, hq.1.ids]
    · exact ⟨hq.1, .inl hq.2⟩

theorem Quiet.sameMemory {s t : State} (h : t.mem = s.mem) : SameMemory s t := fun p a => by simp [State.byteAt, h]

/-- A byte outside a store of four bytes reads as before. -/
theorem byte_store4 {s : State} (hm : MemoryCanonical s) (p : Pas) (a : DWord) (d : BitVec 32) (pas : Pas) (x : DWord)
    (h : pas ≠ p ∨ ∀ k < 4, x.toNat % 2 ^ 56 ≠ (a.toNat + k) % 2 ^ 56) :
    (s.mem.store p a (natBytes 4 d.toNat)).get (memKey pas x) = s.mem.get (memKey pas x) := by
  refine memory_store_other _ _ _ _ hm fun n hn => ?_
  have hn : n < 4 := by simpa [natBytes] using hn
  rw [memKey_add, memKey]
  rcases h with h | h
  · have hc : pas.code ≠ p.code := by revert h; cases pas <;> cases p <;> decide
    omega
  · have := h n hn
    by_cases hp : pas.code = p.code
    · omega
    · omega

theorem onlyGerror_refl (s : State) (i : Sec) (e : GErr) : OnlyGerror s s i e :=
  ⟨rfl, fun _ _ => rfl, rfl, fun _ _ _ => rfl, fun _ _ _ _ => rfl, fun _ _ _ => rfl, rfl⟩

/-- All that raising a global error can do (60_exceptions.md R2175). -/
theorem onlyGerror_raiseGerror (s : State) (i : Sec) (e : GErr) : OnlyGerror s (raiseGerror s i e) i e := by
  have hl := only_raiseGerror s i e
  unfold raiseGerror at hl ⊢
  split at hl
  · rename_i h; rw [if_pos h]; exact onlyGerror_refl s i e
  · rename_i h
    rw [if_neg h]
    simp only [Bool.or_eq_true, Bool.not_eq_true', not_or, Bool.not_eq_false, Bool.not_eq_true] at h
    have hn : ¬(¬GerrorMsi s i ∨ gerrPresent s.ids i e = false ∨ gerrActive (s.iface i) e = true) ∨ ¬GerrorMsi s i := by
      by_cases hg : GerrorMsi s i
      · left; simp [hg, h.1, h.2]
      · exact .inr hg
    -- the state with the flag toggled
    have toggle (t : State) (x : GErr) : (∀ j, j ≠ i → (toggleGerror t i x).iface j = t.iface j) ∧
        (toggleGerror t i x).iface i = { t.iface i with gerror := toggleBit (t.iface i).gerror (gerrBit x) } ∧
        (toggleGerror t i x).mem = t.mem ∧ (toggleGerror t i x).caches = t.caches ∧ (toggleGerror t i x).ids = t.ids :=
      ⟨fun j hj => State.setIface_iface_other t _ hj, State.setIface_iface_same t i _, by simp [toggleGerror],
        by cases i <;> rfl, by simp [toggleGerror]⟩
    have t1 := toggle s e
    generalize hu : toggleGerror s i e = u at hl t1 ⊢
    have hmsi : GerrorMsi u i ↔ GerrorMsi s i := by simp [GerrorMsi, t1.2.1, t1.2.2.2.2]
    dsimp only at hl ⊢
    split at hl
    · rename_i he
      rw [if_pos he]
      exact ⟨hl.same, t1.1, by rw [t1.2.1], fun k hk _ => by rw [t1.2.1]; exact toggleBit_other _ _ _ hk,
        fun _ _ _ _ => by simp [State.byteAt, t1.2.2.1], fun _ => Quiet.sameMemory t1.2.2.1, by rw [t1.2.2.2.1]⟩
    · rename_i he
      rw [if_neg he]
      have q := quiet_signalGerror u i
      have mem (v : State) (hv : v.mem = u.mem ∨ GerrorMsi u i ∧ ∃ d : BitVec 32, v.mem =
          u.mem.store (msiPas i (u.iface i).gerrorIrq) (gerrorMsiAddr u i) (natBytes 4 d.toNat)) :
          (MemoryCanonical s → ∀ (pas : Pas) (x : DWord),
            (pas ≠ msiPas i (s.iface i).gerrorIrq ∨ ∀ k < 4, x.toNat % 2 ^ 56 ≠ ((gerrorMsiAddr s i).toNat + k) % 2 ^ 56) →
            v.byteAt pas x = s.byteAt pas x) ∧
          (¬GerrorMsi s i ∨ gerrPresent s.ids i e = false ∨ gerrActive (s.iface i) e = true → SameMemory s v) := by
        have ha : gerrorMsiAddr u i = gerrorMsiAddr s i := by simp [gerrorMsiAddr, State.truncOas, t1.2.1, t1.2.2.2.2]
        rcases hv with hv | ⟨hg, d, hv⟩
        · exact ⟨fun _ _ _ _ => by simp [State.byteAt, hv, t1.2.2.1], fun _ => Quiet.sameMemory (hv.trans t1.2.2.1)⟩
        · refine ⟨fun hm pas x hx => ?_, fun hh => ?_⟩
          · simp only [State.byteAt, hv, ha, t1.2.1, t1.2.2.1]
            exact byte_store4 hm _ _ _ _ _ hx
          · rcases hn with hn | hn
            · exact absurd hh hn
            · exact absurd (hmsi.mp hg) hn
      split at hl
      · rename_i v hv
        rw [hv] at q
        have m := mem v q.2
        exact ⟨hl.same, fun j hj => (q.1.iface j).trans (t1.1 j hj), by rw [q.1.iface i, t1.2.1],
          fun k hk _ => by rw [q.1.iface i, t1.2.1]; exact toggleBit_other _ _ _ hk, m.1, m.2,
          q.1.caches.trans (by rw [t1.2.2.2.1])⟩
      · rename_i v hv
        rw [hv] at q
        have m := mem v q.2
        split at hl
        · rename_i hc
          have t2 := toggle v .msiGerror
          rw [if_pos hc]
          exact ⟨hl.same, fun j hj => (t2.1 j hj).trans ((q.1.iface j).trans (t1.1 j hj)),
            by rw [t2.2.1, q.1.iface i, t1.2.1],
            fun k hk hk' => by
              rw [t2.2.1, q.1.iface i, t1.2.1]
              exact (toggleBit_other _ _ _ hk').trans (toggleBit_other _ _ _ hk),
            fun a b c d => by simpa [State.byteAt, t2.2.2.1] using m.1 a b c d,
            fun a b c => by simpa [State.byteAt, t2.2.2.1] using m.2 a b c,
            (by rw [t2.2.2.2.1]; exact q.1.caches.trans (by rw [t1.2.2.2.1]))⟩
        · rename_i hc
          rw [if_neg hc]
          exact ⟨hl.same, fun j hj => (q.1.iface j).trans (t1.1 j hj), by rw [q.1.iface i, t1.2.1],
            fun k hk _ => by rw [q.1.iface i, t1.2.1]; exact toggleBit_other _ _ _ hk, m.1, m.2,
            q.1.caches.trans (by rw [t1.2.2.2.1])⟩

/-! ## The other interrupts -/

/-- An interrupt of any source: no interface changes, and memory only in the four bytes of its MSI. -/
theorem quiet_signalIrq (s : State) (i : Sec) (x : IrqSrc) :
    Quiet s (signalIrq s i x).2 ∧
      ((signalIrq s i x).2.mem = s.mem ∨ ∃ d : BitVec 32, (signalIrq s i x).2.mem =
        s.mem.store (msiPas i (x.cfg (s.iface i))) (s.truncOas ((x.cfg (s.iface i)).cfg0 &&& maskAt 64 2 54))
          (natBytes 4 d.toNat)) := by
  unfold signalIrq
  split
  · exact ⟨.refl s, .inl rfl⟩
  · dsimp only
    generalize hu : (if s.impl.wiredInterrupts then s.send (.wire (IrqSrc.wire i x)) else s) = u
    have hq : Quiet s u ∧ u.mem = s.mem := by
      rw [← hu]; split <;> exact ⟨⟨⟨rfl, rfl, rfl⟩, rfl, rfl⟩, rfl⟩
    split
    · have k := quiet_sendMsi u (u.ownAcc i x.farCode) (msiPas i (x.cfg (u.iface i)))
        ((x.cfg (u.iface i)).cfg0 &&& maskAt 64 2 54) (x.cfg (u.iface i)).cfg1
        (msiAttrs ((x.cfg (u.iface i)).cfg2.extractLsb' 0 4) (fieldNat (x.cfg (u.iface i)).cfg2 4 2)) .own x.farCode
      refine ⟨hq.1.trans k.1, ?_⟩
      rcases k.2 with e | e
      · exact .inl (e.trans hq.2)
      · exact .inr ⟨(x.cfg (u.iface i)).cfg1, by rw [e, hq.2]; simp [State.truncOas, hq.1.iface i, hq.1.ids]⟩
    · exact ⟨hq.1, .inl hq.2⟩

/-- All that an interrupt other than GERROR's can do to registers and memory (60_exceptions.md R2157, R2174): its MSI, and if
that is aborted a global error. -/
theorem raiseIrq_frame (s : State) (i : Sec) (x : IrqSrc) :
    (∀ j, j ≠ i → (raiseIrq s i x).iface j = s.iface j) ∧
    (raiseIrq s i x).iface i = { s.iface i with gerror := ((raiseIrq s i x).iface i).gerror } ∧
    (MemoryCanonical s → ∀ pas a, OutsideMsi s i x pas a → OutsideMsi s i .gerror pas a →
      (raiseIrq s i x).byteAt pas a = s.byteAt pas a) := by
  have q := quiet_signalIrq s i x
  have hm : MemoryCanonical s → MemoryCanonical (signalIrq s i x).2 := (only_signalIrq s i x).memory
  unfold raiseIrq
  generalize signalIrq s i x = r at q hm
  obtain ⟨b, u⟩ := r
  have byte : MemoryCanonical s → ∀ pas a, OutsideMsi s i x pas a → u.byteAt pas a = s.byteAt pas a := by
    intro hc pas a ho
    rcases q.2 with e | ⟨d, e⟩
    · simp only at e; simp [State.byteAt, e]
    · simp only at e; simp only [State.byteAt, e]; exact byte_store4 hc _ _ _ _ _ ho
  cases b
  · exact ⟨fun j _ => q.1.iface j, by rw [q.1.iface i], fun hc pas a ho _ => byte hc pas a ho⟩
  · have g := onlyGerror_raiseGerror u i x.abtErr
    refine ⟨fun j hj => (g.others j hj).trans (q.1.iface j), ?_, fun hc pas a ho hg => ?_⟩
    · dsimp only; rw [g.iface, q.1.iface i]
    · refine (g.memory (hm hc) pas a ?_).trans (byte hc pas a ho)
      have hi : u.ids = s.ids := q.1.ids
      have hf : u.iface i = s.iface i := q.1.iface i
      simpa only [OutsideMsi, IrqSrc.cfg, gerrorMsiAddr, State.truncOas, hf, hi] using hg

end Sys2Proof.Laws
end

