-- ==== Sys2Proof/Laws/OnlyFetch.lean ====
section
/-! SUPPORT. What the fetching of configuration structures changes at most: no register of an interface and no memory. -/

namespace Sys2Proof.Laws

open Sys2Proof.Machine Sys2Proof.Safety

theorem fetch_takeFree (s : State) : Only State.sansFetch s s.takeFree.2 := .of_same rfl rfl rfl rfl rfl rfl

theorem fetch_cacheNow (s : State) : Only State.sansFetch s s.cacheNow.2 := by
  unfold State.cacheNow
  split
  · exact .refl s
  · exact .refl s
  · exact .of_same rfl rfl rfl rfl rfl rfl

theorem fetch_caches (s : State) (k : Caches) : Only State.sansFetch s { s with caches := k } :=
  .of_same rfl rfl rfl rfl rfl rfl

theorem fetch_recordGpc (s : State) (res : GpcResult) (p : Pas) (a : DWord) (c : FarCode) :
    Only State.sansFetch s (recordGpc s res p a c) := by
  unfold recordGpc
  split
  · exact .refl s
  · split
    · exact .refl s
    · exact .of_same rfl rfl rfl rfl rfl rfl
  · split
    · exact .refl s
    · exact .of_same rfl rfl rfl rfl rfl rfl

theorem fetch_cacheGpi (s : State) (a : DWord) : Only State.sansFetch s (cacheGpi s a) := by
  unfold cacheGpi
  split
  · exact .refl s
  · have h := fetch_cacheNow s
    split
    · rename_i t e; rw [e] at h; exact h
    · rename_i t e
      rw [e] at h
      split
      · exact h.trans (fetch_caches _ _)
      · exact h

theorem fetch_noteGpt (s : State) (src : PmuSrc) (m : Mpam) (a : DWord) : Only State.sansFetch s (noteGpt s src m a) := by
  unfold noteGpt
  split
  · exact .of_same rfl rfl rfl rfl rfl rfl
  · exact .refl s

theorem fetch_noteOwnGpt (s : State) (o : AccFrom) (a : DWord) : Only State.sansFetch s (noteOwnGpt s o a) := by
  unfold noteOwnGpt
  split
  · exact (fetch_takeFree s).trans (fetch_noteGpt _ _ _ _)
  · exact .refl s

theorem fetch_reportGpc (s : State) (q : Bool) (res : GpcResult) (p : Pas) (a : DWord) (c : FarCode) :
    Only State.sansFetch s (reportGpc s q res p a c) := by
  unfold reportGpc recordQuietGpc
  split
  · split
    · exact .refl s
    · exact .ite ((fetch_takeFree s).trans (fetch_recordGpc _ _ _ _ _)) (fetch_takeFree s)
  · exact fetch_recordGpc _ _ _ _ _

theorem fetch_smmuAccess (s : State) (o : AccFrom) (p : Pas) (a : DWord) (n : Nat) (w : Bool) (c : FarCode) (r : Bool) :
    Only State.sansFetch s (smmuAccess s o p a n w c r).2 := by
  have h := fetch_noteOwnGpt s o a
  unfold smmuAccess
  dsimp only
  split
  · exact h.trans (fetch_cacheGpi _ a)
  · exact h.trans (fetch_reportGpc _ _ _ _ _ _)

theorem fetch_smmuRead (s : State) (o : AccFrom) (p : Pas) (a : DWord) (n : Nat) (c : FarCode) (r : Bool) :
    Only State.sansFetch s (smmuRead s o p a n c r).2 := by
  have h := fetch_smmuAccess s o p a n false c r
  unfold smmuRead
  split <;> (rename_i e; rw [e] at h; exact h)

theorem fetch_noteAccess (s : State) (o : AccFrom) (k : FarCode) : Only State.sansFetch s (noteAccess s o k) := by
  unfold noteAccess
  split
  · exact .of_same rfl rfl rfl rfl rfl rfl
  · exact .refl s

theorem fetch_noteMade (s : State) (o : AccFrom) (k : FarCode) (e : Option MemErr) :
    Only State.sansFetch s (noteMade s o k e) :=
  .ite (.refl s) (fetch_noteAccess s o k)

theorem fetch_noteMiss (s : State) (x : PmuSrc) (k : FarCode) : Only State.sansFetch s (noteMiss s x k) := by
  unfold noteMiss
  split
  · exact .of_same rfl rfl rfl rfl rfl rfl
  · exact .refl s

theorem xfetch_miss (c : Ctx) (k : FarCode) : XOnly State.sansFetch (X.miss c k) := fun s => fetch_noteMiss s _ _

theorem xfetch_read (c : Ctx) (o : AccFrom) (p : Pas) (a : DWord) (n : Nat) (k : FarCode) :
    XOnly State.sansFetch (X.read c o p a n k) :=
  fun s => (fetch_smmuRead s _ _ _ _ _ _).trans (fetch_noteMade _ _ _ _)

theorem xfetch_cacheNow : XOnly State.sansFetch X.cacheNow := fun s => fetch_cacheNow s

theorem xfetch_caches (g : Caches → Caches) : XOnly State.sansFetch (X.caches g) := fun s => fetch_caches s _

theorem xfetch_fetchPhys (c : Ctx) (a : DWord) (n : Nat) (k : FarCode) (ev : DWord → Bool → Event) :
    XOnly State.sansFetch (fetchPhys c a n k ev) := by
  unfold fetchPhys
  repeat' first
    | with_reducible exact xfetch_miss _ _
    | with_reducible exact xonly_pure _ | with_reducible exact xonly_stop _ | with_reducible exact xonly_state | with_reducible exact xfetch_read _ _ _ _ _ _
    | with_reducible refine xonly_bind ?_ fun _ => ?_
    | split
    | dsimp only

theorem xfetch_fetchL1std (c : Ctx) : XOnly State.sansFetch (fetchL1std c) := by
  unfold fetchL1std
  repeat' first
    | with_reducible exact xonly_pure _ | with_reducible exact xonly_stop _ | with_reducible exact xonly_state | with_reducible exact xfetch_fetchPhys _ _ _ _ _
    | with_reducible exact xfetch_cacheNow | with_reducible exact xfetch_caches _
    | with_reducible refine xonly_bind ?_ fun _ => ?_
    | split
    | dsimp only

theorem xfetch_steAddr (c : Ctx) : XOnly State.sansFetch (steAddr c) := by
  unfold steAddr
  repeat' first
    | with_reducible exact xonly_pure _ | with_reducible exact xonly_stop _ | with_reducible exact xonly_state | with_reducible exact xfetch_fetchL1std _
    | with_reducible refine xonly_bind ?_ fun _ => ?_
    | split
    | dsimp only

theorem xfetch_findSte (c : Ctx) : XOnly State.sansFetch (findSte c) := by
  unfold findSte
  repeat' first
    | with_reducible exact xonly_pure _ | with_reducible exact xonly_stop _ | with_reducible exact xonly_state
    | with_reducible refine xonly_bind ?_ fun _ => ?_
    | split

theorem xfetch_fetchSte (c : Ctx) : XOnly State.sansFetch (fetchSte c) := by
  unfold fetchSte
  repeat' first
    | with_reducible exact xonly_pure _ | with_reducible exact xonly_stop _ | with_reducible exact xonly_state | with_reducible exact xfetch_fetchPhys _ _ _ _ _
    | with_reducible exact xfetch_findSte _ | with_reducible exact xfetch_steAddr _ | with_reducible exact xfetch_cacheNow | with_reducible exact xfetch_caches _
    | with_reducible refine xonly_bind ?_ fun _ => ?_
    | split
    | dsimp only

theorem xfetch_fetchValidSte (c : Ctx) : XOnly State.sansFetch (fetchValidSte c) := by
  unfold fetchValidSte
  repeat' first
    | with_reducible exact xonly_pure _ | with_reducible exact xonly_stop _ | with_reducible exact xonly_state | with_reducible exact xfetch_fetchSte _
    | with_reducible refine xonly_bind ?_ fun _ => ?_
    | split
    | dsimp only

theorem xfetch_fetchVms (c : Ctx) (x : Ste) : XOnly State.sansFetch (fetchVms c x) := by
  unfold fetchVms
  repeat' first
    | with_reducible exact xonly_pure _ | with_reducible exact xonly_stop _ | with_reducible exact xonly_state | with_reducible exact xfetch_fetchPhys _ _ _ _ _
    | with_reducible exact xfetch_cacheNow | with_reducible exact xfetch_caches _
    | with_reducible refine xonly_bind ?_ fun _ => ?_
    | split
    | dsimp only

theorem fetch_lookupSte (s : State) (i : Sec) (sid : BitVec 32) (q : Bool) :
    Only State.sansFetch s (lookupSte s i sid q).2 :=
  xfetch_fetchValidSte _ s

theorem fetch_dcmdqVmid (s : State) (i : Sec) (n : Nat) : Only State.sansFetch s (dcmdqVmid s i n).2 := by
  unfold dcmdqVmid
  dsimp only [State.takeFree]
  split
  · exact .of_same rfl rfl rfl rfl rfl rfl
  · split
    all_goals
      rename_i e
      refine .trans (t := { s with free := s.free + 1 }) (.of_same rfl rfl rfl rfl rfl rfl) ?_
      exact only_snd (fetch_lookupSte _ _ _ _) e

end Sys2Proof.Laws
end

