-- ==== Sys2Proof/Laws/PerInstr.lean ====
section
/-! SUPPORT. Statements made for every command by one lemma each: every well-formed command decodes from its own encoding. -/

namespace Sys2Proof.Laws.RoundTrip

set_option linter.unusedSimpArgs false
set_option Elab.async false

/-- The word of a well-formed command decodes to it, every operand at every value. -/
def Statement (i : Instr) : Prop := i.wellFormed = true → decodeWord (encode i) = .ok i

theorem prefetchConfig (ssec : Bool) (ssv : Bool) (ssid : BitVec 20) (sid : BitVec 32) :
    Statement (.prefetchConfig ssec ssv ssid sid) := by
  intro _
  simp (disch := decide) only [decodeWord, encode, putRange, rangeOf, extract_or, extract_fld_same, extract_fld_other, bit_or,
    bit_fld_other, bit_flag_same, bit_flag_other, extract_flag_other, BitVec.or_zero, BitVec.zero_or, Bool.or_false,
    Bool.false_or, BitVec.reduceToNat, if_true]

theorem prefetchAddr (ssec : Bool) (ssv : Bool) (ssid : BitVec 20) (sid : BitVec 32) (size : BitVec 5) (stride : BitVec 5) (ns : Bool) (addr : BitVec 52) :
    Statement (.prefetchAddr ssec ssv ssid sid size stride ns addr) := by
  intro _
  simp (disch := decide) only [decodeWord, encode, putRange, rangeOf, extract_or, extract_fld_same, extract_fld_other, bit_or,
    bit_fld_other, bit_flag_same, bit_flag_other, extract_flag_other, BitVec.or_zero, BitVec.zero_or, Bool.or_false,
    Bool.false_or, BitVec.reduceToNat, if_true]

theorem cfgiSte (ssec : Bool) (sid : BitVec 32) (leaf : Bool) : Statement (.cfgiSte ssec sid leaf) := by
  intro _
  simp (disch := decide) only [decodeWord, encode, putRange, rangeOf, extract_or, extract_fld_same, extract_fld_other, bit_or,
    bit_fld_other, bit_flag_same, bit_flag_other, extract_flag_other, BitVec.or_zero, BitVec.zero_or, Bool.or_false,
    Bool.false_or, BitVec.reduceToNat, if_true]

theorem cfgiSteRange (ssec : Bool) (sid : BitVec 32) (range : BitVec 5) :
    Statement (.cfgiSteRange ssec sid range) := by
  intro h
  have hr : range ≠ 31#5 := by simpa [Instr.wellFormed] using h
  simp (disch := decide) only [decodeWord, encode, extract_or, extract_fld_same, extract_fld_other, bit_or, bit_fld_other,
    bit_flag_same, extract_flag_other, BitVec.or_zero, BitVec.zero_or, Bool.or_false, Bool.false_or, BitVec.reduceToNat, hr,
    if_false]

theorem cfgiAll (ssec : Bool) (sid : BitVec 32) : Statement (.cfgiAll ssec sid) := by
  intro _
  simp (disch := decide) only [decodeWord, encode, putRange, rangeOf, extract_or, extract_fld_same, extract_fld_other, bit_or,
    bit_fld_other, bit_flag_same, bit_flag_other, extract_flag_other, BitVec.or_zero, BitVec.zero_or, Bool.or_false,
    Bool.false_or, BitVec.reduceToNat, if_true]

theorem cfgiCd (ssec : Bool) (ssid : BitVec 20) (sid : BitVec 32) (leaf : Bool) :
    Statement (.cfgiCd ssec ssid sid leaf) := by
  intro _
  simp (disch := decide) only [decodeWord, encode, putRange, rangeOf, extract_or, extract_fld_same, extract_fld_other, bit_or,
    bit_fld_other, bit_flag_same, bit_flag_other, extract_flag_other, BitVec.or_zero, BitVec.zero_or, Bool.or_false,
    Bool.false_or, BitVec.reduceToNat, if_true]

theorem cfgiCdAll (ssec : Bool) (sid : BitVec 32) : Statement (.cfgiCdAll ssec sid) := by
  intro _
  simp (disch := decide) only [decodeWord, encode, putRange, rangeOf, extract_or, extract_fld_same, extract_fld_other, bit_or,
    bit_fld_other, bit_flag_same, bit_flag_other, extract_flag_other, BitVec.or_zero, BitVec.zero_or, Bool.or_false,
    Bool.false_or, BitVec.reduceToNat, if_true]

theorem cfgiVmsPidm (ssec : Bool) (vmid : BitVec 16) : Statement (.cfgiVmsPidm ssec vmid) := by
  intro _
  simp (disch := decide) only [decodeWord, encode, putRange, rangeOf, extract_or, extract_fld_same, extract_fld_other, bit_or,
    bit_fld_other, bit_flag_same, bit_flag_other, extract_flag_other, BitVec.or_zero, BitVec.zero_or, Bool.or_false,
    Bool.false_or, BitVec.reduceToNat, if_true]

theorem cfgiCit (sid : BitVec 32) : Statement (.cfgiCit sid) := by
  intro _
  simp (disch := decide) only [decodeWord, encode, putRange, rangeOf, extract_or, extract_fld_same, extract_fld_other, bit_or,
    bit_fld_other, bit_flag_same, bit_flag_other, extract_flag_other, BitVec.or_zero, BitVec.zero_or, Bool.or_false,
    Bool.false_or, BitVec.reduceToNat, if_true]

theorem cfgiVsttVsid (sid : BitVec 32) (vsid : BitVec 16) : Statement (.cfgiVsttVsid sid vsid) := by
  intro _
  simp (disch := decide) only [decodeWord, encode, putRange, rangeOf, extract_or, extract_fld_same, extract_fld_other, bit_or,
    bit_fld_other, bit_flag_same, bit_flag_other, extract_flag_other, BitVec.or_zero, BitVec.zero_or, Bool.or_false,
    Bool.false_or, BitVec.reduceToNat, if_true]

theorem cfgiVstt (sid : BitVec 32) : Statement (.cfgiVstt sid) := by
  intro _
  simp (disch := decide) only [decodeWord, encode, putRange, rangeOf, extract_or, extract_fld_same, extract_fld_other, bit_or,
    bit_fld_other, bit_flag_same, bit_flag_other, extract_flag_other, BitVec.or_zero, BitVec.zero_or, Bool.or_false,
    Bool.false_or, BitVec.reduceToNat, if_true]

theorem tlbiNhAll (vmid : BitVec 16) : Statement (.tlbiNhAll vmid) := by
  intro _
  simp (disch := decide) only [decodeWord, encode, putRange, rangeOf, extract_or, extract_fld_same, extract_fld_other, bit_or,
    bit_fld_other, bit_flag_same, bit_flag_other, extract_flag_other, BitVec.or_zero, BitVec.zero_or, Bool.or_false,
    Bool.false_or, BitVec.reduceToNat, if_true]

theorem tlbiNhAsid (vmid : BitVec 16) (asid : BitVec 16) : Statement (.tlbiNhAsid vmid asid) := by
  intro _
  simp (disch := decide) only [decodeWord, encode, putRange, rangeOf, extract_or, extract_fld_same, extract_fld_other, bit_or,
    bit_fld_other, bit_flag_same, bit_flag_other, extract_flag_other, BitVec.or_zero, BitVec.zero_or, Bool.or_false,
    Bool.false_or, BitVec.reduceToNat, if_true]

theorem tlbiNhVa (vmid : BitVec 16) (asid : BitVec 16) (rg : TlbiRange) (leaf : Bool) (addr : BitVec 52) :
    Statement (.tlbiNhVa vmid asid rg leaf addr) := by
  intro _
  simp (disch := decide) only [decodeWord, encode, putRange, rangeOf, extract_or, extract_fld_same, extract_fld_other, bit_or,
    bit_fld_other, bit_flag_same, bit_flag_other, extract_flag_other, BitVec.or_zero, BitVec.zero_or, Bool.or_false,
    Bool.false_or, BitVec.reduceToNat, if_true]

theorem tlbiNhVaa (vmid : BitVec 16) (rg : TlbiRange) (leaf : Bool) (addr : BitVec 52) :
    Statement (.tlbiNhVaa vmid rg leaf addr) := by
  intro _
  simp (disch := decide) only [decodeWord, encode, putRange, rangeOf, extract_or, extract_fld_same, extract_fld_other, bit_or,
    bit_fld_other, bit_flag_same, bit_flag_other, extract_flag_other, BitVec.or_zero, BitVec.zero_or, Bool.or_false,
    Bool.false_or, BitVec.reduceToNat, if_true]

theorem tlbiEl3All : Statement .tlbiEl3All := by
  intro _; rfl

theorem tlbiEl3Va (rg : TlbiRange) (leaf : Bool) (addr : BitVec 52) : Statement (.tlbiEl3Va rg leaf addr) := by
  intro _
  simp (disch := decide) only [decodeWord, encode, putRange, rangeOf, extract_or, extract_fld_same, extract_fld_other, bit_or,
    bit_fld_other, bit_flag_same, bit_flag_other, extract_flag_other, BitVec.or_zero, BitVec.zero_or, Bool.or_false,
    Bool.false_or, BitVec.reduceToNat, if_true]

theorem tlbiEl2All : Statement .tlbiEl2All := by
  intro _; rfl

theorem tlbiEl2Asid (asid : BitVec 16) : Statement (.tlbiEl2Asid asid) := by
  intro _
  simp (disch := decide) only [decodeWord, encode, putRange, rangeOf, extract_or, extract_fld_same, extract_fld_other, bit_or,
    bit_fld_other, bit_flag_same, bit_flag_other, extract_flag_other, BitVec.or_zero, BitVec.zero_or, Bool.or_false,
    Bool.false_or, BitVec.reduceToNat, if_true]

theorem tlbiEl2Va (asid : BitVec 16) (rg : TlbiRange) (leaf : Bool) (addr : BitVec 52) :
    Statement (.tlbiEl2Va asid rg leaf addr) := by
  intro _
  simp (disch := decide) only [decodeWord, encode, putRange, rangeOf, extract_or, extract_fld_same, extract_fld_other, bit_or,
    bit_fld_other, bit_flag_same, bit_flag_other, extract_flag_other, BitVec.or_zero, BitVec.zero_or, Bool.or_false,
    Bool.false_or, BitVec.reduceToNat, if_true]

theorem tlbiEl2Vaa (rg : TlbiRange) (leaf : Bool) (addr : BitVec 52) : Statement (.tlbiEl2Vaa rg leaf addr) := by
  intro _
  simp (disch := decide) only [decodeWord, encode, putRange, rangeOf, extract_or, extract_fld_same, extract_fld_other, bit_or,
    bit_fld_other, bit_flag_same, bit_flag_other, extract_flag_other, BitVec.or_zero, BitVec.zero_or, Bool.or_false,
    Bool.false_or, BitVec.reduceToNat, if_true]

theorem tlbiS12Vmall (vmid : BitVec 16) : Statement (.tlbiS12Vmall vmid) := by
  intro _
  simp (disch := decide) only [decodeWord, encode, putRange, rangeOf, extract_or, extract_fld_same, extract_fld_other, bit_or,
    bit_fld_other, bit_flag_same, bit_flag_other, extract_flag_other, BitVec.or_zero, BitVec.zero_or, Bool.or_false,
    Bool.false_or, BitVec.reduceToNat, if_true]

theorem tlbiS2Vmallw (vmid : BitVec 16) : Statement (.tlbiS2Vmallw vmid) := by
  intro _
  simp (disch := decide) only [decodeWord, encode, putRange, rangeOf, extract_or, extract_fld_same, extract_fld_other, bit_or,
    bit_fld_other, bit_flag_same, bit_flag_other, extract_flag_other, BitVec.or_zero, BitVec.zero_or, Bool.or_false,
    Bool.false_or, BitVec.reduceToNat, if_true]

theorem tlbiS2Ipa (vmid : BitVec 16) (rg : TlbiRange) (leaf : Bool) (addr : BitVec 44) :
    Statement (.tlbiS2Ipa vmid rg leaf addr) := by
  intro _
  simp (disch := decide) only [decodeWord, encode, putRange, rangeOf, extract_or, extract_fld_same, extract_fld_other, bit_or,
    bit_fld_other, bit_flag_same, bit_flag_other, extract_flag_other, BitVec.or_zero, BitVec.zero_or, Bool.or_false,
    Bool.false_or, BitVec.reduceToNat, if_true]

theorem tlbiNsnhAll : Statement .tlbiNsnhAll := by
  intro _; rfl

theorem atcInv (g : Bool) (ssv : Bool) (ssid : BitVec 20) (sid : BitVec 32) (size : BitVec 6) (addr : BitVec 52) :
    Statement (.atcInv g ssv ssid sid size addr) := by
  intro _
  simp (disch := decide) only [decodeWord, encode, putRange, rangeOf, extract_or, extract_fld_same, extract_fld_other, bit_or,
    bit_fld_other, bit_flag_same, bit_flag_other, extract_flag_other, BitVec.or_zero, BitVec.zero_or, Bool.or_false,
    Bool.false_or, BitVec.reduceToNat, if_true]

theorem priResp (ssv : Bool) (ssid : BitVec 20) (sid : BitVec 32) (prgIndex : BitVec 9) (resp : BitVec 2) :
    Statement (.priResp ssv ssid sid prgIndex resp) := by
  intro _
  simp (disch := decide) only [decodeWord, encode, putRange, rangeOf, extract_or, extract_fld_same, extract_fld_other, bit_or,
    bit_fld_other, bit_flag_same, bit_flag_other, extract_flag_other, BitVec.or_zero, BitVec.zero_or, Bool.or_false,
    Bool.false_or, BitVec.reduceToNat, if_true]

theorem resume (ssec : Bool) (ac : Bool) (ab : Bool) (sid : BitVec 32) (stag : BitVec 16) :
    Statement (.resume ssec ac ab sid stag) := by
  intro _
  simp (disch := decide) only [decodeWord, encode, putRange, rangeOf, extract_or, extract_fld_same, extract_fld_other, bit_or,
    bit_fld_other, bit_flag_same, bit_flag_other, extract_flag_other, BitVec.or_zero, BitVec.zero_or, Bool.or_false,
    Bool.false_or, BitVec.reduceToNat, if_true]

theorem stallTerm (ssec : Bool) (sid : BitVec 32) : Statement (.stallTerm ssec sid) := by
  intro _
  simp (disch := decide) only [decodeWord, encode, putRange, rangeOf, extract_or, extract_fld_same, extract_fld_other, bit_or,
    bit_fld_other, bit_flag_same, bit_flag_other, extract_flag_other, BitVec.or_zero, BitVec.zero_or, Bool.or_false,
    Bool.false_or, BitVec.reduceToNat, if_true]

theorem sync (cs : BitVec 2) (msh : BitVec 2) (msiAttr : BitVec 4) (msiData : BitVec 32) (msiAddr : BitVec 54) (msiNs : Bool) :
    Statement (.sync cs msh msiAttr msiData msiAddr msiNs) := by
  intro _
  simp (disch := decide) only [decodeWord, encode, putRange, rangeOf, extract_or, extract_fld_same, extract_fld_other, bit_or,
    bit_fld_other, bit_flag_same, bit_flag_other, extract_flag_other, BitVec.or_zero, BitVec.zero_or, Bool.or_false,
    Bool.false_or, BitVec.reduceToNat, if_true]

theorem tlbiSEl2All : Statement .tlbiSEl2All := by
  intro _; rfl

theorem tlbiSEl2Asid (asid : BitVec 16) : Statement (.tlbiSEl2Asid asid) := by
  intro _
  simp (disch := decide) only [decodeWord, encode, putRange, rangeOf, extract_or, extract_fld_same, extract_fld_other, bit_or,
    bit_fld_other, bit_flag_same, bit_flag_other, extract_flag_other, BitVec.or_zero, BitVec.zero_or, Bool.or_false,
    Bool.false_or, BitVec.reduceToNat, if_true]

theorem tlbiSEl2Va (asid : BitVec 16) (rg : TlbiRange) (leaf : Bool) (addr : BitVec 52) :
    Statement (.tlbiSEl2Va asid rg leaf addr) := by
  intro _
  simp (disch := decide) only [decodeWord, encode, putRange, rangeOf, extract_or, extract_fld_same, extract_fld_other, bit_or,
    bit_fld_other, bit_flag_same, bit_flag_other, extract_flag_other, BitVec.or_zero, BitVec.zero_or, Bool.or_false,
    Bool.false_or, BitVec.reduceToNat, if_true]

theorem tlbiSEl2Vaa (rg : TlbiRange) (leaf : Bool) (addr : BitVec 52) : Statement (.tlbiSEl2Vaa rg leaf addr) := by
  intro _
  simp (disch := decide) only [decodeWord, encode, putRange, rangeOf, extract_or, extract_fld_same, extract_fld_other, bit_or,
    bit_fld_other, bit_flag_same, bit_flag_other, extract_flag_other, BitVec.or_zero, BitVec.zero_or, Bool.or_false,
    Bool.false_or, BitVec.reduceToNat, if_true]

theorem tlbiSS12Vmall (vmid : BitVec 16) : Statement (.tlbiSS12Vmall vmid) := by
  intro _
  simp (disch := decide) only [decodeWord, encode, putRange, rangeOf, extract_or, extract_fld_same, extract_fld_other, bit_or,
    bit_fld_other, bit_flag_same, bit_flag_other, extract_flag_other, BitVec.or_zero, BitVec.zero_or, Bool.or_false,
    Bool.false_or, BitVec.reduceToNat, if_true]

theorem tlbiSS2Vmallw (vmid : BitVec 16) : Statement (.tlbiSS2Vmallw vmid) := by
  intro _
  simp (disch := decide) only [decodeWord, encode, putRange, rangeOf, extract_or, extract_fld_same, extract_fld_other, bit_or,
    bit_fld_other, bit_flag_same, bit_flag_other, extract_flag_other, BitVec.or_zero, BitVec.zero_or, Bool.or_false,
    Bool.false_or, BitVec.reduceToNat, if_true]

theorem tlbiSS2Ipa (vmid : BitVec 16) (ns : Bool) (rg : TlbiRange) (leaf : Bool) (addr : BitVec 44) :
    Statement (.tlbiSS2Ipa vmid ns rg leaf addr) := by
  intro _
  simp (disch := decide) only [decodeWord, encode, putRange, rangeOf, extract_or, extract_fld_same, extract_fld_other, bit_or,
    bit_fld_other, bit_flag_same, bit_flag_other, extract_flag_other, BitVec.or_zero, BitVec.zero_or, Bool.or_false,
    Bool.false_or, BitVec.reduceToNat, if_true]

theorem tlbiSnhAll : Statement .tlbiSnhAll := by
  intro _; rfl

theorem dptiAll : Statement .dptiAll := by
  intro _; rfl

theorem dptiPa (leaf : Bool) (size : BitVec 4) (addr : BitVec 44) : Statement (.dptiPa leaf size addr) := by
  intro _
  simp (disch := decide) only [decodeWord, encode, putRange, rangeOf, extract_or, extract_fld_same, extract_fld_other, bit_or,
    bit_fld_other, bit_flag_same, bit_flag_other, extract_flag_other, BitVec.or_zero, BitVec.zero_or, Bool.or_false,
    Bool.false_or, BitVec.reduceToNat, if_true]

end Sys2Proof.Laws.RoundTrip
end

