-- ==== Sys2Proof/Laws/Sound.lean ====
section
/-! SUPPORT. Every operation of a step keeps the invariants and what is fixed for the machine: registers, Updates, ATOS, the
HACDBS, broadcasts, reset. -/

namespace Sys2Proof.Laws

open Sys2Proof.Machine Sys2Proof.Safety

/-- `t` has what is fixed for the machine as `s` has it, and the invariants if `s` has them. -/
structure Sound (s t : State) : Prop where
  fixed : FixedKept s t
  inv : Inv s → Inv t

theorem Sound.refl (s : State) : Sound s s := ⟨⟨rfl, rfl⟩, id⟩

theorem Sound.trans {s t u : State} (h : Sound s t) (k : Sound t u) : Sound s u :=
  ⟨⟨k.fixed.1.trans h.fixed.1, k.fixed.2.trans h.fixed.2⟩, fun i => k.inv (h.inv i)⟩

theorem Sound.ite {s a b : State} {c : Prop} [Decidable c] (h : Sound s a) (k : Sound s b) :
    Sound s (if c then a else b) := by
  split
  · exact h
  · exact k

theorem Sound.foldl {α : Type} (g : State → α → State) (hg : ∀ s a, Sound s (g s a)) (l : List α) (s : State) :
    Sound s (l.foldl g s) := by
  induction l generalizing s with
  | nil => exact .refl s
  | cons a l ih => exact (hg s a).trans (ih (g s a))

theorem Sound.of_obeys {s t : State} (h : Obeys s t) : Sound s t := by
  have h1 : t.ids = s.ids := by have := congrArg State.ids h.only.same; exact this
  have h2 : t.impl = s.impl := by have := congrArg State.impl h.only.same; exact this
  exact ⟨⟨h1, h2⟩, fun i => ⟨h.only.memory i.memory, h.only.errors i.errors, h.stalls i.stalls⟩⟩

theorem Sound.of_takes {s t : State} (h : Takes s t) : Sound s t := .of_obeys (.of_takes h)

theorem Sound.of_lookup {s t : State} (h : Only State.sansLookup s t) : Sound s t := .of_obeys (.of_lookup h)

/-- A change that touches neither memory, GERROR, GERRORN, the stalled transactions nor what is fixed. -/
theorem Sound.of_fields {s t : State} (hi : t.ids = s.ids) (hp : t.impl = s.impl) (hm : t.mem = s.mem)
    (hs : t.stalls = s.stalls) (he : ∀ i, (t.iface i).gerror = (s.iface i).gerror)
    (hn : ∀ i, (t.iface i).gerrorn = (s.iface i).gerrorn) : Sound s t := by
  have h : Only (fun _ => s) s t := .of_fields rfl hm hi he hn
  exact ⟨⟨hi, hp⟩, fun i => ⟨h.memory i.memory, h.errors i.errors, stallsBounded_congr hs hi i.stalls⟩⟩

/-- A change that touches no interface, no memory and no stalled transaction. -/
theorem Sound.of_same {s t : State} (hi : t.ids = s.ids) (hp : t.impl = s.impl) (hm : t.mem = s.mem)
    (hs : t.stalls = s.stalls) (h1 : t.ns = s.ns) (h2 : t.sec = s.sec) (h3 : t.rlm = s.rlm) : Sound s t :=
  .of_fields hi hp hm hs (fun i => by cases i <;> simp [State.iface, h1, h2, h3])
    (fun i => by cases i <;> simp [State.iface, h1, h2, h3])

theorem sound_setIface (s : State) (i : Sec) (g : Iface → Iface) (he : (g (s.iface i)).gerror = (s.iface i).gerror)
    (hn : (g (s.iface i)).gerrorn = (s.iface i).gerrorn) : Sound s (s.setIface i g) := by
  refine .of_fields (by simp) (by simp) (by simp) (by simp) (fun j => ?_) (fun j => ?_)
  · by_cases hj : j = i
    · subst hj; simpa using he
    · rw [State.setIface_iface_other s g hj]
  · by_cases hj : j = i
    · subst hj; simpa using hn
    · rw [State.setIface_iface_other s g hj]

theorem sound_setEcmdq (s : State) (i : Sec) (n : Nat) (g : Ecmdq → Ecmdq) : Sound s (s.setEcmdq i n g) :=
  sound_setIface s i _ rfl rfl

theorem sound_send (s : State) (o : Output) : Sound s (s.send o) := .of_lookup (only_send _ _)

theorem sound_takeFree (s : State) : Sound s s.takeFree.2 := .of_lookup (only_takeFree _)

theorem sound_caches (s : State) (k : Caches) : Sound s { s with caches := k } := .of_lookup (only_caches _ _)

theorem sound_raiseIrq (s : State) (i : Sec) (x : IrqSrc) : Sound s (raiseIrq s i x) := .of_lookup (only_raiseIrq _ _ _)

theorem sound_raiseGerror (s : State) (i : Sec) (e : GErr) : Sound s (raiseGerror s i e) :=
  .of_lookup (only_raiseGerror _ _ _)

/-! ## ATOS -/

theorem sound_setAtos (s : State) (g : AtosGroup) (f : AtosRegs → AtosRegs) : Sound s (s.setAtos g f) := by
  cases g <;> exact .of_same rfl rfl rfl rfl rfl rfl rfl

theorem sound_atosInhibit {s t : State} (h : Only State.sansLookup s t) : Sound s (atosInhibit s t) := by
  have h1 : t.ids = s.ids := by have := congrArg State.ids h.same; exact this
  have h2 : t.impl = s.impl := by have := congrArg State.impl h.same; exact this
  have h3 : t.stalls = s.stalls := by have := congrArg State.stalls h.same; exact this
  exact .of_same h1 h2 rfl h3 rfl rfl rfl

theorem sound_atosResult (s : State) (g : AtosGroup) (q : AtosReq) : Sound s (atosResult s g q).2 := by
  unfold atosResult
  dsimp only
  split
  · exact .refl s
  · split
    · exact .refl s
    · generalize hx : X.run (atosLookup g q _) s = p
      have h := only_run (xonly_atosLookup _ _ _) hx
      have h' : Sound s (if q.httui = true then atosInhibit s p.2 else p.2) :=
        .ite (sound_atosInhibit h) (.of_lookup h)
      split <;> exact h'

theorem sound_runAtos (s : State) (g : AtosGroup) : Sound s (runAtos s g) := by
  unfold runAtos
  exact (sound_atosResult s g (atosRequest s.ids g (s.atosRegs g))).trans (sound_setAtos _ _ _)

theorem sound_endAtos (s : State) (g : AtosGroup) : Sound s (endAtos s g) :=
  .ite (sound_setAtos _ _ _) (.refl s)

/-! ## Broadcasts -/

theorem sound_processBroadcast (s : State) (op : TlbScope) : Sound s (processBroadcast s op) := by
  unfold processBroadcast
  refine .ite ?_ (.refl s)
  cases op <;> exact sound_caches _ _

/-! ## Registers -/

theorem setReg_gerror (r : Iface) (d : Ids) (u : DWord) (reg : Reg) (v : DWord) : (r.setReg d u reg v).gerror = r.gerror := by
  unfold Iface.setReg
  dsimp only
  split <;> first
    | rfl
    | (split <;> rfl)
    | (unfold Iface.setIrqCfg; split <;> rfl)

theorem setReg_gerrorn (r : Iface) (d : Ids) (u : DWord) (reg : Reg) (v : DWord) (h : reg ≠ .gerrorn) :
    (r.setReg d u reg v).gerrorn = r.gerrorn := by
  unfold Iface.setReg
  dsimp only
  split <;> first
    | rfl
    | exact absurd rfl h
    | (split <;> rfl)
    | (unfold Iface.setIrqCfg; split <;> rfl)

theorem maskIf_getLsbD (b : Bool) (lo n k : Nat) :
    (maskIf b lo n).getLsbD k = (b && decide (k < 64 ∧ lo ≤ k ∧ k < lo + n)) := by
  cases b <;> simp [maskIf, maskAt_getLsbD]

theorem foldl_or_bit {α : Type} (l : List α) (g : α → DWord) (m : DWord) (n : Nat)
    (h : (l.foldl (fun m e => m ||| g e) m).getLsbD n = true) :
    m.getLsbD n = true ∨ ∃ e ∈ l, (g e).getLsbD n = true := by
  induction l generalizing m with
  | nil => exact .inl h
  | cons e l ih =>
    rcases ih _ h with h' | ⟨e', he, h'⟩
    · rw [BitVec.getLsbD_or, Bool.or_eq_true] at h'
      rcases h' with h' | h'
      · exact .inl h'
      · exact .inr ⟨e, by simp, h'⟩
    · exact .inr ⟨e', by simp [he], h'⟩

/-- A bit of the mask of an interface's flags is the bit of a flag that it has. -/
theorem gerrMask_bit (d : Ids) (i : Sec) (n : Nat) (h : (gerrMask d i).getLsbD n = true) :
    ∃ e : GErr, gerrBit e = n ∧ gerrPresent d i e = true := by
  rcases foldl_or_bit _ _ _ _ h with h' | ⟨e, _, h'⟩
  · simp at h'
  · rw [maskIf_getLsbD, Bool.and_eq_true, decide_eq_true_eq] at h'
    exact ⟨e, by omega, h'.1⟩

theorem sound_setReg (s : State) (i : Sec) (d : Ids) (u : DWord) (reg : Reg) (v : DWord) (h : reg ≠ .gerrorn) :
    Sound s (s.setIface i fun r => r.setReg d u reg v) :=
  sound_setIface s i _ (setReg_gerror _ _ _ _ _) (setReg_gerrorn _ _ _ _ _ h)

theorem sound_storeReg (s : State) (i : Sec) (reg : Reg) (v : DWord) (h : reg ≠ .gerrorn) :
    Sound s (storeReg s i reg v) := by
  unfold storeReg
  split
  · exact .of_same rfl rfl rfl rfl rfl rfl rfl
  · split <;> exact .of_same rfl rfl rfl rfl rfl rfl rfl
  · exact (sound_takeFree s).trans (sound_setReg _ _ _ _ _ _ (by simp))
  · exact (sound_takeFree s).trans (sound_setReg _ _ _ _ _ _ (by simp))
  · exact (sound_takeFree s).trans (sound_setReg _ _ _ _ _ _ (by simp))
  · exact sound_setReg _ _ _ _ _ _ h

/-- A write of GERRORN changes only bits of flags that the interface has. -/
theorem sound_writeGerrorn (s : State) (i : Sec) (v : DWord) : Sound s (writeReg s i .gerrorn v) := by
  unfold writeReg
  dsimp only [guardOf, writeTakes, if_true]
  simp only [if_true]
  unfold plainWrite storeReg
  dsimp only [regStored, regValue, regWritable, Iface.setReg]
  generalize hw : BitVec.setWidth 32 (mergeBits _ v (gerrMask s.ids i)) = w
  refine ⟨⟨by simp, by simp⟩, fun a => ⟨by simpa [MemoryCanonical] using a.memory, ?_,
    stallsBounded_congr (by simp) (by simp) a.stalls⟩⟩
  intro j n hb
  simp only [State.setIface_ids]
  by_cases hj : j = i
  · subst hj
    simp only [State.setIface_iface_same] at hb
    rcases hb with hb | hb
    · exact a.errors j n (.inl hb)
    · by_cases hm : (gerrMask s.ids j).getLsbD n = true
      · exact gerrMask_bit _ _ _ hm
      · refine a.errors j n (.inr ?_)
        rw [← hw] at hb
        simp only [BitVec.getLsbD_setWidth, mergeBits_getLsbD, hm] at hb
        simp at hb
        exact hb.2.2
  · rw [State.setIface_iface_other s _ hj] at hb
    exact a.errors j n hb

theorem sound_unknownMemory (s : State) (p : Pas) (a : DWord) (n : Nat) : Sound s (unknownMemory s p a n) := by
  unfold unknownMemory
  exact .foldl _ (fun s _ => (sound_takeFree s).trans (.of_lookup (only_storeBytes _ _ _ _))) _ _

theorem sound_spoilQueue (s : State) (i : Sec) (reg : Reg) (v : DWord) : Sound s (spoilQueue s i reg v) := by
  unfold spoilQueue
  split
  · exact sound_unknownMemory _ _ _ _
  · exact .refl s

theorem sound_setUnknownReads (s : State) (i : Sec) (f : List GuardedReg → List GuardedReg) :
    Sound s (s.setUnknownReads i f) := sound_setIface s i _ rfl rfl

theorem sound_plainWrite (s : State) (i : Sec) (reg : Reg) (v : DWord) (h : reg ≠ .gerrorn) :
    Sound s (plainWrite s i reg v) := sound_storeReg _ _ _ _ h

/-- What a write of a guarded register may do, allowed or not. -/
theorem sound_guardedWrite (s : State) (i : Sec) (reg : Reg) (g : GuardedReg) (v : DWord) (h : reg ≠ .gerrorn) :
    Sound s (guardedWrite s i reg g v) := by
  refine .ite ((sound_plainWrite _ _ _ _ h).trans (sound_setUnknownReads _ _ _)) ?_
  unfold breakGuard
  exact .ite (.refl s) ((sound_takeFree s).trans ((sound_storeReg _ _ _ _ h).trans (sound_setUnknownReads _ _ _)))

theorem sound_writeReg (s : State) (i : Sec) (reg : Reg) (v : DWord) : Sound s (writeReg s i reg v) := by
  by_cases h : reg = .gerrorn
  · subst h
    exact sound_writeGerrorn s i v
  · unfold writeReg
    split
    · exact sound_guardedWrite _ _ _ _ _ h
    · split
      · exact .ite (.refl s) (sound_storeReg _ _ _ _ (by simp))
      · exact (sound_spoilQueue _ _ _ _).trans (sound_storeReg _ _ _ _ (by simp))
      · exact (sound_spoilQueue _ _ _ _).trans (sound_storeReg _ _ _ _ (by simp))
      · exact .ite (sound_plainWrite _ _ _ _ h) (.refl s)

theorem sound_readReg (s : State) (i : Sec) (reg : Reg) : Sound s (readReg s i reg).2 := by
  unfold readReg
  dsimp only
  split
  · exact .refl s
  · exact sound_takeFree s

theorem sound_withUnknown (s : State) (v m : DWord) : Sound s (s.withUnknown v m).2 := by
  unfold State.withUnknown
  split
  · exact .refl s
  · exact sound_takeFree s

theorem sound_readTarget (s : State) (t : RegTarget) : Sound s (readTarget s t).2 := by
  unfold readTarget
  split
  · exact sound_readReg _ _ _
  · split
    · exact sound_withUnknown _ _ _
    · exact .refl s
  · split
    · split
      · exact sound_withUnknown _ _ _
      · exact .refl s
    · exact .refl s
  · exact .refl s
  · exact .refl s
  · exact sound_withUnknown _ _ _

theorem sound_writeAtos (s : State) (g : AtosGroup) (k : Nat) (v : DWord) : Sound s (writeAtos s g k v) := by
  unfold writeAtos
  dsimp only
  refine .ite (.refl s) ?_
  split
  · exact .ite (sound_setAtos _ _ _) (.refl s)
  · exact sound_setAtos _ _ _
  · exact sound_setAtos _ _ _
  · exact .refl s

theorem sound_writeTarget (s : State) (t : RegTarget) (v : DWord) : Sound s (writeTarget s t v) := by
  unfold writeTarget
  split
  · exact sound_writeReg _ _ _ _
  · split
    · exact (sound_takeFree s).trans (sound_setEcmdq _ _ _ _)
    · exact .refl s
  · split
    · exact .ite ((sound_takeFree s).trans (sound_setEcmdq _ _ _ _)) (.refl s)
    · exact .refl s
  · exact .refl s
  · exact sound_setIface _ _ _ rfl rfl
  · exact sound_writeAtos _ _ _ _

theorem sound_processRegRead (s : State) (pas : Pas) (off size : Nat) : Sound s (processRegRead s pas off size) := by
  unfold processRegRead
  split
  · exact .ite ((sound_readTarget _ _).trans (sound_send _ _)) (sound_send _ _)
  · exact sound_send _ _

theorem sound_writeAccess (s : State) (pas : Pas) (off size : Nat) (v : DWord) :
    Sound s (writeAccess s pas off size v) := by
  unfold writeAccess
  split
  · exact .ite (sound_writeTarget _ _ _) (.refl s)
  · exact .refl s

theorem sound_processRegWrite (s : State) (pas : Pas) (off size : Nat) (v : DWord) :
    Sound s (processRegWrite s pas off size v) := by
  unfold processRegWrite
  split
  · exact .refl s
  · refine .ite ?_ (sound_writeAccess _ _ _ _ _)
    have h := sound_takeFree s
    generalize s.takeFree = q at h ⊢
    obtain ⟨u, w⟩ := q
    exact h.trans (.ite ((sound_writeAccess _ _ _ _ _).trans (sound_writeAccess _ _ _ _ _))
      ((sound_writeAccess _ _ _ _ _).trans (sound_writeAccess _ _ _ _ _)))

theorem sound_root (s : State) (r : RootRegs) : Sound s { s with root := r } := .of_same rfl rfl rfl rfl rfl rfl rfl

theorem sound_writeRoot (s : State) (reg : RootReg) (v : DWord) : Sound s (writeRoot s reg v) := by
  unfold writeRoot
  dsimp only
  repeat' split
  all_goals first
    | exact sound_root _ _
    | exact .refl s

theorem sound_processRootRead (s : State) (pas : Pas) (off size : Nat) : Sound s (processRootRead s pas off size) := by
  unfold processRootRead
  repeat' split
  all_goals exact sound_send _ _

theorem sound_processRootWrite (s : State) (pas : Pas) (off size : Nat) (v : DWord) :
    Sound s (processRootWrite s pas off size v) := by
  unfold processRootWrite
  split
  · exact .ite (sound_writeRoot _ _ _) (.refl s)
  · exact .refl s

theorem sound_setPmcg (s : State) (n : Nat) (f : Pmcg → Pmcg) : Sound s (s.setPmcg n f) :=
  .of_same rfl rfl rfl rfl rfl rfl rfl

theorem sound_writePmcg (s : State) (n : Nat) (p : Pmcg) (reg : PmReg) (pas : Pas) (v : DWord) :
    Sound s (writePmcg s n p reg pas v) := by
  have hf (u : State) (l : List Nat) : Sound u (l.foldl (fun s k => overflowEffects s n k) u) :=
    .foldl _ (fun _ _ => .of_takes (takes_overflowEffects _ _ _)) _ _
  unfold writePmcg
  dsimp only
  repeat' split
  all_goals first
    | exact sound_setPmcg _ _ _
    | exact .refl s
    | exact (sound_setPmcg s n _).trans (hf _ _)

theorem sound_processPmcgRead (s : State) (n page : Nat) (pas : Pas) (off size : Nat) :
    Sound s (processPmcgRead s n page pas off size) := by
  unfold processPmcgRead
  repeat' split
  all_goals exact sound_send _ _

theorem sound_pmcgWriteAccess (s : State) (n page : Nat) (pas : Pas) (off size : Nat) (v : DWord) :
    Sound s (pmcgWriteAccess s n page pas off size v) := by
  unfold pmcgWriteAccess
  repeat' split
  all_goals first
    | exact sound_writePmcg _ _ _ _ _ _
    | exact .refl s

theorem sound_processPmcgWrite (s : State) (n page : Nat) (pas : Pas) (off size : Nat) (v : DWord) :
    Sound s (processPmcgWrite s n page pas off size v) := by
  unfold processPmcgWrite
  refine .ite ((sound_takeFree s).trans ?_) (sound_pmcgWriteAccess _ _ _ _ _ _ _)
  exact .ite ((sound_pmcgWriteAccess _ _ _ _ _ _ _).trans (sound_pmcgWriteAccess _ _ _ _ _ _ _))
    ((sound_pmcgWriteAccess _ _ _ _ _ _ _).trans (sound_pmcgWriteAccess _ _ _ _ _ _ _))

/-! ## The HACDBS -/

theorem sound_setHacdbsCons (s : State) (i : Sec) (f : BitVec 64 → BitVec 64) : Sound s (s.setHacdbsCons i f) :=
  sound_setIface s i _ rfl rfl

theorem sound_hacdbsError (s : State) (i : Sec) (e : HacdbsErr) : Sound s (hacdbsError s i e) :=
  (sound_setHacdbsCons _ _ _).trans (sound_raiseGerror _ _ _)

theorem sound_hacdbsDone (s : State) (i : Sec) : Sound s (hacdbsDone s i) := by
  unfold hacdbsDone
  dsimp only
  split
  · exact (sound_setHacdbsCons _ _ _).trans (sound_raiseIrq _ _ _)
  · exact sound_setHacdbsCons _ _ _

theorem sound_hacdbsTranslate (s : State) (c : Ctx) (ipa : DWord) (level : Nat) (ns : Bool) :
    Sound s (hacdbsTranslate s c ipa level ns).2 := by
  unfold hacdbsTranslate
  split
  · rename_i h; exact (Sound.of_lookup (only_run (xonly_hacdbsSte _) h)).trans (.of_takes (takes_noteRequest _ _ _ _))
  · rename_i h; exact (Sound.of_lookup (only_run (xonly_hacdbsSte _) h)).trans (.of_takes (takes_noteRequest _ _ _ _))
  · rename_i h
    refine (Sound.of_lookup (only_run (xonly_hacdbsSte _) h)).trans ?_
    split <;> rename_i h <;>
      exact (Sound.of_lookup (only_run (xonly_hacdbsClean _ _ _ _ _) h)).trans (.of_takes (takes_noteRequest _ _ _ _))

theorem sound_runHacdbs (s : State) (i : Sec) : Sound s (runHacdbs s i) := by
  unfold runHacdbs
  dsimp only
  split
  · rename_i e
    exact (Sound.of_lookup (only_snd (only_smmuRead _ _ _ _ _ _ _) e)).trans (sound_hacdbsError _ _ _)
  · rename_i e
    refine (Sound.of_lookup (only_snd (only_smmuRead _ _ _ _ _ _ _) e)).trans ?_
    split
    · exact sound_hacdbsDone _ _
    · refine .ite (sound_hacdbsError _ _ _) ?_
      split <;> rename_i h
      · exact (h ▸ sound_hacdbsTranslate _ _ _ _ _ : Sound _ (_, _).2).trans (sound_hacdbsError _ _ _)
      · exact (h ▸ sound_hacdbsTranslate _ _ _ _ _ : Sound _ (_, _).2).trans (sound_hacdbsDone _ _)

/-! ## Updates -/

theorem sound_abortStalls (s : State) (i : Sec) : Sound s (abortStalls s i) := by
  unfold abortStalls
  exact (Sound.of_takes (takes_dropStalls s _ (List.filter_sublist ..))).trans (.foldl _ (fun _ _ => .of_obeys (obeys_endStall _ _ _)) _ _)

theorem sound_updateCr (s : State) (i : Sec) : Sound s (updateCr s i) := by
  unfold updateCr smmuenEffects
  dsimp only
  refine .trans (sound_setIface s i _ rfl rfl) (.ite (.ite ?_ ?_) (.refl _))
  · exact .foldl _ (fun _ _ => sound_setAtos _ _ _) _ _
  · exact (sound_abortStalls _ _).trans (.foldl _ (fun _ _ => sound_endAtos _ _) _ _)

theorem sound_updateMisc (s : State) (i : Sec) : Sound s (updateMisc s i) := by
  unfold updateMisc
  dsimp only
  exact .trans (sound_setIface s i Iface.acknowledge rfl rfl) (.ite (sound_raiseIrq _ _ _) (.refl _))

theorem sound_atcInvs (s : State) (l : List AtcInv) : Sound s { s with atcInvs := l } :=
  .of_same rfl rfl rfl rfl rfl rfl rfl

theorem sound_updateEcmdq (s : State) (i : Sec) (n : Nat) : Sound s (updateEcmdq s i n) := by
  unfold updateEcmdq
  split
  · exact .refl s
  · dsimp only
    generalize hu : s.setEcmdq i n _ = u
    have hsu : Sound s u := hu ▸ sound_setEcmdq s i n _
    refine hsu.trans (.ite (sound_setEcmdq _ _ _ _) (.ite (.refl _) (.ite (sound_setEcmdq _ _ _ _) (.ite (.refl _) ?_))))
    exact (sound_atcInvs _ _).trans (sound_setEcmdq _ _ _ _)

theorem sound_updateRoot (s : State) : Sound s (updateRoot s) := by
  unfold updateRoot
  dsimp only
  have h1 (s : State) : Sound s (rootTlbi s) := .ite (sound_caches _ _) (sound_caches _ _)
  have h2 (s : State) : Sound s (invAll s) := .ite (.refl s) (sound_caches _ _)
  generalize hu : (if s.root.tlbiCtrl.getLsbD 0 = true then rootTlbi s else s) = u
  have hsu : Sound s u := hu ▸ .ite (h1 s) (.refl s)
  generalize hv : (if u.sInit.getLsbD 0 = true then invAll u else u) = v
  have huv : Sound u v := hv ▸ .ite (h2 u) (.refl u)
  exact (hsu.trans huv).trans (.of_same rfl rfl rfl rfl rfl rfl rfl)

theorem sound_updateIface (s : State) (i : Sec) : Sound s (updateIface s i) := by
  unfold updateIface
  exact ((sound_updateCr s i).trans (sound_updateMisc _ i)).trans (.foldl _ (fun _ _ => sound_updateEcmdq _ _ _) _ _)

theorem sound_runUpdates (s : State) : Sound s (runUpdates s) := by
  unfold runUpdates
  dsimp only
  generalize hu : updateRoot (secs.foldl updateIface s) = u
  have h : Sound s u := hu ▸ (Sound.foldl _ (fun _ _ => sound_updateIface _ _) _ _).trans (sound_updateRoot _)
  exact h.trans (.of_same rfl rfl rfl rfl rfl rfl rfl)

/-! ## The world -/

theorem sound_takeTxn (s : State) (t : Txn) : Sound s (takeTxn s t) :=
  .of_takes ((takes_processTxn s _).trans (takes_noteRequest _ _ _ _))

theorem sound_takeNoSid (s : State) (t : NoSidTxn) : Sound s (takeNoSid s t) := by
  unfold takeNoSid
  dsimp only
  have h : Takes s (if s.sfm then s.respond t.tag .abort else processNoSid s t) :=
    .ite (takes_respond _ _ _) (.of_lookup (only_processNoSid _ _))
  exact .of_takes (h.trans (takes_noteRequest _ _ _ _))

theorem sound_takeTr (s : State) (r : AtsReq) : Sound s (takeTr s r) := by
  unfold takeTr
  dsimp only
  have h : Takes s (if s.sfm then s.send (.atsCompletion (.failed s.ids r .ca)) else processTr s r) :=
    .ite (takes_send _ _) (takes_processTr _ _)
  exact .of_takes (h.trans (takes_noteRequest _ _ _ _))

/-- Reset keeps what is fixed, keeps memory, and leaves no error active and nothing stalled. -/
theorem sound_takeReset (s : State) : Sound s (takeReset s) := by
  refine ⟨⟨rfl, rfl⟩, fun a => ⟨a.memory, ?_, ?_⟩⟩
  · intro i n h
    cases i <;> simp [takeReset, State.resetWith, State.iface, Iface.reset] at h
  · simp [StallsBounded, recordedStalls, takeReset, State.resetWith]

theorem sound_takeSfm (s : State) : Sound s (takeSfm s) := by
  unfold takeSfm
  refine .ite (.refl s) ?_
  dsimp only
  refine .trans (t := { s with sfm := true }) (.of_same rfl rfl rfl rfl rfl rfl rfl) ?_
  exact .trans (sound_raiseGerror _ _ _) (.ite (sound_raiseGerror _ _ _) (.refl _))

theorem sound_othersWrite (s : State) (pas : Pas) (a : DWord) (bs : List Byte) : Sound s (s.othersWrite pas a bs) :=
  .of_lookup (only_storeBytes _ _ _ _)

end Sys2Proof.Laws
end

