-- ==== Sys2Proof/Tests/Slice0.lean ====
section
/-! SUPPORT. Tests: the words of the spec's encodings, the smoke test of well-formedness, single steps with results taken from
the spec, and for each obligation with hypotheses a state and operands that meet them. -/

open Sys2Proof Sys2Proof.Machine Sys2Proof.Safety

namespace Sys2Proof.Tests

/-! ## Well-formedness and decoding -/

/-- CMD_CFGI_STE_RANGE with Range 31 is no command of its own but CMD_CFGI_ALL (41_cmd_cfgi.md R1880). -/
theorem test_wellFormed_refuses_range_31 : Instr.wellFormed (.cfgiSteRange false 0 31) = false := by decide

/-- Range 30 is well-formed. -/
theorem test_wellFormed_takes_range_30 : Instr.wellFormed (.cfgiSteRange false 0 30) = true := by decide

/-- 95_test_vectors.md V1 to V3: the words, written from the spec's encodings, decode to the commands they stand for. -/
theorem test_decode_prefetch :
    decodeWord 0x00000000000000000000002500003801#128 = .ok (.prefetchConfig false true 3 0x25) ∧
    decodeWord 0x00000000800030020000000800000002#128 = .ok (.prefetchAddr false false 0 8 2 0 false 0x80003) ∧
    decodeWord 0x00000000000000000000002500000401#128 = .ok (.prefetchConfig true false 0 0x25) := by
  decide

/-- The encoder gives those words. -/
theorem test_encode_prefetch :
    encode (.prefetchConfig false true 3 0x25) = 0x00000000000000000000002500003801#128 ∧
    encode (.prefetchAddr false false 0 8 2 0 false 0x80003) = 0x00000000800030020000000800000002#128 ∧
    encode (.prefetchConfig true false 0 0x25) = 0x00000000000000000000002500000401#128 := by
  decide

/-- 95_test_vectors.md V4 to V13: the words, written from the spec's encodings, decode to the commands they stand for. -/
theorem test_decode_cfgi :
    decodeWord 0x00000000000000010000010000000003#128 = .ok (.cfgiSte false 0x100 true) ∧
    decodeWord 0x00000000000000030000123400000004#128 = .ok (.cfgiSteRange false 0x1234 3) ∧
    decodeWord 0x000000000000001F0000DEAD00000004#128 = .ok (.cfgiAll false 0xDEAD) ∧
    decodeWord 0x00000000000000000000000700005005#128 = .ok (.cfgiCd false 5 7 false) ∧
    decodeWord 0x00000000000000000000000700000006#128 = .ok (.cfgiCdAll false 7) ∧
    decodeWord 0x00000000000000000000001200000007#128 = .ok (.cfgiVmsPidm false 0x12) ∧
    decodeWord 0x00000000000000000000000900000008#128 = .ok (.cfgiCit 9) ∧
    decodeWord 0x00000000000000440000000900000009#128 = .ok (.cfgiVsttVsid 9 0x44) ∧
    decodeWord 0x0000000000000000000000090000000A#128 = .ok (.cfgiVstt 9) := by
  decide

/-- The encoder gives those words. -/
theorem test_encode_cfgi :
    encode (.cfgiSte false 0x100 true) = 0x00000000000000010000010000000003#128 ∧
    encode (.cfgiSteRange false 0x1234 3) = 0x00000000000000030000123400000004#128 ∧
    encode (.cfgiAll false 0xDEAD) = 0x000000000000001F0000DEAD00000004#128 ∧
    encode (.cfgiCd false 5 7 false) = 0x00000000000000000000000700005005#128 ∧
    encode (.cfgiCdAll false 7) = 0x00000000000000000000000700000006#128 ∧
    encode (.cfgiVmsPidm false 0x12) = 0x00000000000000000000001200000007#128 ∧
    encode (.cfgiCit 9) = 0x00000000000000000000000900000008#128 ∧
    encode (.cfgiVsttVsid 9 0x44) = 0x00000000000000440000000900000009#128 ∧
    encode (.cfgiVstt 9) = 0x0000000000000000000000090000000A#128 := by
  decide

/-- 95_test_vectors.md V14 to V19: the words, written from the spec's encodings, decode to the commands they stand for. -/
theorem test_decode_tlbiNh :
    decodeWord 0x00000000000000000000000100000010#128 = .ok (.tlbiNhAll 1) ∧
    decodeWord 0x00000000000000000042000100000011#128 = .ok (.tlbiNhAsid 1 0x42) ∧
    decodeWord 0x00007FFF123450010042000100000012#128 = .ok (.tlbiNhVa 1 0x42 ⟨0, 0, false, 0, 0⟩ true 0x7FFF12345) ∧
    decodeWord 0x00000000000107010042000100103012#128 = .ok (.tlbiNhVa 1 0x42 ⟨3, 1, false, 3, 1⟩ true 0x10) ∧
    decodeWord 0xFFFF8000000010000000000100000013#128 = .ok (.tlbiNhVaa 1 ⟨0, 0, false, 0, 0⟩ false 0xFFFF800000001) := by
  decide

/-- The encoder gives those words. -/
theorem test_encode_tlbiNh :
    encode (.tlbiNhAll 1) = 0x00000000000000000000000100000010#128 ∧
    encode (.tlbiNhAsid 1 0x42) = 0x00000000000000000042000100000011#128 ∧
    encode (.tlbiNhVa 1 0x42 ⟨0, 0, false, 0, 0⟩ true 0x7FFF12345) = 0x00007FFF123450010042000100000012#128 ∧
    encode (.tlbiNhVa 1 0x42 ⟨3, 1, false, 3, 1⟩ true 0x10) = 0x00000000000107010042000100103012#128 ∧
    encode (.tlbiNhVaa 1 ⟨0, 0, false, 0, 0⟩ false 0xFFFF800000001) = 0xFFFF8000000010000000000100000013#128 := by
  decide

/-- 95_test_vectors.md V20 to V25: the words, written from the spec's encodings, decode to the commands they stand for. -/
theorem test_decode_tlbiEl2El3 :
    decodeWord 0x00000000000000000000000000000018#128 = .ok (.tlbiEl3All) ∧
    decodeWord 0x0000000040000001000000000000001A#128 = .ok (.tlbiEl3Va ⟨0, 0, false, 0, 0⟩ true 0x40000) ∧
    decodeWord 0x00000000000000000000000000000020#128 = .ok (.tlbiEl2All) ∧
    decodeWord 0x00000000000000000007000000000021#128 = .ok (.tlbiEl2Asid 7) ∧
    decodeWord 0x00000000000020010007000000000022#128 = .ok (.tlbiEl2Va 7 ⟨0, 0, false, 0, 0⟩ true 2) ∧
    decodeWord 0x00000000000020010000000000000023#128 = .ok (.tlbiEl2Vaa ⟨0, 0, false, 0, 0⟩ true 2) := by
  decide

/-- The encoder gives those words. -/
theorem test_encode_tlbiEl2El3 :
    encode (.tlbiEl3All) = 0x00000000000000000000000000000018#128 ∧
    encode (.tlbiEl3Va ⟨0, 0, false, 0, 0⟩ true 0x40000) = 0x0000000040000001000000000000001A#128 ∧
    encode (.tlbiEl2All) = 0x00000000000000000000000000000020#128 ∧
    encode (.tlbiEl2Asid 7) = 0x00000000000000000007000000000021#128 ∧
    encode (.tlbiEl2Va 7 ⟨0, 0, false, 0, 0⟩ true 2) = 0x00000000000020010007000000000022#128 ∧
    encode (.tlbiEl2Vaa ⟨0, 0, false, 0, 0⟩ true 2) = 0x00000000000020010000000000000023#128 := by
  decide

/-- 95_test_vectors.md V26 to V29: the words, written from the spec's encodings, decode to the commands they stand for. -/
theorem test_decode_tlbiStage2 :
    decodeWord 0x00000000000000000000000200000028#128 = .ok (.tlbiS12Vmall 2) ∧
    decodeWord 0x00000000000000000000000200000029#128 = .ok (.tlbiS2Vmallw 2) ∧
    decodeWord 0x0000000800000001000000020000002A#128 = .ok (.tlbiS2Ipa 2 ⟨0, 0, false, 0, 0⟩ true 0x800000) ∧
    decodeWord 0x00000000000000000000000000000030#128 = .ok (.tlbiNsnhAll) := by
  decide

/-- The encoder gives those words. -/
theorem test_encode_tlbiStage2 :
    encode (.tlbiS12Vmall 2) = 0x00000000000000000000000200000028#128 ∧
    encode (.tlbiS2Vmallw 2) = 0x00000000000000000000000200000029#128 ∧
    encode (.tlbiS2Ipa 2 ⟨0, 0, false, 0, 0⟩ true 0x800000) = 0x0000000800000001000000020000002A#128 ∧
    encode (.tlbiNsnhAll) = 0x00000000000000000000000000000030#128 := by
  decide

/-- 95_test_vectors.md V30 to V37: the words, written from the spec's encodings, decode to the commands they stand for. -/
theorem test_decode_tlbiSecure :
    decodeWord 0x00000000000000000000000000000050#128 = .ok (.tlbiSEl2All) ∧
    decodeWord 0x00000000000000000007000000000051#128 = .ok (.tlbiSEl2Asid 7) ∧
    decodeWord 0x00000000000020010007000000000052#128 = .ok (.tlbiSEl2Va 7 ⟨0, 0, false, 0, 0⟩ true 2) ∧
    decodeWord 0x00000000000020010000000000000053#128 = .ok (.tlbiSEl2Vaa ⟨0, 0, false, 0, 0⟩ true 2) ∧
    decodeWord 0x00000000000000000000000200000058#128 = .ok (.tlbiSS12Vmall 2) ∧
    decodeWord 0x00000000000000000000000200000059#128 = .ok (.tlbiSS2Vmallw 2) ∧
    decodeWord 0x0000000800000003000000020000005A#128 = .ok (.tlbiSS2Ipa 2 true ⟨0, 0, false, 0, 0⟩ true 0x800000) ∧
    decodeWord 0x00000000000000000000000000000060#128 = .ok (.tlbiSnhAll) := by
  decide

/-- The encoder gives those words. -/
theorem test_encode_tlbiSecure :
    encode (.tlbiSEl2All) = 0x00000000000000000000000000000050#128 ∧
    encode (.tlbiSEl2Asid 7) = 0x00000000000000000007000000000051#128 ∧
    encode (.tlbiSEl2Va 7 ⟨0, 0, false, 0, 0⟩ true 2) = 0x00000000000020010007000000000052#128 ∧
    encode (.tlbiSEl2Vaa ⟨0, 0, false, 0, 0⟩ true 2) = 0x00000000000020010000000000000053#128 ∧
    encode (.tlbiSS12Vmall 2) = 0x00000000000000000000000200000058#128 ∧
    encode (.tlbiSS2Vmallw 2) = 0x00000000000000000000000200000059#128 ∧
    encode (.tlbiSS2Ipa 2 true ⟨0, 0, false, 0, 0⟩ true 0x800000) = 0x0000000800000003000000020000005A#128 ∧
    encode (.tlbiSnhAll) = 0x00000000000000000000000000000060#128 := by
  decide

/-- 95_test_vectors.md V38 to V41: the words, written from the spec's encodings, decode to the commands they stand for. -/
theorem test_decode_atsPri :
    decodeWord 0x00000000400000000000030000002A40#128 = .ok (.atcInv true true 2 0x300 0 0x40000) ∧
    decodeWord 0x00000000000000340000030000000040#128 = .ok (.atcInv false false 0 0x300 0x34 0) ∧
    decodeWord 0x000000000000201F0000030000000041#128 = .ok (.priResp false 0 0x300 0x1F 2) := by
  decide

/-- The encoder gives those words. -/
theorem test_encode_atsPri :
    encode (.atcInv true true 2 0x300 0 0x40000) = 0x00000000400000000000030000002A40#128 ∧
    encode (.atcInv false false 0 0x300 0x34 0) = 0x00000000000000340000030000000040#128 ∧
    encode (.priResp false 0 0x300 0x1F 2) = 0x000000000000201F0000030000000041#128 := by
  decide

/-- 95_test_vectors.md V43 to V48: the words, written from the spec's encodings, decode to the commands they stand for. -/
theorem test_decode_faultSync :
    decodeWord 0x00000000000000170000000500001044#128 = .ok (.resume false true false 5 0x17) ∧
    decodeWord 0x00000000000000170000000500002044#128 = .ok (.resume false false true 5 0x17) ∧
    decodeWord 0x00000000000000000000000500000045#128 = .ok (.stallTerm false 5) ∧
    decodeWord 0x00000000000000000000000000000046#128 = .ok (.sync 0 0 0 0 0 false) ∧
    decodeWord 0x0000000080001000CAFE00010F801046#128 = .ok (.sync 1 2 0xF 0xCAFE0001 0x20000400 false) := by
  decide

/-- The encoder gives those words. -/
theorem test_encode_faultSync :
    encode (.resume false true false 5 0x17) = 0x00000000000000170000000500001044#128 ∧
    encode (.resume false false true 5 0x17) = 0x00000000000000170000000500002044#128 ∧
    encode (.stallTerm false 5) = 0x00000000000000000000000500000045#128 ∧
    encode (.sync 0 0 0 0 0 false) = 0x00000000000000000000000000000046#128 ∧
    encode (.sync 1 2 0xF 0xCAFE0001 0x20000400 false) = 0x0000000080001000CAFE00010F801046#128 := by
  decide

/-- 95_test_vectors.md V51 to V52: the words, written from the spec's encodings, decode to the commands they stand for. -/
theorem test_decode_dpt :
    decodeWord 0x00000000000000000000000000000070#128 = .ok (.dptiAll) ∧
    decodeWord 0x00000000802003010000000000000073#128 = .ok (.dptiPa true 3 0x80200) := by
  decide

/-- The encoder gives those words. -/
theorem test_encode_dpt :
    encode (.dptiAll) = 0x00000000000000000000000000000070#128 ∧
    encode (.dptiPa true 3 0x80200) = 0x00000000802003010000000000000073#128 := by
  decide

/-- 95_test_vectors.md V54 to V59: Reserved and IMPLEMENTATION DEFINED opcodes are no commands. -/
theorem test_decode_refuses_reserved_opcodes :
    decodeWord 0x00#128 = .error (.reservedOpcode 0x00) ∧ decodeWord 0x0B#128 = .error (.reservedOpcode 0x0B) ∧
    decodeWord 0x14#128 = .error (.reservedOpcode 0x14) ∧ decodeWord 0x43#128 = .error (.reservedOpcode 0x43) ∧
    decodeWord 0x80#128 = .error (.implementationDefined 0x80) ∧ decodeWord 0xFF#128 = .error (.reservedOpcode 0xFF) := by
  decide

/-- The bytes of a command lie little-endian in memory (30_encoding.md R1800): CMD_TLBI_NH_ASID of VMID 1 and ASID 0x42. -/
theorem test_decode_bytes :
    decode [0x11, 0, 0, 0, 1, 0, 0x42, 0, 0, 0, 0, 0, 0, 0, 0, 0] = .ok (.tlbiNhAsid 1 0x42) := by
  decide

/-- A table word with fewer bits than a command has zeros above them. -/
theorem test_decodeTableWord : decodeTableWord 64 0x0042000100000011 = some (.tlbiNhAsid 1 0x42) := by decide

/-! ## States for the witnesses -/

/-- An interface with everything enabled, a Stream table of 16 StreamID bits, and one command in a Command queue of 8. -/
def onIface (r : Iface) : Iface :=
  { r with cr0 := 0x80F, cr0ack := 0x80F, strtabCfg := 16, cmdq := { base := 0x1003, prod := 1, cons := 0 } }

/-- A valid STE with stage 2 translation: VMID 1, table at 0x80010000 (95_test_vectors.md, program P5). -/
def stage2Ste : BitVec 512 := 0x0000000080010000042A3560000000010000100000000000000000000000000D#512

/-- A Non-secure DCMDQ, enabled, with vSID translation and one command at IPA 0x40000000. -/
def directQueue : Ecmdq := ⟨0xA000000040000003, 0x80000001, 0x80000000, true, true, false⟩

/-- A machine in use: all interfaces enabled, no granule protection checks, a DCMDQ whose qSID 0xF000 is cached with stage 2
translation, a table that maps 1GB at IPA 0x40000000 to 0xC0000000, and a CITE and VSTTEs of that qSID. -/
def base : State :=
  { State.reset with
    ns := { onIface State.reset.ns with ecmdqs := [directQueue, ⟨0x3003, 0x80000001, 0x80000000, false, false, false⟩] }
    sec := onIface State.reset.sec
    rlm := onIface State.reset.rlm
    root := { State.reset.root with cr0 := 1, cr0ack := 1 }
    mem := [(.ns, 0x80010008, natBytes 8 0xC00007FD), (.ns, 0xC0000000, natBytes 16 0x46)].foldl
      (fun m (x : Pas × DWord × List Byte) => m.store x.1 x.2.1 x.2.2) []
    caches := { Caches.empty with
      stes := [⟨.ns, 0xF000, 0, 0, true, stage2Ste⟩]
      cites := [⟨.ns, 0xF000, 0, 0, 0x4000000000000001⟩]
      vsttes := [⟨.ns, 0xF000, 0, 5, 0x0000000700000001⟩, ⟨.ns, 0xF000, 0, 6, 0⟩] } }

/-- The machine while it runs a command of a queue. -/
def on (q : QueueId) : State := { base with cur := q }

/-- The same after reset, with nothing enabled. -/
def off (q : QueueId) : State := { State.reset with cur := q }

/-- With other identification registers. -/
def withIds (s : State) (f : Ids → Ids) : State := { s with ids := f s.ids }

/-- An SMMU without RME. -/
def noRme (d : Ids) : Ids := { d with idr0 := d.idr0 &&& 0xBFFFFFFF#32 }

/-- With SMMU_CR2.E2H and SMMU_(S_, R_)CR2.E2H set. -/
def withE2h (s : State) : State :=
  { s with ns := { s.ns with cr2 := 1 }, sec := { s.sec with cr2 := 1 }, rlm := { s.rlm with cr2 := 1 } }

/-- No range. -/
def rg0 : TlbiRange := ⟨0, 0, false, 0, 0⟩

/-- A range of two 4KB granules. -/
def rg4k : TlbiRange := ⟨1, 0, false, 0, 1⟩

/-- A range of two 64KB granules at level 3. -/
def rg64k : TlbiRange := ⟨1, 0, false, 3, 3⟩

/-- A 4KB read of stream 7. -/
def txn (sec : Sec) (addr : DWord) (kind : TxnKind) : Txn where
  tag := 9
  sec := sec
  sid := 7
  ssid := none
  addr := addr
  kind := kind
  instr := none
  priv := none
  nsAttr := none
  xt := false
  mt := none
  sh := none
  hints := none
  translated := false
  pcie := false
  noSnoop := false
  speculative := false
  pm := false
  mecid := 0
  data := [0x11, 0x22]
  len := 2

/-- A stalled read of stream 7. -/
def stall : Stall := ⟨3, .txn (txn .ns 0x1000 .read), true⟩

/-- The machine with that stalled transaction, running a command of the Non-secure queue. -/
def stalled : State := { on (.main .ns) with stalls := [stall] }

/-- The address, the PA space and the origin of a DCMDQ's access that translates. -/
def directOut : DcmdqOut → Option (DWord × Pas × AccFrom)
  | .done a p _ o => some (a, p, o)
  | _ => none

/-! ## Hypotheses that states meet -/

theorem test_hyps_DecodeOfEncode : (Instr.cfgiSteRange true 0xFFFFFFFF 30).wellFormed = true := by decide

theorem test_hyps_OpcodesOfCommands : ∀ i, decodeWord 0#128 ≠ .ok i := by
  intro i h
  have : decodeWord 0#128 = .error (.reservedOpcode 0) := by decide
  rw [this] at h
  cases h

/-- The state in which the next step runs CMD_SYNC, and its hypotheses. -/
theorem test_hyps_StepRunsTheCommand_main : let s := State.reset.withFetchWord 128 0x46
    nextInput s = none ∧ pickJob { s with outputs := [], reqMpam := none } = some (.queue (.main .ns), 0) ∧
      s.queueRegs (.main .ns) = some ⟨0, 1, 0⟩ ∧
      (∃ u, smmuRead { s with outputs := [], reqMpam := none, turn := 1, cur := .main .ns } (s.cmdqAcc (.main .ns)) .ns
        (s.entryAt 0 (cmdqLog2 s 0) 4 0) 16 .cmdq = (.ok 0x46, u) ∧ u.impl.cmdRes0Checked = false ∧
        res0Set u (.sync 0 0 0 0 0 false) = false) ∧
      decodeWord (BitVec.ofNat 128 0x46) = .ok (.sync 0 0 0 0 0 false) := by
  refine ⟨by decide, by decide, by decide, ⟨_, Prod.ext (by decide) rfl, by decide, by decide⟩, by decide⟩

/-- A machine after reset has nothing to do. -/
theorem test_hyps_StepRunsTheCommand_idle :
    nextInput State.reset = none ∧ pickJob { State.reset with outputs := [], reqMpam := none } = none := by
  decide

/-- The same for a DCMDQ, whose command at IPA 0x40000000 is at 0xC0000000. -/
theorem test_hyps_StepRunsTheCommand_dcmdq : let s := { base with turn := 13 }
    nextInput s = none ∧ pickJob { s with outputs := [], reqMpam := none } = some (.queue (.dcmdq .ns 0), 13) ∧
      s.queueRegs (.dcmdq .ns 0) = some ⟨directQueue.base, directQueue.prod, directQueue.cons⟩ ∧
      let x := dcmdqTranslate { s with outputs := [], reqMpam := none, turn := 14, cur := .dcmdq .ns 0 } .ns 0
        (entryAddr directQueue.base (cmdqLog2 s directQueue.base) 4 directQueue.cons) false (dcmdqFetchAttrs directQueue.base)
      (directOut x.1).any (fun p => p.1 == 0xC0000000 && p.2.1 == .ns &&
        decide ((smmuRead x.2 p.2.2 .ns 0xC0000000 16 .dcmdq).1 = .ok 0x46) &&
        !(smmuRead x.2 p.2.2 .ns 0xC0000000 16 .dcmdq).2.impl.cmdRes0Checked) = true := by
  decide +kernel

theorem test_hyps_TlbiNhByVmidAndAsid :
    (on (.main .ns)).ids.s1p = true ∧ (on (.main .ns)).cur.isDirect = false ∧ (on (.ecmdq .s 3)).cur.isDirect = false := by
  decide

theorem test_hyps_TlbiNhByAddress :
    (on (.main .rl)).ids.s1p = true ∧ (on (.main .rl)).cur.isDirect = false ∧
    rangeIll (on (.main .rl)).ids rg0 = false ∧ rangeIll (on (.main .rl)).ids rg4k = false := by
  decide

theorem test_hyps_TlbiNhOnDcmdq : let s := on (.dcmdq .ns 0)
    s.cur = .dcmdq .ns 0 ∧ s.ids.s1p = true ∧ s.smmuEn .ns = true ∧
    (lookupSte s.takeFree.2 .ns (qsidOf s.ids .ns 0) true).1 = .ok stage2Ste ∧ s2vmidIgnored s.ids .ns stage2Ste = false ∧
    rangeIll s.ids rg64k = false ∧ (on (.dcmdq .s 0)).ids.s1p = true := by
  decide +kernel

theorem test_hyps_TlbiEl3 : let s := withIds (on (.main .s)) noRme
    s.cur.sec = .s ∧ s.cur.isDirect = false ∧ s.ids.rmeImpl = false ∧ s.ids.s1p = true ∧ queueAccepts s .tlbi = true ∧
    rangeIll s.ids rg4k = false := by
  decide

theorem test_hyps_TlbiEl2 : let s := on (.main .ns)
    s.ids.hyp = true ∧ s.ids.s1p = true ∧ s.cur.isDirect = false ∧ queueAccepts s .tlbi = true ∧
    rangeIll s.ids rg0 = false ∧ (s.iface (el2Sec s)).e2hUnknown = false ∧ s.e2h (el2Sec s) = false ∧
    (withE2h s).e2h (el2Sec s) = true := by
  decide

theorem test_hyps_TlbiEl2_realm : let s := withE2h (on (.main .rl))
    s.ids.hyp = true ∧ s.ids.s1p = true ∧ s.cur.isDirect = false ∧ queueAccepts s .tlbi = true ∧
    rangeIll s.ids rg4k = false ∧ (s.iface (el2Sec s)).e2hUnknown = false ∧ s.e2h (el2Sec s) = true := by
  decide

theorem test_hyps_TlbiSecureEl2 : let s := on (.main .s)
    s.cur.sec = .s ∧ s.ids.sel2 = true ∧ s.ids.s1p = true ∧ s.cur.isDirect = false ∧ queueAccepts s .tlbi = true ∧
    rangeIll s.ids rg0 = false ∧ s.sec.e2hUnknown = false ∧ s.e2h .s = false ∧ (withE2h s).e2h .s = true := by
  decide

/-- `s` with E2H of each interface written while SMMUEN is zero, so that the one in effect is UNKNOWN. -/
def e2hWritten (s : State) : State := writeReg (writeReg (writeReg s .ns .cr2 1) .s .cr2 1) .rl .cr2 1

theorem test_hyps_TlbiEl2WhileE2hUnknown : let s := e2hWritten (off (.main .s))
    s.ids.s1p = true ∧ s.cur.isDirect = false ∧ queueAccepts s .tlbi = true ∧ rangeIll s.ids rg4k = false ∧
    s.ids.hyp = true ∧ (s.iface (el2Sec s)).e2hUnknown = true ∧ s.ids.sel2 = true ∧ s.cur.sec = .s ∧ s.sec.e2hUnknown = true := by
  decide

theorem test_hyps_TlbiEl2WhileE2hUnknown_update : let s := { off (.main .ns) with ns := { (off (.main .ns)).ns with cr0 := 1 } }
    (s.iface .ns).cr0.getLsbD 0 = true ∧ (s.iface .ns).cr0ack.getLsbD 0 = false ∧ crZero (s.iface .ns) 0 = false := by
  decide

theorem test_hyps_TlbiStage2 : let s := on (.ecmdq .ns 1)
    s.ids.s2p = true ∧ s.cur.isDirect = false ∧ queueAccepts s .tlbi = true ∧ rangeIll s.ids rg64k = false := by
  decide

theorem test_hyps_TlbiSecureStage2 : let s := on (.main .s)
    s.cur.sec = .s ∧ s.ids.stage2Of .s = true ∧ s.cur.isDirect = false ∧ queueAccepts s .tlbi = true ∧
    rangeIll s.ids rg0 = false := by
  decide

theorem test_hyps_TlbiDirtyState : let s := on (.main .s)
    s.ids.tlbiw = true ∧ s.cur.isDirect = false ∧ queueAccepts s .tlbi = true ∧ s.ids.s2p = true ∧ s.cur.sec = .s ∧
    s.ids.stage2Of .s = true := by
  decide

theorem test_hyps_TlbiAllOfARegime : let s := on (.main .s)
    s.cur.isDirect = false ∧ queueAccepts s .tlbiNsnh = true ∧ s.cur.sec = .s ∧ s.ids.sel2 = true ∧
    queueAccepts s .tlbi = true := by
  decide

theorem test_hyps_VmidOperand : let s := withIds (on (.main .ns)) fun d => { d with idr0 := d.idr0 &&& 0xFFF9FFFF#32 }
    s.ids.vmid16 = false ∧ 2 ^ 8 ≤ (256#16).toNat ∧ (255#16).toNat < 2 ^ 8 ∧ (on (.main .ns)).ids.vmid16 = true ∧
    s.ids.vmwImpl = false := by
  decide

theorem test_hyps_AddressOperand :
    rangeUsed State.reset.ids rg0 = false ∧ rangeUsed State.reset.ids rg4k = true ∧ rangeUsed State.reset.ids rg64k = true ∧
    ttlOf State.reset.ids rg4k = 0 ∧ ttlOf State.reset.ids rg64k ≠ 0 := by
  decide

theorem test_hyps_CfgiSte : let s := on (.main .ns)
    targetSec s false = some .ns ∧ s.cur.isDirect = false ∧ queueAccepts s .cfgi = true ∧
    sidInRange s .ns 0xFFFF = true ∧ sidInRange s .ns 0x10000 = false := by
  decide

theorem test_hyps_CfgiSte_range : let s := on (.main .s)
    (30#5 : BitVec 5) ≠ 31#5 ∧ (0#5 : BitVec 5) ≠ 31#5 ∧ targetSec s true = some .s ∧ s.cur.isDirect = false ∧
    queueAccepts s .cfgi = true := by
  decide

/-- An event of a Non-secure stream whose queue takes it, and the steps of a Non-secure stream's requests. -/
theorem test_hyps_EventQueuesAreIndependent :
    let ev : EvTxn := ⟨.ns, 7, none, 0x1000, false, false, false, false, false, false⟩
    let u := (base.recordOf ev .badStreamid).2
    Sec.s ≠ ev.sec ∧ u.eventqWritable ev.sec = true ∧
    (smmuWrite u (u.ownAcc ev.sec .eventq) ev.sec.pas (u.entryAt (base.iface ev.sec).eventq.base
      (queueLog2 (base.iface ev.sec).eventq.base base.ids.eventqs) 5 (base.iface ev.sec).eventq.prod)
      (natBytes 32 (base.recordOf ev .badStreamid).1.toNat) .eventq).1 = none ∧
    Sec.rl ≠ (Stalled.txn (txn .ns 0x1000 .read)).sec ∧
    nextInput { base with inputs := [.txn (txn .ns 0x1000 .read)] } = some (.txn (txn .ns 0x1000 .read), []) := by
  refine ⟨by decide, by decide, rfl, by decide, rfl⟩

theorem test_hyps_CfgiAll : let s := on (.main .s)
    targetSec s false = some .ns ∧ s.cur.isDirect = false ∧ queueAccepts s .cfgi = true ∧ s.ids.dcmdq .ns = true := by
  decide

/-- SubstreamIDs of 16 bits, to have SubstreamIDs out of range. -/
theorem test_hyps_CfgiCds : let s := withIds (on (.main .rl)) fun d => { d with idr1 := 0x8E739C10#32 }
    targetSec s false = some .rl ∧ s.cur.isDirect = false ∧ queueAccepts s .cfgi = true ∧ s.ids.s1p = true ∧
    sidInRange s .rl 0xFFFF = true ∧ sidInRange s .rl 0x10000 = false ∧ ssidInRange s 0xFFFF = true ∧
    ssidInRange s 0x10000 = false := by
  decide

theorem test_hyps_CfgiVmsPidm : let s := on (.main .ns)
    targetSec s false = some .ns ∧ s.cur.isDirect = false ∧ queueAccepts s .cfgi = true ∧ s.ids.mpamOf .ns = true ∧
    vmsSupported s.ids .ns = true := by
  decide

theorem test_hyps_CfgiVsid : let s := on (.main .ns)
    s.ids.vsid s.cur.sec = true ∧ s.cur.isDirect = false ∧ queueAccepts s .cfgi = true ∧
    sidInRange s s.cur.sec 0xFFFF = true ∧ sidInRange s s.cur.sec 0x10000 = false ∧
    (0xFFFF#16).toNat < 2 ^ s.ids.vsidSize s.cur.sec := by
  decide

theorem test_hyps_Dpti : let s := on (.main .ns)
    dptiIll s = false ∧ dptiIll (on (.main .rl)) = false ∧ dptiSize 3 = some 21 ∧
    (s.truncOas (paOf s.ids 0x80200)).toNat % 2 ^ 21 = 0 := by
  decide

theorem test_hyps_AtcInv : let s := on (.main .ns)
    s.cur.isDirect = false ∧ atcIll s = false ∧ (52#6).toNat ≤ 52 ∧ s.impl.systemAts = true ∧ s.smmuEn s.cur.sec = true ∧
    sidInRange s (atsSec s) 0xFFFF = true ∧ s.ids.ssidSize ≠ 0 ∧ ssidInRange s 0xFFFFF = true ∧
    sidInRange s (atsSec s) 0x10000 = false ∧ atcIll (off (.main .rl)) = false ∧ (off (.main .rl)).smmuEn .rl = false := by
  decide

theorem test_hyps_PriResp : let s := on (.main .rl)
    s.cur.isDirect = false ∧ priIll s = false ∧ (2#2 : BitVec 2) ≠ 3 ∧ s.impl.systemPri = true ∧ s.smmuEn s.cur.sec = true ∧
    sidInRange s (atsSec s) 0xFFFF = true ∧ sidInRange s (atsSec s) 0x10000 = false := by
  decide

/-- vSID 5 is pSID 7, vSID 6 has no valid VSTTE, and with SMMU_CR0.VSIDEN zero the translation fails. -/
theorem test_hyps_VirtualStreamOperand : let s := on (.dcmdq .ns 0)
    let t := { s with ns := { s.ns with cr0ack := 0xF } }
    s.smmuEn .ns = true ∧ (off (.dcmdq .ns 0)).smmuEn .ns = false ∧ vsidOn s .ns 0 = true ∧ (vsidTranslate s .ns 0 5).1 = .psid 7 ∧ (vsidTranslate s .ns 0 6).1 = .ignored ∧
    (vsidTranslate s .ns 0 0x10000).1 = .ignored ∧ vsidOn t .ns 0 = true ∧
    (vsidTranslate t .ns 0 5).1 = .failed .sidConfig ∧
    atcIll s = false ∧ atsIgnored s = false ∧ (52#6).toNat ≤ 52 ∧ priIll s = false ∧ priIgnored s = false ∧
    respCode 2 = some .success ∧ (on (.dcmdq .s 0)).cur = .dcmdq .s 0 ∧ vsidOn s .ns 1 = false := by
  decide +kernel

theorem test_hyps_Prefetch : let s := on (.main .s)
    targetSec s true = some .s ∧ targetSec s false = some .ns ∧ s.cur.isDirect = false ∧ s.smmuEn .s = true ∧
    sidInRange s .s 0xFFFF = true ∧ sidInRange s .s 0x10000 = false ∧ (off (.main .ns)).smmuEn .ns = false := by
  decide

theorem test_hyps_Resume :
    targetSec stalled false = some .ns ∧ stallIll stalled = false ∧
    stalled.stalls.find? (fun x => x.recorded && x.of .ns 7 && x.stag == 3) = some stall ∧
    (∀ x ∈ stalled.stalls, ¬(x.recorded = true ∧ x.of .ns 7 = true ∧ x.stag = 4)) ∧
    (∀ x ∈ stalled.stalls, x.of .ns 7 = true → x.recorded = true) := by
  decide

/-- A stalled access of a DCMDQ. -/
theorem test_hyps_ResumeOfADcmdq : let x : Stall := ⟨4, .dcmdq .ns 0 0xF000, true⟩
    let s := { on (.main .ns) with stalls := [x] }
    stallIll s = false ∧ s.stalls.find? (fun x => x.recorded && x.of .ns 0xF000 && x.stag == 4) = some x ∧
    s.ecmdqAt .ns 0 = some directQueue ∧ directQueue.dcEnabled = true ∧ directQueue.hsErrActive = false := by
  decide

/-- The Stream table is empty, so that stream 7 has no valid STE; stream 0xF000 has one that translates. -/
theorem test_hyps_StallTerm :
    targetSec stalled false = some .ns ∧ stallIll stalled = false ∧ (steTerminates stalled .ns 7).1 = true ∧
    (steTerminates stalled .ns 0xF000).1 = false := by
  decide +kernel

theorem test_hyps_SyncCompletes : let s := on (.main .ns)
    (∀ a ∈ s.atcInvs, a.queue ≠ s.cur) ∧ msiPending s = false ∧ msiPending (on (.dcmdq .ns 0)) = false := by
  decide

theorem test_hyps_SyncInterrupt : let s := on (.main .ns)
    let t := { s with aborts := [(0x1000, 4)] }
    s.cur.isDirect = false ∧ (∀ a ∈ s.atcInvs, a.queue ≠ s.cur) ∧ s.impl.wiredInterrupts = true ∧ s.ids.msi s.cur.sec = true ∧
    msiAddrOf s.ids 0x400 ≠ 0 ∧ msiAddrOf s.ids 0 = 0 ∧
    let o := { s.ownAcc s.cur.sec .msiCmdq with type := (msiAttrs 0 0).mt }
    (smmuWrite s o (syncPas s.cur.sec true) (s.truncOas (msiAddrOf s.ids 0x400)) (natBytes 4 7) .msiCmdq).1 = none ∧
    (smmuWrite t o (syncPas s.cur.sec true) (s.truncOas (msiAddrOf s.ids 0x400)) (natBytes 4 7) .msiCmdq).1 = some .eabt := by
  decide

/-- IPA 0x40001000 is mapped to 0xC0001000; IPA 0 is not mapped. -/
theorem test_hyps_SyncOnDcmdq : let s := on (.dcmdq .ns 0)
    let x := dcmdqTranslate s .ns 0 (msiAddrOf s.ids 0x10000400) true (msiAttrs 0 0)
    (∀ a ∈ s.atcInvs, a.queue ≠ s.cur) ∧ msiPending s = false ∧ s.ids.msi .ns = true ∧ msiAddrOf s.ids 0x10000400 ≠ 0 ∧
    msiPending (s.setEcmdq .ns 0 fun e => { e with msiAborted := true }) = true ∧
    (directOut x.1).any (fun p => p.1 == 0xC0001000 && p.2.1 == .ns &&
      !(sendMsi x.2 p.2.2 .ns 0xC0001000 5 (msiAttrs 0 0) (.dcmdq .ns 0xF000) .msiCmdq).1 &&
      (sendMsi { x.2 with aborts := [(0xC0001000, 4)] } p.2.2 .ns 0xC0001000 5 (msiAttrs 0 0) (.dcmdq .ns 0xF000) .msiCmdq).1) = true ∧
    (dcmdqTranslate s .ns 0 (msiAddrOf s.ids 0x400) true (msiAttrs 0 0)).1 = .failed := by
  decide +kernel

/-- The STE of the queue StreamID is used as it is, with stage 2 faults stalling: S2S one. -/
theorem test_hyps_StalledDcmdq :
    let s := { on (.dcmdq .ns 0) with
      impl := { Impl.reset with dcmdqSte := .asIs }
      caches := { base.caches with stes := [⟨.ns, 0xF000, 0, 0, true, stage2Ste ||| (1 <<< 185)⟩] } }
    (dcmdqTranslate s .ns 0 (msiAddrOf s.ids 0x400) true (msiAttrs 0 0)).1 = .stalled ∧
    (dcmdqTranslate s .ns 0 0x400 false (dcmdqFetchAttrs directQueue.base)).1 = .stalled := by
  decide +kernel

theorem test_hyps_SyncAndAtcInv : let s := { on (.main .ns) with atcInvs := [⟨0, .main .ns, false⟩] }
    let t := { on (.main .ns) with atcInvs := [⟨0, .main .ns, false⟩, ⟨1, .main .ns, true⟩] }
    (1#2 : BitVec 2) ≠ 3 ∧ msiPending s = false ∧ (∃ a ∈ s.atcInvs, a.queue = s.cur) ∧
    (∀ a ∈ s.atcInvs, a.queue = s.cur → a.timedOut = false) ∧ msiPending t = false ∧
    (∃ a ∈ t.atcInvs, a.queue = t.cur ∧ a.timedOut = true) := by
  decide

theorem test_hyps_SecureCommandsNeedSecureQueue :
    (on (.main .rl)).cur.sec ≠ .s ∧ (on (.main .s)).cur.sec = .s ∧ (on (.ecmdq .ns 1)).cur.sec = .ns := by
  decide

/-- A DCMDQ, and Restricted ECMDQs of two Security states that advertise no command. -/
theorem test_hyps_CommandsIllegalOnDcmdq :
    let d (s : State) := withIds s fun d => { d with idr2 := 0x01000000#32, sIdr2 := 0x01000001#32 }
    (on (.dcmdq .rl 2)).cur.isDirect = true ∧
    (d (on (.ecmdq .ns 1))).cur = .ecmdq .ns 1 ∧ (d (on (.ecmdq .ns 1))).ids.recmdq .ns = true ∧
    (∀ k ∈ [26, 27, 28, 29, 30, 31], ((d (on (.ecmdq .ns 1))).ids.idr2Of .ns).getLsbD k = false) ∧
    (d (on (.ecmdq .s 0))).cur = .ecmdq .s 0 ∧ (d (on (.ecmdq .s 0))).ids.recmdq .s = true ∧
    (∀ k ∈ [26, 27, 28, 29, 30, 31], ((d (on (.ecmdq .s 0))).ids.idr2Of .s).getLsbD k = false) := by
  decide

theorem test_hyps_ReservedParameters : let s := on (.main .ns)
    let rg : TlbiRange := ⟨0, 0, false, 0, 1⟩
    s.ids.ril = true ∧ rg.tg ≠ 0 ∧ rg.num = 0 ∧ scaleOf s.ids rg = 0 ∧ ttlOf s.ids rg = 0 ∧ 52 < (53#6).toNat := by
  decide

/-- Each feature of the obligation taken from the reset machine. -/
theorem test_hyps_MissingFeatures :
    (withIds (on (.main .ns)) fun d => { d with idr0 := 0 }).ids.s1p = false ∧
    (withIds (on (.main .ns)) fun d => { d with idr0 := 0 }).ids.s2p = false ∧
    (withIds (on (.main .ns)) fun d => { d with idr0 := 0 }).ids.hyp = false ∧
    (withIds (on (.main .s)) fun d => { d with sIdr1 := 0x80000010 }).ids.sel2 = false ∧
    (withIds (on (.main .s)) fun d => { d with sIdr1 := 0x80000010 }).ids.stage2Of .s = false ∧
    (withIds (on (.main .ns)) fun d => { d with idr3 := 0 }).ids.tlbiw = false ∧
    (on (.main .s)).ids.rmeImpl = true ∧
    (∀ i, targetSec (on (.main .ns)) false = some i → (withIds (on (.main .ns)) fun d => { d with idr3 := 0 }).ids.mpamOf i = false) ∧
    (on (.main .ns)).ids.mpamOf .ns = true ∧
    vmsSupported (withIds (on (.main .ns)) fun d => { d with idr0 := 0 }).ids .ns = false ∧
    (on (.main .s)).ids.vsid (on (.main .s)).cur.sec = false ∧
    (withIds (on (.main .ns)) fun d => { d with idr3 := 0 }).ids.dpt .ns = false ∧
    (withIds (on (.main .rl)) fun d => { d with rIdr0 := 0 }).ids.atsOf .rl = false ∧
    (withIds (on (.main .ns)) fun d => { d with idr0 := 0 }).ids.ats = false ∧
    (withIds (on (.main .s)) fun d => { d with sIdr3 := 0x40 }).ids.sams = true ∧
    (withIds (on (.main .rl)) fun d => { d with rIdr0 := 0 }).ids.priOf .rl = false ∧
    (withIds (on (.main .ns)) fun d => { d with idr0 := 0 }).ids.pri = false ∧
    (withIds (on (.main .ns)) fun d => { d with sIdr0 := 0x81002000 }).stallModel .ns = 1 ∧
    (on (.main .rl)).cur.sec = .rl := by
  decide

theorem test_hyps_CommandErrorOfTheQueue : (on (.main .rl)).cur = .main .rl := by decide

theorem test_hyps_CommandErrorOfAnEcmdq : let s := on (.ecmdq .ns 1)
    s.cur = .ecmdq .ns 1 ∧ s.ecmdqAt .ns 1 = some ⟨0x3003, 0x80000001, 0x80000000, false, false, false⟩ ∧
    gerrPresent s.ids .ns .cmdqp = true ∧
    (⟨0x3003, 0x80000001, 0x80000000, false, false, false⟩ : Ecmdq).errActive = false := by
  decide

theorem test_hyps_ErrorsOfADcmdq : let s := on (.dcmdq .ns 0)
    s.cur = .dcmdq .ns 0 ∧ s.ecmdqAt .ns 0 = some directQueue ∧ directQueue.errActive = false ∧
    directQueue.hsErrActive = false := by
  decide

theorem test_hyps_FetchErrors : let s := { on (.main .ns) with aborts := [(0x1000, 16)] }
    let t := { on (.main .ns) with impl := { Impl.reset with cmdRes0Checked := true } }
    (QueueId.main .ns).isDirect = false ∧ s.queueRegs (.main .ns) = some ⟨0x1003, 1, 0⟩ ∧
    (smmuRead { s with cur := .main .ns } (s.cmdqAcc (.main .ns)) .ns (s.entryAt 0x1003 (cmdqLog2 s 0x1003) 4 0) 16 .cmdq).1 =
      .error .eabt ∧
    decodeWord 0x0B#128 = .error (.reservedOpcode 0x0B) ∧
    decodeWord 0x80000046#128 = .ok (.sync 0 0 0 0 0 false) ∧ t.impl.cmdRes0Checked = true ∧
    encode (.sync 0 0 0 0 0 false) ≠ 0x80000046#128 ∧ decodeWord 0x46#128 = .ok (.sync 0 0 0 0 0 false) ∧
    encode (.sync 0 0 0 0 0 false) = 0x46#128 := by
  decide

/-- Fields that are RES0 where the command is: MSI_NS of CMD_SYNC on the Non-secure queue. -/
theorem test_hyps_FetchErrors_conditional :
    res0Set (on (.main .ns)) (.sync 0 0 0 0 0 true) = true ∧ res0Set (on (.main .ns)) (.sync 0 0 0 0 0 false) = false := by
  decide

/-- The fetches of a DCMDQ: at IPA 0 the translation fails, at IPA 0x40000000 the access may abort. -/
theorem test_hyps_FetchErrors_dcmdq : let s := { base with cur := .dcmdq .ns 0 }
    let x := dcmdqTranslate s .ns 0 0x40000000 false (dcmdqFetchAttrs directQueue.base)
    entryAddr directQueue.base (cmdqLog2 s directQueue.base) 4 directQueue.cons = 0x40000000 ∧
    (dcmdqTranslate { s with caches := .empty } .ns 0 0x40000000 false (dcmdqFetchAttrs directQueue.base)).1 = .failed ∧
    (directOut x.1).any (fun p =>
      decide ((smmuRead { x.2 with aborts := [(0xC0000000, 16)] } p.2.2 .ns 0xC0000000 16 .dcmdq).1 = .error .eabt)) = true := by
  decide +kernel

/-- A Non-secure Command queue with a command and an active CMDQ_ERR; no other flag is one. -/
theorem test_hyps_AcknowledgeRestartsTheQueue : let s := { base with ns := { base.ns with gerror := 1 } }
    ErrorsPresent s ∧ s.sfm = false ∧ s.cmdqEn .ns = true ∧ s.hasCommand s.ns.cmdq = true := by
  refine ⟨fun i n h => ?_, by decide, by decide, by decide⟩
  cases i
  · by_cases hn : n = 0
    · exact ⟨.cmdq, hn.symm, rfl⟩
    · simp [State.iface, base, onIface, State.reset, State.resetWith, Iface.reset, hn] at h
  · simp [State.iface, base, onIface, State.reset, State.resetWith, Iface.reset] at h
  · simp [State.iface, base, onIface, State.reset, State.resetWith, Iface.reset] at h

/-- The same of the Secure and Realm Command queues. -/
theorem test_hyps_AcknowledgeRestartsTheQueue_others :
    let s := { base with sec := { base.sec with gerror := 1 }, rlm := { base.rlm with gerror := 1 } }
    ErrorsPresent s ∧ regAt s.ids 0x8064 = some ⟨0x8064, 4, .iface .s .gerrorn⟩ ∧
    regAt s.ids 0x60064 = some ⟨0x60064, 4, .iface .rl .gerrorn⟩ ∧ s.sfm = false ∧ s.ids.present .s = true ∧
    s.cmdqEn .s = true ∧ s.hasCommand s.sec.cmdq = true ∧ s.ids.present .rl = true ∧ s.cmdqEn .rl = true ∧
    s.hasCommand s.rlm.cmdq = true := by
  refine ⟨fun i n h => ?_, by decide⟩
  cases i
  · simp [State.iface, base, onIface, State.reset, State.resetWith, Iface.reset] at h
  all_goals
    by_cases hn : n = 0
    · exact ⟨.cmdq, hn.symm, rfl⟩
    · simp [State.iface, base, onIface, State.reset, State.resetWith, Iface.reset, hn] at h

/-- An ECMDQ and a DCMDQ with ERR active, and a DCMDQ with HS_ERR active. -/
theorem test_hyps_AcknowledgeRestartsTheQueue_ecmdq :
    let q : Ecmdq := ⟨0x3003, 0x80000001, 0x80800000, false, false, false⟩
    let e : Ecmdq := { directQueue with cons := 0x80800000 }
    let h : Ecmdq := { directQueue with cons := 0x80400000 }
    q.enabled = true ∧ q.direct = false ∧ q.errActive = true ∧
    regAt base.ids 0x304008 = some ⟨0x304008, 4, .ecmdq .ns 1 1⟩ ∧ base.ids.ecmdq .ns = true ∧
    base.hasCommand ⟨q.base, toggleBit q.prod 23, q.cons⟩ = true ∧
    e.dcActive = true ∧ e.dcEnabled = true ∧ base.ids.dcmdq .ns = true ∧ base.directStalled .ns 0 = false ∧ base.sfm = false ∧
    regAt base.ids 0xA0008 = some ⟨0xA0008, 4, .dcmdq .ns 0 1⟩ ∧ e.errActive = true ∧ e.hsErrActive = false ∧
    base.hasCommand ⟨e.base, toggleBit e.prod 23, e.cons⟩ = true ∧
    h.dcActive = true ∧ h.dcEnabled = true ∧ regAt base.ids 0x300008 = some ⟨0x300008, 4, .ecmdq .ns 0 1⟩ ∧
    h.errActive = false ∧ h.hsErrActive = true ∧ base.hasCommand ⟨h.base, toggleBit h.prod 22, h.cons⟩ = true := by
  decide

/-- The machine in use, with a recorded stalled transaction, meets the invariant. -/
theorem test_hyps_StepKeepsTheInvariant : Inv stalled := by
  refine ⟨by unfold MemoryCanonical; decide, fun i n h => ?_, by unfold StallsBounded recordedStalls; decide⟩
  cases i <;> simp [State.iface, stalled, on, base, onIface, State.reset, State.resetWith, Iface.reset] at h

/-- The inputs of clients, from which a step answers a next state. -/
theorem test_hyps_ClientsKeepConfiguration : let s := { base with inputs := [.txn (txn .ns 0x1000 .write)] }
    nextInput s = some (Input.txn (txn .ns 0x1000 .write), []) ∧ ∃ t, step s = .next t := by
  exact ⟨rfl, _, rfl⟩

theorem test_hyps_RootPageIsRootOnly : let d : Ids := { Ids.reset with rootIdr0 := 0 }
    Pas.ns ≠ .root ∧ d.rootImpl = false ∧
    nextInput { base with inputs := [.rootRead .ns 0 4] } = some (.rootRead .ns 0 4, []) ∧
    nextInput { base with inputs := [.rootWrite .root 0 4 1] } = some (.rootWrite .root 0 4 1, []) := by
  decide

/-- SMMU_S_CR0 at its offset. -/
theorem test_hyps_SecureRegistersAreSecureOnly : let p := (regAt State.reset.ids 0x8020).getD ⟨0, 4, .iface .ns .cr0⟩
    regAt State.reset.ids 0x8020 = some p ∧ p.reg.sec = .s ∧ p.reg ≠ .iface .s .sInit ∧ Pas.ns ≠ .s ∧ Pas.ns ≠ .root ∧
    nextInput { base with inputs := [.regRead .ns 0x8020 4] } = some (.regRead .ns 0x8020 4, []) ∧
    nextInput { base with inputs := [.regWrite .ns 0x8020 4 1] } = some (.regWrite .ns 0x8020 4 1, []) := by
  decide

theorem test_hyps_ResetDisables : let s := { stalled with inputs := [.reset] }
    nextInput s = some (Input.reset, []) ∧ stall ∈ s.stalls ∧ stall.what = .txn (txn .ns 0x1000 .read) := by
  decide

theorem test_hyps_MemoryReadsBack :
    MemoryCanonical base ∧ [0x11#8, 0x22].length ≤ 2 ^ 56 ∧ Pas.s ≠ .ns ∧
    (∀ k < 2, (0x1002#64).toNat % 2 ^ 56 ≠ ((0x1000#64).toNat + k) % 2 ^ 56) := by
  refine ⟨by unfold MemoryCanonical; decide, by decide, by decide, by decide⟩

/-- A stalled transaction while the Non-secure SMMUEN goes to zero, with a GBPA Update pending. -/
theorem test_hyps_UpdatesComplete : let s := { stalled with ns := { stalled.ns with cr0 := 0, gbpa := 0x80100000 } }
    (s.iface .ns).gbpa.getLsbD 31 = true ∧ (s.iface .ns).cr0.getLsbD 0 = false ∧ (s.iface .ns).cr0ack.getLsbD 0 = true ∧
    stall ∈ s.stalls ∧ stall.what = .txn (txn .ns 0x1000 .read) ∧ stall.what.sec = .ns ∧ AtosGroup.gatos.sec = .ns := by
  decide

/-- Addresses on both sides of the OAS, 52 bits. -/
theorem test_hyps_DisabledBypass : let s := { State.reset with root := { State.reset.root with cr0 := 1, cr0ack := 1 } }
    s.smmuEn .ns = false ∧ s.smmuEn .rl = false ∧ unsupported s (txn .ns (2 ^ 52) .read) = none ∧
    TxnKind.read.isHint = false ∧ 2 ^ s.ids.oas ≤ (2 ^ 52 : DWord).toNat ∧ unsupported s (txn .rl 0 .read) = none ∧
    (({ s with ns := { s.ns with gbpaEff := 0x100000 } } : State).iface .ns).gbpaEff.getLsbD 20 = true ∧
    unsupported s (txn .ns 0xFFFFFFFFFFFFE .write) = none ∧
    unsupported s { txn .ns 0xFFFFFFFFFFFFE .write with exclusive := true } = none ∧ (0xFFFFFFFFFFFFE : DWord).toNat < 2 ^ s.ids.oas ∧
    s.ns.gbpaEff.getLsbD 20 = false ∧ gpcCheck s (.stream .ns false) .ns 0xFFFFFFFFFFFFE true = .pass .ns ∧
    s.extAbort .ns 0xFFFFFFFFFFFFE 2 = false := by
  decide

/-- An Event queue of 2 entries: empty, with one record, with an aborting memory, and full. -/
theorem test_hyps_OutputQueueRecording_event :
    let s := { base with ns := { base.ns with eventq := ⟨0x2001, 0, 0⟩ } }
    let one := { base with ns := { base.ns with eventq := ⟨0x2001, 1, 0⟩ } }
    let full := { base with ns := { base.ns with eventq := ⟨0x2001, 2, 0⟩ } }
    let addr := one.entryAt (one.iface .ns).eventq.base (queueLog2 (one.iface .ns).eventq.base one.ids.eventqs) 5
      (one.iface .ns).eventq.prod
    s.eventqWritable .ns = true ∧ one.eventqWritable .ns = true ∧ queueEmpty 1 0 (queueLog2 0x2001 one.ids.eventqs) = false ∧
    (smmuWrite one (one.ownAcc .ns .eventq) .ns addr (natBytes 32 9) .eventq).1 = none ∧
    (smmuWrite { one with aborts := [(0x2020, 32)] } (one.ownAcc .ns .eventq) .ns addr (natBytes 32 9) .eventq).1 = some .eabt ∧
    (smmuWrite { one with aborts := [(0x2020, 32)], impl := { one.impl with eventqAbortSync := false } } (one.ownAcc .ns .eventq) .ns addr
      (natBytes 32 9) .eventq).1 = some .eabt ∧
    full.eventqWritable .ns = false ∧ full.eventqEn .ns = true ∧ overflowed (full.iface .ns).eventq = false ∧
    queueFull 2 0 (queueLog2 0x2001 full.ids.eventqs) = true ∧ (off (.main .ns)).eventqWritable .ns = false ∧
    (off (.main .ns)).eventqEn .ns = false := by
  decide

/-- A PRI queue of 8 entries: with one entry, with an aborting memory, full, overflowed, disabled. -/
theorem test_hyps_OutputQueueRecording_pri :
    let s := { base with ns := { base.ns with cr0 := 0x80F, cr0ack := 0x80F, priq := ⟨0x4003, 1, 0⟩ } }
    let n := queueLog2 s.ns.priq.base s.ids.priqs
    let write (s : State) := (smmuWrite s.takeFree.2 (s.takeFree.2.ownAcc .ns .priq) .ns
      (s.takeFree.2.entryAt s.ns.priq.base n 4 s.ns.priq.prod) (natBytes 16 7) .priq).1
    s.ids.priOf .ns = true ∧ s.priqEn .ns = true ∧ gerrActive s.ns .priqAbt = false ∧ s.sfm = false ∧
    gerrPresent s.ids .ns .priqAbt = true ∧ overflowed s.ns.priq = false ∧ queueFull 1 0 n = false ∧
    queueConsistent 1 0 n = true ∧ write s = none ∧ write { s with aborts := [(0x4010, 16)] } = some .eabt ∧
    queueFull 8 0 n = true ∧ overflowed ⟨0x4003, 0x80000001, 0⟩ = true ∧ queueConsistent 10 0 n = false ∧
    (off (.main .ns)).priqEn .ns = false := by
  decide

theorem test_hyps_GlobalErrors :
    gerrPresent base.ids .ns .eventqAbt = true ∧ gerrPresent base.ids .rl .sfm = false ∧
    gerrActive (({ base with ns := { base.ns with gerror := 4 } } : State).iface .ns) .eventqAbt = true := by
  decide

/-- Memory in canonical form, a byte outside the MSIs of an interface, and empty queues. -/
theorem test_hyps_OutputQueueRecording_msi :
    MemoryCanonical base ∧ OutsideMsi base .ns .eventq .ns 0x2000 ∧ OutsideMsi base .ns .priq .ns 0x2000 ∧
    OutsideMsi base .ns .gerror .ns 0x2000 ∧ queueEmpty 0 0 1 = true ∧
    (if priLastOnly base .ns then false else queueEmpty 1 0 3) = false ∧
    (smmuWrite base (base.ownAcc .ns .eventq) .ns (base.entryAt 0x2001 1 5 0) (natBytes 32 9) .eventq).1 = none := by
  unfold MemoryCanonical OutsideMsi
  decide

theorem test_hyps_CountersCount :
    base.pmcgs[0]? = some Pmcg.resetGroup ∧ 7 < Pmcg.resetGroup.counters.length ∧ 7 < 64 ∧
    Pmcg.resetGroup.cr.getLsbD 0 = false ∧ Pmcg.resetGroup.cnten.getLsbD 7 = false := by
  decide

theorem test_hyps_AtosOperation :
    (({ base with gatos := { base.gatos with ctrl := 1 } } : State).atosRegs .gatos).run = true ∧
    (base.atosRegs .gatos).run = false ∧ (base.iface AtosGroup.gatos.sec).cr0.getLsbD 0 = true ∧
    (off (.main .ns)).smmuEn AtosGroup.gatos.sec = false := by
  decide

/-- 95_test_vectors.md, program P5: GATOS of IPA 0x40001000 for stream 0xF000 finds the 1GB block; of IPA 0 a stage 2 fault;
with TYPE 0b01 the stage is not enabled, with TYPE 0b00 the request is invalid. -/
theorem test_hyps_AtosOperation_results :
    let find (addr : BitVec 64) :=
      let s := { base with gatos := { base.gatos with ctrl := 1, sid := 0xF000, addr := addr } }
      let q := atosRequest s.ids .gatos s.gatos
      let c : Ctx := { ev := ⟨q.sec, q.sid, q.ssid, q.addr, q.read, q.ind, q.priv, q.ind, q.priv, false⟩, inhibit := q.httui }
      (atosInvReq s.ids .gatos q, (X.run (atosLookup .gatos q c) s).1)
    find 0x40001940 = (false, .ok (.inl ⟨0xC0001000, 30, 0xFF, 3, true⟩)) ∧
    (find 0x40001540 = (false, .ok (.inr .invStage))) ∧ (find 0x40001140).1 = true ∧
    (match (find 0x940).2 with
      | .error (.trf f _ _ _) => f.s2 && f.kind == .translation
      | _ => false) = true := by
  decide +kernel

theorem test_hyps_EncodingStandsInTheWord : decodeWord 0x80000046#128 = .ok (.sync 0 0 0 0 0 false) := by decide

/-! ## Single steps -/

/-- The state after a step. -/
def after (s : State) : State :=
  match step s with
  | .next t => t
  | _ => s

/-- The state after a step that runs a command of the Non-secure Command queue of the machine in use. -/
def ran (s : State) (w : Nat) : State := after (s.withFetchWord 128 w)

/-- A TLB entry of the Non-secure EL1 regime for the page 0x12345000. -/
def tlbEntry (vmid asid : BitVec 16) : TlbEntry :=
  ⟨.nsEl1, .s1, some vmid, some asid, false, false, 0x12345000, 12, 3, 1, true, false,
    ⟨0, 0, 0, 3, 12, false, 0, 0, false, false, false, false, false, false⟩⟩

/-- The machine with entries of VMIDs 1 and 2 and ASIDs 0x42 and 0x43. -/
def withTlb : State :=
  { base with caches := { base.caches with tlb := [tlbEntry 1 0x42, tlbEntry 2 0x42, tlbEntry 1 0x43] } }

/-- CMD_TLBI_NH_ALL of VMID 1 leaves VMID 2 (42_cmd_tlbi.md R1910) and moves RD (30_encoding.md R1808). -/
theorem test_step_tlbiNhAll : let t := ran withTlb 0x0000000100000010
    t.caches.tlb = [tlbEntry 2 0x42] ∧ t.ns.cmdq.cons = 1 ∧ t.ns.gerror = 0 := by
  decide

/-- CMD_TLBI_NH_VA of VMID 1 and ASID 0x42 at 0x12345000 takes one entry (42_cmd_tlbi.md R1912). -/
theorem test_step_tlbiNhVa : (ran withTlb 0x00000000123450010042000100000012).caches.tlb =
    [tlbEntry 2 0x42, tlbEntry 1 0x43] := by
  decide

/-- With the next page nothing goes. -/
theorem test_step_tlbiNhVa_elsewhere : (ran withTlb 0x00000000123460010042000100000012).caches.tlb = withTlb.caches.tlb := by
  decide

/-- CMD_CFGI_STE takes the cached STE of its StreamID (41_cmd_cfgi.md R1872). -/
theorem test_step_cfgiSte :
    (ran base 0x00000000000000010000F00000000003).caches.stes = [] ∧
      (ran base 0x00000000000000010000F00100000003).caches.stes = base.caches.stes := by
  decide +kernel

/-- A Reserved opcode is CERROR_ILL: RD stays, CONS.ERR is 1, GERROR.CMDQ_ERR is toggled (60_exceptions.md R2170, R2171). -/
theorem test_step_reserved_opcode : let t := ran base 0x0B
    t.ns.cmdq.cons = 0x01000000 ∧ t.ns.gerror = 1 := by
  decide

/-- 95_test_vectors.md V50: CMD_SYNC with CS 3 is CERROR_ILL. -/
theorem test_step_sync_reserved_cs : (ran base 0x3046).ns.cmdq.cons = 0x01000000 := by decide

/-- 95_test_vectors.md V48: the MSI 0xCAFE0001 is stored little-endian at 0x80001000 (44_cmd_fault_sync.md R2061). -/
theorem test_step_sync_msi :
    (ran base 0x0000000080001000CAFE00010F801046).mem.bytes .ns 0x80001000 4 = [0x01, 0x00, 0xFE, 0xCA] := by
  decide

/-- 95_test_vectors.md V49: CMD_SYNC with SIG_SEV. -/
theorem test_step_sync_sev : .sev ∈ (ran base 0x2046).outputs := by decide

/-- 95_test_vectors.md V38: CMD_ATC_INV with a PASID and Global. -/
theorem test_step_atcInv :
    .atsInvReq 0 .ns 0x300 (some 2) true 0x40000000 0 ∈ (ran base 0x00000000400000000000030000002A40).outputs := by
  decide

/-- 95_test_vectors.md V41: CMD_PRI_RESP with Resp Success, which is PRG Response code 0 (26_ats_pri.md). -/
theorem test_step_priResp :
    .prgResponse .ns 0x300 none 0x1F 0 ∈ (ran base 0x000000000000201F0000030000000041).outputs := by
  decide

/-- CMD_RESUME with Ac zero and Ab one ends the stalled transaction with an abort (44_cmd_fault_sync.md R2050). -/
theorem test_step_resume : let t := ran stalled 0x00000000000000030000000700002044
    t.stalls = [] ∧ .response 9 .abort ∈ t.outputs := by
  decide

/-- CMD_RESUME with another STAG ends nothing (44_cmd_fault_sync.md R2051). -/
theorem test_step_resume_other : (ran stalled 0x00000000000000040000000700002044).stalls = [stall] := by decide

/-- CMD_STALL_TERM of a stream without a valid STE (44_cmd_fault_sync.md R2054). -/
theorem test_step_stallTerm : .response 9 .abort ∈ (ran stalled 0x0000000700000045).outputs := by decide +kernel

/-- CMD_SYNC waits for a CMD_ATC_INV that is not complete (44_cmd_fault_sync.md R2062). -/
theorem test_step_sync_waits :
    (ran { base with atcInvs := [⟨0, .main .ns, false⟩] } 0x46).ns.cmdq.cons = 0 := by
  decide

/-- Before SMMUv3.2 a write of SMMU_STRTAB_BASE while SMMUEN is one leaves reads of it UNKNOWN, from then on it is IGNORED
(13_regs_tables_queues.md R251). -/
theorem test_guarded_write :
    let w := { base with inputs := [.regWrite .ns 0x80 8 0x40000] }
    (after w).ns.strtabBase = base.ns.strtabBase ∧ (after w).ns.unknownReads = [] ∧
    (after (withIds w fun d => { d with aidr := 1 })).ns.unknownReads = [.strtabBase] ∧
    (after { off (.main .ns) with inputs := w.inputs }).ns.strtabBase = 0x40000 := by
  decide

/-- The same of SMMU_EVENTQ_IRQ_CFG1 while EVENTQ_IRQEN is one (12_regs_control.md R192). -/
theorem test_guarded_irqCfg :
    let w := { base with ns := { base.ns with irqCtrl := 4, irqCtrlAck := 4 }, inputs := [.regWrite .ns 0xB8 4 5] }
    (after w).ns.eventqIrq = base.ns.eventqIrq ∧ (after w).ns.unknownReads = [] ∧
    (after (withIds w fun d => { d with aidr := 1 })).ns.unknownReads = [.irqCfg .eventq 1] := by
  decide

/-- With EPD0 one T0SZ is IGNORED in VMSAv8-32: an address above its region is still one of TTB0 (22_cd_vms.md R1056). -/
theorem test_ignored_t0sz :
    selectTtb State.reset.ids .nsEl1 (0x4001 : BitVec 512) 0x90000000 = some false ∧
    selectTtb State.reset.ids .nsEl1 (0x0001 : BitVec 512) 0x90000000 = some true := by
  decide +kernel

/-- A cached translation whose stage 2 dirty state CMD_TLBI_S2_VMALLW removed serves no access, a read included
(42_cmd_tlbi.md R1927; 32_special_transactions.md R1506). -/
theorem test_dirty_state_removed (e : TlbEntry) (h : e.leaf.bit 7 = true) (p : Perm) :
    ({ e with dirty := false } : TlbEntry).serves ⟨.must true false, false, false⟩ true p = false ∧
    ({ e with dirty := true } : TlbEntry).serves ⟨.must true false, false, false⟩ true p = true := by
  simp [TlbEntry.serves, Acc.writes, h]

/-- FILTER_SEC_SID counts as zero while SCR.SO is zero (17_regs_pmcg.md R531): no access to the Root space is selected. -/
theorem test_filter_without_so (p : Pmcg) (h : p.scr.getLsbD 0 = false) (ev : BitVec 32) : p.manyStates ev .root = false := by
  simp only [Pmcg.manyStates, Pmcg.secSid, h, Bool.and_false]

/-- With STALL_MAX zero no stall is recorded (11_regs_id.md R105). -/
theorem test_stall_max_zero (f : TrfInfo) (ev : EvTxn) :
    (stallAccess (withIds base fun d => { d with idr5 := d.idr5 &&& 0xFFFF }) (.txn (txn .ns 0x1000 .read)) ev f).stalls.map
      (·.recorded) = [false] := by
  unfold stallAccess
  dsimp only
  rw [if_neg (by decide)]
  rfl

/-- SMMU_IDR3.PTWNNC: a stage 1 walk through Device memory of stage 2 is Normal Non-cacheable with it, Device without it
(11_regs_id.md R103, 21_streams_ste.md R899). -/
theorem test_ptwnnc (l : Leaf) (h : l.desc = 0) :
    s2TypeOf State.reset.ids stage2Ste l (.normal .wb .wb) = .normal .nc .nc ∧
    (s2TypeOf (withIds base fun d => { d with idr3 := 0 }).ids stage2Ste l (.normal .wb .wb)).isDevice = true := by
  unfold s2TypeOf
  rw [h]
  decide +kernel

/-- The PARTID space of an access without a StreamID to the SA space may be that of Root, chosen apart from the others
(62_ras_mpam_mec.md R2668). -/
theorem test_noSid_sa_root (t : NoSidTxn) (h : t.pas = .sa) :
    t.space ⟨false, .target, .root, .nonSecure⟩ = 2 := by
  unfold NoSidTxn.space
  rw [h]

/-- A write to SMMU_GBPA with Update set takes effect after the Update (12_regs_control.md R181). -/
theorem test_update_gbpa :
    let s := after { State.reset with inputs := [.regWrite .ns 0x44 4 0x80100000] }
    s.ns.gbpaEff = 0 ∧ (runUpdates s).ns.gbpaEff = 0x00100000 := by
  decide

end Sys2Proof.Tests
end

section
/-! O48: every step answers a next state, keeps what is fixed for the machine and keeps the invariant. What one operation keeps
is said by `Obeys` and `Sound`; here the commands, the internal work and the inputs of the world are put together. -/

namespace Sys2Proof.Proofs

open Sys2Proof.Machine Sys2Proof.Safety Sys2Proof.Laws

/-! ## Commands -/

/-- Every command answers a next state, and changes at most what commands change. -/
theorem obeysTo_exec : ∀ (i : Instr) (s : State), ObeysTo s (exec i s)
  | .prefetchConfig .., s => obeysTo_prefetchConfig _ _ _ _ s
  | .prefetchAddr .., s => obeysTo_prefetchAddr _ _ _ _ _ _ _ _ s
  | .cfgiSte .., s => obeysTo_cfgiSte _ _ _ s
  | .cfgiSteRange .., s => obeysTo_cfgiSteRange _ _ _ s
  | .cfgiAll ssec sid, s => obeysTo_cfgiAll ssec sid s
  | .cfgiCd .., s => obeysTo_cfgiCd _ _ _ _ s
  | .cfgiCdAll .., s => obeysTo_cfgiCdAll _ _ s
  | .cfgiVmsPidm .., s => obeysTo_cfgiVmsPidm _ _ s
  | .cfgiCit .., s => obeysTo_cfgiCit _ s
  | .cfgiVsttVsid .., s => obeysTo_cfgiVsttVsid _ _ s
  | .cfgiVstt .., s => obeysTo_cfgiVstt _ s
  | .tlbiNhAll .., s => obeysTo_tlbiNhAll _ s
  | .tlbiNhAsid .., s => obeysTo_tlbiNhAsid _ _ s
  | .tlbiNhVa .., s => obeysTo_tlbiNhVa _ _ _ _ _ s
  | .tlbiNhVaa .., s => obeysTo_tlbiNhVaa _ _ _ _ s
  | .tlbiEl3All, s => obeysTo_tlbiEl3All s
  | .tlbiEl3Va .., s => obeysTo_tlbiEl3Va _ _ _ s
  | .tlbiEl2All, s => obeysTo_tlbiEl2All s
  | .tlbiEl2Asid .., s => obeysTo_tlbiEl2Asid _ s
  | .tlbiEl2Va .., s => obeysTo_tlbiEl2Va _ _ _ _ s
  | .tlbiEl2Vaa .., s => obeysTo_tlbiEl2Vaa _ _ _ s
  | .tlbiS12Vmall .., s => obeysTo_tlbiS12Vmall _ s
  | .tlbiS2Vmallw .., s => obeysTo_tlbiS2Vmallw _ s
  | .tlbiS2Ipa .., s => obeysTo_tlbiS2Ipa _ _ _ _ s
  | .tlbiNsnhAll, s => obeysTo_tlbiNsnhAll s
  | .atcInv .., s => obeysTo_atcInv _ _ _ _ _ _ s
  | .priResp .., s => obeysTo_priResp _ _ _ _ _ s
  | .resume .., s => obeysTo_resume _ _ _ _ _ s
  | .stallTerm .., s => obeysTo_stallTerm _ _ s
  | .sync .., s => obeysTo_sync _ _ _ _ _ _ s
  | .tlbiSEl2All, s => obeysTo_tlbiSEl2All s
  | .tlbiSEl2Asid .., s => obeysTo_tlbiSEl2Asid _ s
  | .tlbiSEl2Va .., s => obeysTo_tlbiSEl2Va _ _ _ _ s
  | .tlbiSEl2Vaa .., s => obeysTo_tlbiSEl2Vaa _ _ _ s
  | .tlbiSS12Vmall .., s => obeysTo_tlbiSS12Vmall _ s
  | .tlbiSS2Vmallw .., s => obeysTo_tlbiSS2Vmallw _ s
  | .tlbiSS2Ipa .., s => obeysTo_tlbiSS2Ipa _ _ _ _ _ s
  | .tlbiSnhAll, s => obeysTo_tlbiSnhAll s
  | .dptiAll, s => obeysTo_dptiAll s
  | .dptiPa .., s => obeysTo_dptiPa _ _ _ s

/-- What a command does after an action that changes at most what commands change. -/
theorem obeysTo_after {s t : State} {o : Host.Outcome State Fault Refusal} (h : Obeys s t) (k : ObeysTo t o) :
    ObeysTo s o := by
  obtain ⟨u, hu, htu⟩ := k
  exact ⟨u, hu, h.trans htu⟩

theorem obeysTo_runWord (s : State) (w : CmdWord) : ObeysTo s (runWord s w) := by
  unfold runWord
  split
  · exact obeysTo_finish (c := .error .ill s) (.refl s)
  · split
    · exact obeysTo_finish (c := .error .ill s) (.refl s)
    · exact obeysTo_exec _ _

theorem obeys_cur (s : State) (q : QueueId) : Obeys s { s with cur := q } := ⟨.of_same rfl rfl rfl rfl rfl rfl, id⟩

theorem obeys_smmuRead (s : State) (o : AccFrom) (p : Pas) (a : DWord) (n : Nat) (c : FarCode) :
    Obeys s (smmuRead s o p a n c).2 := .of_lookup (only_smmuRead _ _ _ _ _ _ _)

/-- A command of a queue whose fetches are physical: an aborted fetch ends it, else the word read is run. -/
theorem obeysTo_fetchRun (s : State) (q : QueueId) (r : QueueRegs) : ObeysTo s (fetchRun s q r) := by
  unfold fetchRun
  extract_lets u addr
  have hcur : Obeys s u := obeys_cur s q
  clear_value u
  refine obeysTo_after hcur ?_
  have hread := obeys_smmuRead u (u.cmdqAcc q) q.sec.pas addr 16 .cmdq
  split <;> (rename_i e; rw [e] at hread)
  · exact obeysTo_finish (c := .error .abt _) hread
  · exact obeysTo_after hread (obeysTo_runWord _ _)

/-- A command of a DCMDQ: the fetch is translated first, and may fail or stall. -/
theorem obeysTo_fetchRunDirect (s : State) (i : Sec) (n : Nat) (r : QueueRegs) : ObeysTo s (fetchRunDirect s i n r) := by
  unfold fetchRunDirect
  extract_lets u
  have hcur : Obeys s u := obeys_cur s (.dcmdq i n)
  clear_value u
  refine obeysTo_after hcur ?_
  have htr := obeys_dcmdqTranslate u i n (entryAddr r.base (cmdqLog2 u r.base) 4 r.cons) false (dcmdqFetchAttrs r.base)
  split <;> (rename_i e; rw [e] at htr)
  · exact obeysTo_finish (c := .hsError .ipa _) htr
  · exact ⟨_, rfl, htr⟩
  · rename_i pa pas _ o v
    refine obeysTo_after htr ?_
    have hread := obeys_smmuRead v o pas pa 16 .dcmdq
    split <;> (rename_i e'; rw [e'] at hread)
    · exact obeysTo_finish (c := .hsError .ipa _) hread
    · exact obeysTo_finish (c := .error .abt _) hread
    · exact obeysTo_after hread (obeysTo_runWord _ _)

theorem obeysTo_runQueue (s : State) (q : QueueId) : ObeysTo s (runQueue s q) := by
  unfold runQueue
  split
  · exact ⟨s, rfl, .refl s⟩
  · split
    · exact obeysTo_fetchRunDirect _ _ _ _
    · exact obeysTo_fetchRun _ _ _

/-! ## Internal work -/

/-- The outcome is a next state that has what is fixed, and the invariant if `s` has it. -/
def SoundTo (s : State) (o : Host.Outcome State Fault Refusal) : Prop := ∃ t, o = .next t ∧ Sound s t

theorem SoundTo.next {s t : State} (h : Sound s t) : SoundTo s (.next t) := ⟨t, rfl, h⟩

theorem SoundTo.of_obeysTo {s : State} {o : Host.Outcome State Fault Refusal} (h : ObeysTo s o) : SoundTo s o := by
  obtain ⟨t, ht, hst⟩ := h
  exact ⟨t, ht, .of_obeys hst⟩

theorem SoundTo.after {s t : State} {o : Host.Outcome State Fault Refusal} (h : Sound s t) (k : SoundTo t o) :
    SoundTo s o := by
  obtain ⟨u, hu, htu⟩ := k
  exact ⟨u, hu, h.trans htu⟩

theorem SoundTo.counted {s : State} {o : Host.Outcome State Fault Refusal} (h : SoundTo s o) : SoundTo s (counted o) := by
  obtain ⟨t, rfl, hst⟩ := h
  exact .next (hst.trans (.of_takes (takes_countLog t)))

theorem sound_retryStall (s : State) : Sound s (retryStall s) := by
  unfold retryStall
  split
  · exact .of_takes ((takes_dropStalls s _ (List.erase_sublist ..)).trans (takes_retryAccess _ _))
  · exact .refl s

theorem soundTo_job (s : State) : ∀ j : Job, SoundTo s (j.run s)
  | .queue q => .of_obeysTo (obeysTo_runQueue s q)
  | .updates => .next (sound_runUpdates s)
  | .stall => .next (sound_retryStall s)
  | .atos g => .next (sound_runAtos s g)
  | .hacdbs i => .next (sound_runHacdbs s i)

/-! ## The inputs of the world -/

/-- Every input keeps what is fixed and the invariant. -/
theorem sound_takeInput (s : State) : ∀ i : Input, Sound s (takeInput s i)
  | .regRead .. => sound_processRegRead _ _ _ _
  | .regWrite .. => sound_processRegWrite _ _ _ _ _
  | .rootRead .. => sound_processRootRead _ _ _ _
  | .rootWrite .. => sound_processRootWrite _ _ _ _ _
  | .pmcgRead .. => sound_processPmcgRead _ _ _ _ _ _
  | .pmcgWrite .. => sound_processPmcgWrite _ _ _ _ _ _ _
  | .txn _ => sound_takeTxn _ _
  | .noSid _ => sound_takeNoSid _ _
  | .atsReq _ => sound_takeTr _ _
  | .priReq _ => .of_takes (takes_processPri _ _)
  | .atsInvDone _ => sound_atcInvs _ _
  | .atsInvTimeout _ => sound_atcInvs _ _
  | .broadcastTlbi _ => sound_processBroadcast _ _
  | .memWrite .. => sound_othersWrite _ _ _ _
  | .setAborts _ => .of_same rfl rfl rfl rfl rfl rfl rfl
  | .pageHint _ => .of_takes (takes_processPageHint _ _)
  | .pmuEvent _ => .of_takes (takes_pmuLog _ _)
  | .pmcgCapture _ => .of_same rfl rfl rfl rfl rfl rfl rfl
  | .enterSfm => sound_takeSfm _
  | .reset => sound_takeReset _

/-! ## The step -/

theorem soundTo_step (s : State) : SoundTo s (step s) := by
  unfold step stepBody
  extract_lets u
  have hclear : Sound s u := .of_same rfl rfl rfl rfl rfl rfl rfl
  clear_value u
  refine .after hclear ?_
  split
  · rename_i i rest _
    have hrest : Sound u { u with inputs := rest } := .of_same rfl rfl rfl rfl rfl rfl rfl
    exact .counted (.next (hrest.trans (sound_takeInput _ i)))
  · split
    · rename_i j n _
      have hturn : Sound u { u with turn := n + 1 } := .of_same rfl rfl rfl rfl rfl rfl rfl
      exact .counted (.after hturn (soundTo_job _ j))
    · exact .counted (.next (.refl u))

/-- Settles O48: the step is an input, internal work or nothing, each sound, then counting. -/
theorem stepKeepsTheInvariant : Obligations.StepKeepsTheInvariant := by
  unfold Obligations.StepKeepsTheInvariant
  intro s
  obtain ⟨t, hstep, hsound⟩ := soundTo_step s
  exact ⟨t, hstep, hsound.fixed, hsound.inv⟩

end Sys2Proof.Proofs
end

section
/-! SUPPORT. What is sent stays sent: the interrupts, global errors and ended stalls of an Update only append to the outputs. -/

namespace Sys2Proof.Proofs

open Sys2Proof.Machine Sys2Proof.Safety Sys2Proof.Laws

/-- The outputs of `s` begin those of `t`. -/
def Sends (s t : State) : Prop := s.outputs <+: t.outputs

theorem Sends.refl (s : State) : Sends s s := List.prefix_rfl

theorem Sends.trans {s t u : State} (h : Sends s t) (k : Sends t u) : Sends s u := List.IsPrefix.trans h k

theorem Sends.of_eq {s t : State} (h : t.outputs = s.outputs) : Sends s t := by
  rw [Sends, h]

theorem Sends.mem {s t : State} (h : Sends s t) {o : Output} (ho : o ∈ s.outputs) : o ∈ t.outputs := List.IsPrefix.mem ho h

theorem sends_send (s : State) (o : Output) : Sends s (s.send o) := List.prefix_append _ _

theorem sends_noteOwnGpt (s : State) (o : AccFrom) (a : DWord) : Sends s (noteOwnGpt s o a) := by
  unfold noteOwnGpt noteGpt
  split
  · dsimp only
    split <;> exact .of_eq rfl
  · exact .refl s

theorem sends_cacheGpi (s : State) (a : DWord) : Sends s (cacheGpi s a) := by
  unfold cacheGpi
  split
  · exact .refl s
  · have h : Sends s s.cacheNow.2 := .of_eq s.cacheNow_outputs
    split <;> (rename_i e; rw [e] at h)
    · exact h
    · split
      · exact h.trans (.of_eq rfl)
      · exact h

theorem sends_recordGpc (s : State) (res : GpcResult) (p : Pas) (a : DWord) (c : FarCode) :
    Sends s (recordGpc s res p a c) := by
  unfold recordGpc
  split
  · exact .refl s
  · split
    · exact .refl s
    · exact sends_send _ _
  · split
    · exact .refl s
    · exact sends_send _ _

theorem sends_reportGpc (s : State) (q : Bool) (res : GpcResult) (p : Pas) (a : DWord) (c : FarCode) :
    Sends s (reportGpc s q res p a c) := by
  unfold reportGpc recordQuietGpc
  have h : Sends s s.takeFree.2 := .of_eq rfl
  split
  · split
    · exact .refl s
    · dsimp only [State.takeFree] at h ⊢
      split
      · exact h.trans (sends_recordGpc _ _ _ _ _)
      · exact h
  · exact sends_recordGpc _ _ _ _ _

theorem sends_smmuAccess (s : State) (o : AccFrom) (p : Pas) (a : DWord) (n : Nat) (w : Bool) (c : FarCode) (r : Bool) :
    Sends s (smmuAccess s o p a n w c r).2 := by
  have h := sends_noteOwnGpt s o a
  unfold smmuAccess
  dsimp only
  split
  · exact h.trans (sends_cacheGpi _ a)
  · exact h.trans (sends_reportGpc _ _ _ _ _ _)

theorem sends_smmuWrite (s : State) (o : AccFrom) (p : Pas) (a : DWord) (bs : List Byte) (c : FarCode) (r : Bool) :
    Sends s (smmuWrite s o p a bs c r).2 := by
  have h := sends_smmuAccess s o p a bs.length true c r
  unfold smmuWrite
  split <;> (rename_i e; rw [e] at h)
  · exact h
  · exact h.trans (.of_eq rfl)

theorem sends_sendMsi (s : State) (o : AccFrom) (p : Pas) (a : DWord) (d : BitVec 32) (x : Attrs) (dev : DeviceId)
    (c : FarCode) : Sends s (sendMsi s o p a d x dev c).2 := by
  have h := sends_smmuWrite s { o with type := x.mt } p (s.truncOas a) (natBytes 4 d.toNat) c true
  unfold sendMsi
  dsimp only
  split <;> (rename_i e; rw [e] at h)
  · exact h.trans (sends_send _ _)
  · exact h

theorem sends_signalIrq (s : State) (i : Sec) (x : IrqSrc) : Sends s (signalIrq s i x).2 := by
  unfold signalIrq
  split
  · exact .refl s
  · extract_lets t c a
    have h : Sends s t := by
      unfold t
      split
      · exact sends_send _ _
      · exact .refl s
    split
    · exact h.trans (sends_sendMsi _ _ _ _ _ _ _ _)
    · exact h

theorem sends_toggleGerror (s : State) (i : Sec) (e : GErr) : Sends s (toggleGerror s i e) :=
  .of_eq (State.setIface_outputs _ _ _)

theorem sends_raiseGerror (s : State) (i : Sec) (e : GErr) : Sends s (raiseGerror s i e) := by
  have h := sends_toggleGerror s i e
  unfold raiseGerror
  split
  · exact .refl s
  · dsimp only
    split
    · exact h
    · have k := sends_signalIrq (toggleGerror s i e) i .gerror
      split <;> (rename_i e'; rw [e'] at k)
      · exact h.trans k
      · split
        · exact (h.trans k).trans (sends_toggleGerror _ _ _)
        · exact h.trans k

theorem sends_raiseIrq (s : State) (i : Sec) (x : IrqSrc) : Sends s (raiseIrq s i x) := by
  have h := sends_signalIrq s i x
  unfold raiseIrq
  split <;> (rename_i e; rw [e] at h)
  · exact h
  · exact h.trans (sends_raiseGerror _ _ _)

end Sys2Proof.Proofs
end

section
/-! O55: the completion of Updates. `Spares` says what a part of it leaves alone; what it does to an interface is said for each
Update, and what comes before and after the turn of that interface spares it. -/

namespace Sys2Proof.Proofs

open Sys2Proof.Machine Sys2Proof.Safety Sys2Proof.Laws

/-! ## What an Update leaves alone -/

/-- The registers whose Updates the statement is about. -/
structure Control where
  cr0 : BitVec 32
  cr0ack : BitVec 32
  irqCtrl : BitVec 32
  irqCtrlAck : BitVec 32
  gbpa : BitVec 32
  gbpaEff : BitVec 32

/-- Those registers of an interface. -/
def controlOf (r : Iface) : Control := ⟨r.cr0, r.cr0ack, r.irqCtrl, r.irqCtrlAck, r.gbpa, r.gbpaEff⟩

/-- The stalled transactions of an interface. -/
def stallsOf (s : State) (i : Sec) : List Stall := s.stalls.filter (·.what.sec == i)

/-- From `s` to `t` the control registers of the interfaces in `P` and the stalled transactions of those in `Q` stay;
SMMU_ROOT_CR0 stays, what was sent stays sent, and no ATOS operation starts. -/
structure Spares (P Q : Sec → Prop) (s t : State) : Prop where
  control : ∀ i, P i → controlOf (t.iface i) = controlOf (s.iface i)
  stalls : ∀ i, Q i → stallsOf t i = stallsOf s i
  root : t.root.cr0 = s.root.cr0
  sends : Sends s t
  atos : ∀ g, (s.atosRegs g).run = false → (t.atosRegs g).run = false

/-- Every interface. -/
def Every (_ : Sec) : Prop := True

variable {P Q P' Q' : Sec → Prop}

theorem Spares.refl (s : State) : Spares P Q s s := ⟨fun _ _ => rfl, fun _ _ => rfl, rfl, .refl s, fun _ => id⟩

theorem Spares.trans {s t u : State} (h : Spares P Q s t) (k : Spares P Q t u) : Spares P Q s u :=
  ⟨fun i p => (k.control i p).trans (h.control i p), fun i q => (k.stalls i q).trans (h.stalls i q), k.root.trans h.root,
    h.sends.trans k.sends, fun g r => k.atos g (h.atos g r)⟩

theorem Spares.mono {s t : State} (h : Spares P' Q' s t) (p : ∀ i, P i → P' i) (q : ∀ i, Q i → Q' i) : Spares P Q s t :=
  { h with control := fun i hi => h.control i (p i hi), stalls := fun i hi => h.stalls i (q i hi) }

theorem Spares.ite {s a b : State} {c : Prop} [Decidable c] (h : Spares P Q s a) (k : Spares P Q s b) :
    Spares P Q s (if c then a else b) := by
  split
  · exact h
  · exact k

theorem Spares.foldl {α : Type} (f : State → α → State) (l : List α) (hf : ∀ a ∈ l, ∀ s, Spares P Q s (f s a)) (s : State) :
    Spares P Q s (l.foldl f s) := by
  induction l generalizing s with
  | nil => exact .refl s
  | cons a l ih =>
    exact (hf a List.mem_cons_self s).trans (ih (fun b hb => hf b (List.mem_cons_of_mem a hb)) (f s a))

/-- A change of none of the parts that are spared. -/
theorem Spares.of_same {s t : State} (hns : t.ns = s.ns) (hsec : t.sec = s.sec) (hrlm : t.rlm = s.rlm)
    (hstalls : t.stalls = s.stalls) (hroot : t.root.cr0 = s.root.cr0) (hout : t.outputs = s.outputs)
    (hg : t.gatos = s.gatos) (hsg : t.sGatos = s.sGatos) (hv : t.vatos = s.vatos) (hsv : t.sVatos = s.sVatos) :
    Spares P Q s t where
  control i _ := by cases i <;> simp [State.iface, hns, hsec, hrlm]
  stalls i _ := by rw [stallsOf, hstalls, stallsOf]
  root := hroot
  sends := .of_eq hout
  atos g := by cases g <;> simp [State.atosRegs, hg, hsg, hv, hsv]

/-- What changes only what a lookup may change, and takes back no output. -/
theorem spares_of_lookup {s t : State} (h : Only State.sansLookup s t) (k : Sends s t) : Spares P Q s t where
  control i _ := by
    have e (u : State) : controlOf (u.iface i) = controlOf (u.sansLookup.iface i) := by cases i <;> rfl
    rw [e t, e s, h.same]
  stalls i _ := by
    have e (u : State) : stallsOf u i = stallsOf u.sansLookup i := rfl
    rw [e t, e s, h.same]
  root := congrArg (·.root.cr0) h.same
  sends := k
  atos g := by
    have e (u : State) : u.atosRegs g = u.sansLookup.atosRegs g := by cases g <;> rfl
    rw [e t, e s, h.same]
    exact id

theorem spares_send (s : State) (o : Output) : Spares P Q s (s.send o) := spares_of_lookup (only_send s o) (sends_send s o)

theorem spares_caches (s : State) (k : Caches) : Spares P Q s { s with caches := k } :=
  spares_of_lookup (only_caches s k) (.of_eq rfl)

theorem spares_raiseGerror (s : State) (i : Sec) (e : GErr) : Spares P Q s (raiseGerror s i e) :=
  spares_of_lookup (only_raiseGerror s i e) (sends_raiseGerror s i e)

theorem spares_raiseIrq (s : State) (i : Sec) (x : IrqSrc) : Spares P Q s (raiseIrq s i x) :=
  spares_of_lookup (only_raiseIrq s i x) (sends_raiseIrq s i x)

/-- A change of one interface, which leaves its control registers alone where they are to stay. -/
theorem spares_setIface (s : State) (j : Sec) (g : Iface → Iface)
    (h : P j → controlOf (g (s.iface j)) = controlOf (s.iface j)) : Spares P Q s (s.setIface j g) where
  control i hi := by
    by_cases hij : i = j
    · subst hij
      rw [State.setIface_iface_same]
      exact h hi
    · rw [State.setIface_iface_other s g hij]
  stalls i _ := by simp [stallsOf]
  root := by simp
  sends := .of_eq (State.setIface_outputs _ _ _)
  atos g := by cases g <;> simp [State.atosRegs]

theorem spares_setEcmdq (s : State) (i : Sec) (n : Nat) (f : Ecmdq → Ecmdq) : Spares P Q s (s.setEcmdq i n f) :=
  spares_setIface _ _ _ fun _ => rfl

theorem spares_setCons (s : State) (q : QueueId) (f : BitVec 32 → BitVec 32) : Spares P Q s (s.setCons q f) := by
  cases q with
  | main i => exact spares_setIface s i (fun r => { r with cmdq := { r.cmdq with cons := f r.cmdq.cons } }) fun _ => rfl
  | ecmdq i n => exact spares_setEcmdq _ _ _ _
  | dcmdq i n => exact spares_setEcmdq _ _ _ _

theorem spares_reportDcmdqPage (s : State) (i : Sec) (n : Nat) : Spares P Q s (reportDcmdqPage s i n) :=
  .ite (.refl s) ((spares_setIface s i (fun r => { r with dcmdqpErr := r.dcmdqpErr.modify _ _ }) fun _ => rfl).trans
    (spares_raiseGerror _ _ _))

theorem spares_endStall (s : State) (w : Stalled) (r : Response) : Spares P Q s (endStall s w r) := by
  cases w with
  | txn t => exact spares_send _ _
  | dcmdq i n q => exact .ite ((spares_setCons _ _ _).trans (spares_reportDcmdqPage _ _ _)) (.refl s)

/-! ## SMMUEN going to zero -/

theorem stallsOf_without (s : State) (i j : Sec) :
    stallsOf { s with stalls := s.stalls.filter (·.what.sec != j) } i = if i = j then [] else stallsOf s i := by
  unfold stallsOf
  split
  · next h =>
    subst h
    simp [List.filter_filter]
  · next h =>
    rw [List.filter_filter]
    refine List.filter_congr fun x _ => ?_
    by_cases hx : x.what.sec = i <;> simp [hx, h]

theorem spares_abortStalls (s : State) (j : Sec) : Spares P (· ≠ j) s (abortStalls s j) := by
  have dropped : Spares P (· ≠ j) s { s with stalls := s.stalls.filter (·.what.sec != j) } :=
    { Spares.refl (P := P) (Q := (· ≠ j)) s with
      control := fun i _ => by cases i <;> rfl
      stalls := fun i hi => by rw [stallsOf_without, if_neg hi]
      atos := fun g => by cases g <;> exact id }
  exact dropped.trans (.foldl _ _ (fun x _ u => spares_endStall u x.what .abort) _)

theorem stallsOf_abortStalls (s : State) (i : Sec) : stallsOf (abortStalls s i) i = [] := by
  have h := (Spares.foldl (P := Every) (Q := Every) (fun u x => endStall u x.what .abort) (stallsOf s i)
    (fun x _ u => spares_endStall u x.what .abort) { s with stalls := s.stalls.filter (·.what.sec != i) }).stalls i trivial
  rw [stallsOf_without, if_pos rfl] at h
  exact h

/-- Each client transaction of a list of stalls that end has its response. -/
theorem response_mem_foldl_endStall (r : Response) {x : Stall} {q : Txn} (hq : x.what = .txn q) (l : List Stall) (s : State)
    (hx : x ∈ l) : .response q.tag r ∈ (l.foldl (fun u y => endStall u y.what r) s).outputs := by
  induction l generalizing s with
  | nil => cases hx
  | cons y l ih =>
    cases hx with
    | head =>
      have sent : .response q.tag r ∈ (endStall s x.what r).outputs := by simp [hq, endStall, State.respond]
      exact (Spares.foldl (P := Every) (Q := Every) _ l (fun z _ u => spares_endStall u z.what r) _).sends.mem sent
    | tail _ hl => exact ih _ hl

theorem run_of_ctrl_zero {r : AtosRegs} (h : r.ctrl = 0) : r.run = false := by simp [AtosRegs.run, h]

theorem run_setAtos (s : State) (g : AtosGroup) (f : AtosRegs → AtosRegs) (h : ∀ r, (f r).ctrl = 0) :
    ((s.setAtos g f).atosRegs g).run = false := by
  cases g <;> exact run_of_ctrl_zero (h _)

/-- A change of an ATOS group that clears RUN. -/
theorem spares_setAtos (s : State) (g : AtosGroup) (f : AtosRegs → AtosRegs) (h : ∀ r, (f r).ctrl = 0) :
    Spares P Q s (s.setAtos g f) where
  control i _ := by cases i <;> cases g <;> rfl
  stalls i _ := by cases g <;> rfl
  root := by cases g <;> rfl
  sends := by cases g <;> exact .of_eq rfl
  atos k hk := by
    by_cases hkg : k = g
    · subst hkg
      exact run_setAtos s k f h
    · have e : (s.setAtos g f).atosRegs k = s.atosRegs k := by
        cases g <;> cases k <;> first | rfl | exact absurd rfl hkg
      rwa [e]

theorem spares_endAtos (s : State) (g : AtosGroup) : Spares P Q s (endAtos s g) :=
  .ite (spares_setAtos _ _ _ fun _ => rfl) (.refl s)

theorem run_endAtos (s : State) (g : AtosGroup) : ((endAtos s g).atosRegs g).run = false := by
  unfold endAtos
  split
  · exact run_setAtos _ _ _ fun _ => rfl
  · next h => simpa using h

theorem run_foldl_endAtos {g : AtosGroup} (l : List AtosGroup) (s : State) (hg : g ∈ l) :
    ((l.foldl endAtos s).atosRegs g).run = false := by
  induction l generalizing s with
  | nil => cases hg
  | cons k l ih =>
    cases hg with
    | head => exact (Spares.foldl (P := Every) (Q := Every) _ l (fun k _ u => spares_endAtos u k) _).atos g (run_endAtos s g)
    | tail _ hl => exact ih _ hl

theorem mem_atosGroups (g : AtosGroup) : g ∈ atosGroups g.sec := by cases g <;> decide

/-- From `s` to `t` an interface stops: no stalled transaction of it is left, each of a client got an abort, and no ATOS
operation of it runs (12_regs_control.md R162; 45_atos.md R2103). -/
structure Stops (i : Sec) (s t : State) : Prop where
  stalls : stallsOf t i = []
  aborts : ∀ x ∈ stallsOf s i, ∀ q, x.what = .txn q → .response q.tag .abort ∈ t.outputs
  atos : ∀ g : AtosGroup, g.sec = i → (t.atosRegs g).run = false

/-- Stopping amid what spares the stalled transactions of the interface. -/
theorem Stops.amid {i : Sec} {s u v t : State} (h : Stops i u v) (before : stallsOf u i = stallsOf s i)
    (after : Spares P Q v t) (hi : Q i) : Stops i s t where
  stalls := (after.stalls i hi).trans h.stalls
  aborts x hx q hq := after.sends.mem (h.aborts x (before ▸ hx) q hq)
  atos g hg := after.atos g (h.atos g hg)

theorem spares_smmuenEffects (s : State) (j : Sec) (b : Bool) : Spares P (· ≠ j) s (smmuenEffects s j b) :=
  .ite (.foldl _ _ (fun _ _ _ => spares_setAtos _ _ _ fun _ => rfl) s)
    ((spares_abortStalls s j).trans (.foldl _ _ (fun g _ u => spares_endAtos u g) _))

theorem stops_smmuenEffects (s : State) (i : Sec) : Stops i s (smmuenEffects s i false) := by
  have ended : Spares Every Every (abortStalls s i) ((atosGroups i).foldl endAtos (abortStalls s i)) :=
    .foldl _ _ (fun g _ u => spares_endAtos u g) _
  refine ⟨(ended.stalls i trivial).trans (stallsOf_abortStalls s i), fun x hx q hq => ?_, fun g hg => ?_⟩
  · exact ended.sends.mem (response_mem_foldl_endStall .abort hq _ _ hx)
  · exact run_foldl_endAtos _ _ (hg ▸ mem_atosGroups g)

/-! ## The Updates of an interface -/

theorem spares_updateCr (s : State) (j : Sec) : Spares (· ≠ j) (· ≠ j) s (updateCr s j) :=
  .trans (spares_setIface _ _ _ fun h => absurd rfl h) (.ite (spares_smmuenEffects _ _ _) (.refl _))

theorem control_updateCr (s : State) (i : Sec) :
    controlOf ((updateCr s i).iface i) = { controlOf (s.iface i) with cr0ack := (s.iface i).cr0 } := by
  have effects : Spares Every (· ≠ i) (s.setIface i Iface.ackCr0) (updateCr s i) :=
    .ite (spares_smmuenEffects _ _ _) (.refl _)
  rw [effects.control i trivial, State.setIface_iface_same]
  rfl

theorem stops_updateCr (s : State) (i : Sec) (off : (s.iface i).cr0.getLsbD 0 = false)
    (on : (s.iface i).cr0ack.getLsbD 0 = true) : Stops i s (updateCr s i) := by
  have e : updateCr s i = smmuenEffects (s.setIface i Iface.ackCr0) i false := by
    unfold updateCr
    dsimp only
    rw [off, on]
    rfl
  rw [e]
  exact (stops_smmuenEffects _ i).amid (by simp [stallsOf]) (.refl (P := Every) (Q := Every) _) trivial

theorem spares_updateMisc (s : State) (j : Sec) : Spares (· ≠ j) Q s (updateMisc s j) :=
  .trans (spares_setIface _ _ _ fun h => absurd rfl h) (.ite (spares_raiseIrq _ _ _) (.refl _))

theorem control_updateMisc (s : State) (i : Sec) :
    controlOf ((updateMisc s i).iface i) = controlOf (s.iface i).acknowledge := by
  have irq : Spares Every Every (s.setIface i Iface.acknowledge) (updateMisc s i) :=
    .ite (spares_raiseIrq _ _ _) (.refl _)
  rw [irq.control i trivial, State.setIface_iface_same]

theorem spares_atcInvs (s : State) (l : List AtcInv) : Spares P Q s { s with atcInvs := l } :=
  .of_same rfl rfl rfl rfl rfl rfl rfl rfl rfl rfl

theorem spares_updateEcmdq (s : State) (i : Sec) (n : Nat) : Spares P Q s (updateEcmdq s i n) := by
  unfold updateEcmdq
  split
  · exact .refl s
  · refine .trans (spares_setEcmdq s i n _) (.ite (spares_setEcmdq _ _ _ _) (.ite (.refl _) (.ite (spares_setEcmdq _ _ _ _)
      (.ite (.refl _) ?_))))
    exact (spares_atcInvs _ _).trans (spares_setEcmdq _ _ _ _)


theorem spares_updateEcmdqs (s : State) (i : Sec) (l : List Nat) :
    Spares P Q s (l.foldl (fun s n => updateEcmdq s i n) s) :=
  .foldl _ _ (fun n _ u => spares_updateEcmdq u i n) _

theorem spares_updateIface (s : State) (j : Sec) : Spares (· ≠ j) (· ≠ j) s (updateIface s j) :=
  ((spares_updateCr s j).trans (spares_updateMisc _ j)).trans (spares_updateEcmdqs _ _ _)

/-- The control registers once their Updates are complete (12_regs_control.md R152, R181, R186). -/
def Control.completed (c : Control) : Control :=
  { c with
    cr0ack := c.cr0
    irqCtrlAck := c.irqCtrl
    gbpa := applied c.gbpa
    gbpaEff := if c.gbpa.getLsbD 31 then applied c.gbpa else c.gbpaEff }

theorem control_acknowledge {r : Iface} {c : Control} (h : controlOf r = { c with cr0ack := c.cr0 }) :
    controlOf r.acknowledge = c.completed := by
  calc controlOf r.acknowledge
      = { (controlOf r).completed with cr0ack := (controlOf r).cr0ack } := rfl
    _ = c.completed := by rw [h]; rfl

theorem control_updateIface (s : State) (i : Sec) :
    controlOf ((updateIface s i).iface i) = (controlOf (s.iface i)).completed := by
  unfold updateIface
  rw [(spares_updateEcmdqs (P := Every) (Q := Every) _ i _).control i trivial, control_updateMisc]
  exact control_acknowledge (control_updateCr s i)

theorem stops_updateIface (s : State) (i : Sec) (off : (s.iface i).cr0.getLsbD 0 = false)
    (on : (s.iface i).cr0ack.getLsbD 0 = true) : Stops i s (updateIface s i) :=
  (stops_updateCr s i off on).amid rfl
    ((spares_updateMisc (Q := Every) _ i).trans (spares_updateEcmdqs _ _ _)) trivial

/-! ## All Updates -/

theorem spares_rootTlbi (s : State) : Spares P Q s (rootTlbi s) := .ite (spares_caches _ _) (spares_caches _ _)

theorem spares_invAll (s : State) : Spares P Q s (invAll s) := .ite (.refl s) (spares_caches _ _)

theorem spares_updateRoot (s : State) : Spares P Q s (updateRoot s) :=
  ((Spares.ite (spares_rootTlbi s) (.refl s)).trans (.ite (spares_invAll _) (.refl _))).trans
    (.of_same rfl rfl rfl rfl rfl rfl rfl rfl rfl rfl)

theorem spares_pmcgs (s : State) (l : List Pmcg) : Spares P Q s { s with pmcgs := l } :=
  .of_same rfl rfl rfl rfl rfl rfl rfl rfl rfl rfl

/-- What follows the Updates of the interfaces. -/
theorem spares_runUpdates (s : State) : Spares P Q (secs.foldl updateIface s) (runUpdates s) :=
  (spares_updateRoot _).trans (spares_pmcgs _ _)

/-- Each interface has one turn. -/
theorem secs_eq (i : Sec) : ∃ l₁ l₂, secs = l₁ ++ i :: l₂ ∧ i ∉ l₁ ∧ i ∉ l₂ := by
  cases i with
  | ns => exact ⟨[], [.s, .rl], rfl, by decide, by decide⟩
  | s => exact ⟨[.ns], [.rl], rfl, by decide, by decide⟩
  | rl => exact ⟨[.ns, .s], [], rfl, by decide, by decide⟩

/-- The Updates of other interfaces. -/
theorem spares_updateIfaces {i : Sec} {l : List Sec} (h : i ∉ l) (s : State) :
    Spares (· = i) (· = i) s (l.foldl updateIface s) :=
  .foldl _ _ (fun j hj u =>
    have other (k : Sec) (hk : k = i) : k ≠ j := fun hkj => h (hk ▸ hkj ▸ hj)
    (spares_updateIface u j).mono other other) s

/-- The turn of an interface in the completion of Updates: what comes before and after it is not about this interface. -/
theorem runUpdates_turn (s : State) (i : Sec) :
    ∃ u, Spares (· = i) (· = i) s u ∧ Spares (· = i) (· = i) (updateIface u i) (runUpdates s) := by
  obtain ⟨l₁, l₂, e, h₁, h₂⟩ := secs_eq i
  refine ⟨l₁.foldl updateIface s, spares_updateIfaces h₁ s, (spares_updateIfaces h₂ _).trans ?_⟩
  have tail := spares_runUpdates (P := (· = i)) (Q := (· = i)) s
  rwa [e, List.foldl_append, List.foldl_cons] at tail

theorem control_runUpdates (s : State) (i : Sec) :
    controlOf ((runUpdates s).iface i) = (controlOf (s.iface i)).completed := by
  obtain ⟨u, before, after⟩ := runUpdates_turn s i
  rw [after.control i rfl, control_updateIface, before.control i rfl]

theorem root_runUpdates (s : State) : (runUpdates s).root.cr0ack = s.root.cr0 := by
  have ifaces : Spares (fun _ => False) (fun _ => False) s (secs.foldl updateIface s) :=
    .foldl _ _ (fun j _ u => (spares_updateIface u j).mono (fun _ => False.elim) (fun _ => False.elim)) s
  calc (runUpdates s).root.cr0ack
      = (runUpdates s).root.cr0 := rfl
    _ = s.root.cr0 := (ifaces.trans (spares_runUpdates s)).root

theorem stops_runUpdates (s : State) (i : Sec) (off : (s.iface i).cr0.getLsbD 0 = false)
    (on : (s.iface i).cr0ack.getLsbD 0 = true) : Stops i s (runUpdates s) := by
  obtain ⟨u, before, after⟩ := runUpdates_turn s i
  have same := before.control i rfl
  have cr0 : (u.iface i).cr0 = (s.iface i).cr0 := congrArg Control.cr0 same
  have cr0ack : (u.iface i).cr0ack = (s.iface i).cr0ack := congrArg Control.cr0ack same
  exact (stops_updateIface u i (cr0 ▸ off) (cr0ack ▸ on)).amid (before.stalls i rfl) after rfl

theorem applied_bit (v : BitVec 32) : (applied v).getLsbD 31 = false := by
  rw [applied, putBit_getLsbD, if_pos (by decide)]

/-- Settles O55: the control registers end as `Control.completed` says, and an interface whose SMMUEN went to zero stops at its
turn and stays so. -/
theorem updatesComplete : Obligations.UpdatesComplete := by
  unfold Obligations.UpdatesComplete
  intro s i
  have control := control_runUpdates s i
  have gbpa : ((runUpdates s).iface i).gbpa = applied (s.iface i).gbpa := congrArg Control.gbpa control
  refine ⟨congrArg Control.cr0 control, congrArg Control.cr0ack control, congrArg Control.irqCtrlAck control,
    root_runUpdates s, gbpa ▸ applied_bit _, fun update => ?_, fun off on => ?_⟩
  · calc ((runUpdates s).iface i).gbpaEff
        = if (s.iface i).gbpa.getLsbD 31 then applied (s.iface i).gbpa else (s.iface i).gbpaEff :=
          congrArg Control.gbpaEff control
      _ = applied (s.iface i).gbpa := if_pos update
      _ = ((runUpdates s).iface i).gbpa := gbpa.symm
  · have stops := stops_runUpdates s i off on
    refine ⟨fun x hx hi => ?_, fun x hx q hq hi => ?_, stops.atos⟩
    · have mem : x ∈ stallsOf (runUpdates s) i := List.mem_filter.2 ⟨hx, beq_iff_eq.2 hi⟩
      rw [stops.stalls] at mem
      cases mem
    · have sec : x.what.sec = i := hq ▸ hi
      exact stops.aborts x (List.mem_filter.2 ⟨hx, beq_iff_eq.2 sec⟩) q hq

end Sys2Proof.Proofs
end

section
/-! SUPPORT. Where the registers of an interface stand: every page holds registers of one interface, and the two words of an
aligned doubleword belong to one interface. -/

namespace Sys2Proof.Proofs

open Sys2Proof.Machine

/-! ## The registers of one interface -/

/-- The register found, if any, is one of the interface `i`. -/
def Within (i : Sec) (o : Option (RegPlace RegTarget)) : Prop := ∀ p, o = some p → p.reg.sec = i

theorem Within.none (i : Sec) : Within i none := nofun

theorem Within.some {i : Sec} {p : RegPlace RegTarget} (h : p.reg.sec = i) : Within i (some p) := by
  rintro _ ⟨⟩
  exact h

theorem Within.ite {i : Sec} {c : Prop} [Decidable c] {a b : Option (RegPlace RegTarget)} (h : Within i a) (k : Within i b) :
    Within i (if c then a else b) := by
  split
  · exact h
  · exact k

theorem Within.or {i : Sec} {a b : Option (RegPlace RegTarget)} (h : Within i a) (k : Within i b) : Within i (a.or b) := by
  cases a with
  | none => exact k
  | some _ => exact h

theorem within_ifacePlace (d : Ids) (i : Sec) (start : Nat) (o : Option (RegPlace Reg)) :
    Within i (ifacePlace d i start o) := by
  cases o with
  | none => exact .none i
  | some _ => exact .ite (.some rfl) (.none i)

theorem within_atosPlace (base : Nat) (g : AtosGroup) (off : Nat) : Within g.sec (atosPlace base g off) := by
  refine .ite (.none _) ?_
  split
  · exact .some rfl
  · exact .some rfl
  · exact .some rfl
  · exact .some rfl
  · exact .some rfl
  · exact .some rfl
  · exact .some rfl
  · exact .none _

theorem within_pageZero (d : Ids) (i : Sec) (start off : Nat) : Within i (pageZero d i start off) := by
  refine .ite (within_ifacePlace _ _ _ _) (.ite (within_ifacePlace _ _ _ _) (.ite ?_ (within_ifacePlace _ _ _ _)))
  cases i with
  | ns => exact .ite (within_atosPlace _ .gatos _) (.none _)
  | s => exact .ite (within_atosPlace _ .sGatos _) (.none _)
  | rl => exact .none _

theorem within_queuePlace {i : Sec} {t : Nat → RegTarget} (ht : ∀ k, (t k).sec = i) (start o : Nat) :
    Within i (queuePlace start o t) :=
  .ite (.some (ht 0)) (.ite (.some (ht 1)) (.ite (.some (ht 2)) (.none i)))

theorem within_queuePage {i : Sec} {t : Nat → Nat → RegTarget} (ht : ∀ n k, (t n k).sec = i) (start off q pages : Nat) :
    Within i (queuePage start off q pages t) :=
  .ite (.none i) (within_queuePlace (ht _) _ _)

theorem within_queuePages (d : Ids) (i : Sec) (off : Nat) : Within i (queuePages d i off) :=
  .ite (.none i) (.or (.ite (within_queuePage (t := .ecmdq i) (fun _ _ => rfl) _ _ _ _) (.none i))
    (.or (.ite (within_queuePage (t := .dcmdq i) (fun _ _ => rfl) _ _ _ _) (.none i))
      (.ite (.none i) (.ite (.some rfl) (.ite (.some rfl) (.none i))))))

/-! ## The Command queue pages: the words of a doubleword are both there or both not -/

theorem queuePlace_isSome (start o : Nat) (t : Nat → RegTarget) : (queuePlace start o t).isSome = decide (o < 16) := by
  unfold queuePlace
  split_ifs <;> simp <;> omega

/-- A stride of 8 bytes or less has a register everywhere; a longer one is a number of doublewords. -/
theorem mod_stride_lt_iff (x k : Nat) (hx : x % 8 = 0) : (x + 4) % 2 ^ k < 16 ↔ x % 2 ^ k < 16 := by
  rcases Nat.lt_or_ge k 4 with hk | hk
  · have hpow : 2 ^ k < 16 := Nat.pow_lt_pow_right (by omega) hk
    have hpos : 0 < 2 ^ k := Nat.two_pow_pos k
    have := Nat.mod_lt x hpos
    have := Nat.mod_lt (x + 4) hpos
    omega
  · obtain ⟨m, rfl⟩ := Nat.exists_eq_add_of_le hk
    have hsplit : 2 ^ (4 + m) = 8 * (2 * 2 ^ m) := by rw [Nat.pow_add]; omega
    have hdiv : (x + 4) / 8 = x / 8 := by omega
    rw [hsplit, Nat.mod_mul (x := x + 4), Nat.mod_mul (x := x), hdiv]
    omega

theorem queuePage_isSome_add_four (start off q pages : Nat) (t : Nat → Nat → RegTarget) (hs : start % 8 = 0)
    (ho : off % 8 = 0) : (queuePage start (off + 4) q pages t).isSome = (queuePage start off q pages t).isSome := by
  have hbelow : off + 4 < start ↔ off < start := by omega
  rcases Nat.lt_or_ge off start with h | h
  · simp [queuePage, h, hbelow.2 h]
  · have hsub : off + 4 - start = off - start + 4 := by omega
    have hpage : (off - start + 4) / 0x10000 = (off - start) / 0x10000 := by omega
    have hin : (off - start + 4) % 0x10000 = (off - start) % 0x10000 + 4 := by omega
    have hword := mod_stride_lt_iff ((off - start) % 0x10000) (16 - q) (by omega)
    simp only [queuePage, hsub, hpage, hin, decide_eq_decide.2 hbelow]
    split
    · rfl
    · rw [queuePlace_isSome, queuePlace_isSome, decide_eq_decide]
      exact hword

theorem isSome_ite {α : Type} {c c' : Prop} [Decidable c] [Decidable c'] {a a' b b' : Option α} (hc : c' ↔ c)
    (h : a'.isSome = a.isSome) (k : b'.isSome = b.isSome) :
    (if c' then a' else b').isSome = (if c then a else b).isSome := by
  by_cases hp : c
  · rw [if_pos hp, if_pos (hc.2 hp), h]
  · rw [if_neg hp, if_neg (mt hc.1 hp), k]

theorem isSome_or_congr {α : Type} {a a' b b' : Option α} (h : a'.isSome = a.isSome) (k : b'.isSome = b.isSome) :
    (a'.or b').isSome = (a.or b).isSome := by
  rw [Option.isSome_or, Option.isSome_or, h, k]

theorem queuePages_isSome_add_four (d : Ids) (i : Sec) (off : Nat) (ho : off % 8 = 0) :
    (queuePages d i (off + 4)).isSome = (queuePages d i off).isSome := by
  have hopt (n : Nat) : optPage n % 8 = 0 := by unfold optPage; omega
  refine isSome_ite .rfl rfl (isSome_or_congr (isSome_ite .rfl (queuePage_isSome_add_four _ _ _ _ _ (by omega) ho) rfl)
    (isSome_or_congr (isSome_ite .rfl (queuePage_isSome_add_four _ _ _ _ _ (hopt _) ho) rfl) ?_))
  have hpage := hopt (fieldNat (d.idr8Of i) 0 10)
  refine isSome_ite ?_ rfl (isSome_ite (by omega) rfl (isSome_ite (by omega) rfl rfl))
  simp only [Bool.or_eq_true, decide_eq_true_eq, or_assoc]
  exact or_congr_right (by omega)

/-! ## The two words of an aligned doubleword -/

/-- Where two places hold a register each, the registers are of one interface. -/
def SameSec (a a' : Option (RegPlace RegTarget)) : Prop := ∀ p p', a = some p → a' = some p' → p'.reg.sec = p.reg.sec

theorem Within.sameSec {i : Sec} {a a' : Option (RegPlace RegTarget)} (h : Within i a) (h' : Within i a') : SameSec a a' :=
  fun p p' hp hp' => (h' p' hp').trans (h p hp).symm

theorem SameSec.ite {c c' : Prop} [Decidable c] [Decidable c'] {a a' b b' : Option (RegPlace RegTarget)} (hc : c' ↔ c)
    (h : SameSec a a') (k : SameSec b b') : SameSec (if c then a else b) (if c' then a' else b') := by
  by_cases hp : c
  · rwa [if_pos hp, if_pos (hc.2 hp)]
  · rwa [if_neg hp, if_neg (mt hc.1 hp)]

theorem SameSec.or {a a' b b' : Option (RegPlace RegTarget)} (hs : a'.isSome = a.isSome) (h : SameSec a a')
    (k : SameSec b b') : SameSec (a.or b) (a'.or b') := by
  cases a with
  | none =>
    obtain rfl : a' = none := by simpa using hs
    exact k
  | some p =>
    obtain ⟨p', rfl⟩ := Option.isSome_iff_exists.1 hs
    exact h

/-- The pages begin at multiples of 64KB, so none ends between the two words; where pages of several interfaces overlap, the
first that has a register at the one word has one at the other. -/
theorem regAt_sameSec_add_four (d : Ids) (off : Nat) (ho : off % 8 = 0) : SameSec (regAt d off) (regAt d (off + 4)) := by
  have hopt (n : Nat) : optPage n % 8 = 0 := by unfold optPage; omega
  have hrealm := hopt (fieldNat d.rootIdr0 22 10)
  have hvatos := hopt (fieldNat d.idr2 0 10)
  have hsVatos := hopt (fieldNat d.sIdr2 0 10)
  refine .ite (by omega) ((within_pageZero d .ns _ _).sameSec (within_pageZero _ _ _ _)) ?_
  refine .ite (by omega) ((within_pageZero d .s _ _).sameSec (within_pageZero _ _ _ _)) ?_
  refine .ite (by omega) ((within_ifacePlace d .ns _ _).sameSec (within_ifacePlace _ _ _ _)) ?_
  refine .ite (and_congr_right' (by omega)) ((within_pageZero d .rl _ _).sameSec (within_pageZero _ _ _ _)) ?_
  refine .ite (and_congr_right' (by omega)) ((within_ifacePlace d .rl _ _).sameSec (within_ifacePlace _ _ _ _)) ?_
  refine .ite (and_congr_right' (by omega)) ((within_atosPlace _ .vatos _).sameSec (within_atosPlace _ _ _)) ?_
  refine .ite (and_congr_right' (by omega)) ((within_atosPlace _ .sVatos _).sameSec (within_atosPlace _ _ _)) ?_
  have hpages (i : Sec) : SameSec (queuePages d i off) (queuePages d i (off + 4)) :=
    (within_queuePages d i off).sameSec (within_queuePages d i _)
  exact .or (queuePages_isSome_add_four d .ns off ho) (hpages .ns)
    (.or (queuePages_isSome_add_four d .s off ho) (hpages .s) (hpages .rl))

theorem regAt_sec_of_secure_page (d : Ids) (off : Nat) (hlo : 0x8000 ≤ off) (hhi : off < 0x10000) :
    Within .s (regAt d off) := by
  rw [regAt, if_neg (by omega), if_pos hhi]
  exact within_pageZero d .s _ _

end Sys2Proof.Proofs
end

section
/-! O52: an access that is neither Secure nor Root finds no SMMU_S_* register that answers it. -/

namespace Sys2Proof.Proofs

open Sys2Proof.Machine

/-! ## The step that takes an input -/

/-- What is accepted depends on the stalled transactions and the parameters alone. -/
theorem firstAccepted_congr {s u : State} (hstalls : u.stalls = s.stalls) (himpl : u.impl = s.impl) (l : List Input) :
    firstAccepted u l = firstAccepted s l := by
  have haccepted (i : Input) : i.accepted u = i.accepted s := by
    cases i with
    | txn => simp only [Input.accepted, stallsFull, hstalls, himpl]
    | _ => rfl
  induction l with
  | nil => rfl
  | cons i l ih => simp only [firstAccepted, haccepted, ih]

theorem nextInput_congr {s u : State} (hinputs : u.inputs = s.inputs) (hstalls : u.stalls = s.stalls)
    (himpl : u.impl = s.impl) : nextInput u = nextInput s := by
  rw [nextInput, hinputs, firstAccepted_congr hstalls himpl, nextInput]

/-- The state in which an input is taken. -/
def taking (s : State) (rest : List Input) : State := { s with inputs := rest, reqMpam := none, outputs := [] }

theorem step_of_nextInput {s : State} {i : Input} {rest : List Input} (h : nextInput s = some (i, rest)) :
    step s = counted (.next (takeInput (taking s rest) i)) := by
  have hclear : nextInput { s with outputs := [], reqMpam := none } = some (i, rest) := by
    rw [← h]
    exact nextInput_congr rfl rfl rfl
  simp only [step, stepBody, hclear, taking]

/-! ## Accesses that are refused -/

theorem reaches_secure_eq_false {pas : Pas} (hs : pas ≠ .s) (hroot : pas ≠ .root) : reaches .s pas = false := by
  cases pas with
  | s => exact absurd rfl hs
  | root => exact absurd rfl hroot
  | ns => rfl
  | rl => rfl
  | nsp => rfl
  | sa => rfl

theorem processRegRead_of_not_reaches {s : State} {pas : Pas} {off : Nat} (size : Nat) {p : RegPlace RegTarget}
    (hp : regAt s.ids off = some p) (h : reaches p.reg.sec pas = false) :
    processRegRead s pas off size = s.send (.regValue 0) := by
  simp [processRegRead, hp, h]

theorem writeAccess_of_not_reaches {s : State} {pas : Pas} {off : Nat} (size : Nat) (v : DWord)
    (h : ∀ p, regAt s.ids off = some p → reaches p.reg.sec pas = false) : writeAccess s pas off size v = s := by
  unfold writeAccess
  split
  · rename_i p hp
    simp [h p hp]
  · rfl

theorem mod_eight_of_accessLegal {off width : Nat} (h : accessLegal off 8 width = true) : off % 8 = 0 := by
  simp [accessLegal] at h
  exact h.2

/-- A write that does not reach the register changes nothing, made as one access or as two: the other word of a doubleword is of
the same interface. -/
theorem processRegWrite_of_not_reaches {s : State} {pas : Pas} {off : Nat} (size : Nat) (v : DWord) {p : RegPlace RegTarget}
    (hp : regAt s.ids off = some p) (h : reaches p.reg.sec pas = false) :
    ∃ k, processRegWrite s pas off size v = { s with free := k } ∧ (s.impl.reg64Atomic = true → k = s.free) := by
  have hlow (u : State) (hu : u.ids = s.ids) (n : Nat) (w : DWord) : writeAccess u pas off n w = u := by
    refine writeAccess_of_not_reaches n w fun p' hp' => ?_
    rw [hu, hp] at hp'
    obtain rfl := Option.some.inj hp'
    exact h
  simp only [processRegWrite, hp]
  split
  · rename_i hsplit
    obtain ⟨rfl, hatomic, hlegal⟩ := hsplit
    have hhigh (w : DWord) : writeAccess s.takeFree.2 pas (off + 4) 4 w = s.takeFree.2 := by
      refine writeAccess_of_not_reaches 4 w fun p' hp' => ?_
      rw [regAt_sameSec_add_four s.ids off (mod_eight_of_accessLegal hlegal) p p' hp hp']
      exact h
    refine ⟨s.free + 1, ?_, fun ha => absurd ha (by simpa using hatomic)⟩
    simp only [hlow s.takeFree.2 rfl, hhigh, ite_self]
    rfl
  · exact ⟨s.free, hlow s rfl size v, fun _ => rfl⟩

/-- Settles O52: the registers of the 32KB from 0x8000 are of the Secure interface, and what such an access does not reach it
neither reads nor writes. -/
theorem secureRegistersAreSecureOnly : Obligations.SecureRegistersAreSecureOnly := by
  unfold Obligations.SecureRegistersAreSecureOnly
  refine ⟨fun d off p hlo hhi => regAt_sec_of_secure_page d off hlo hhi p, ?_⟩
  intro s rest p pas off size v hp hsec _ hs hroot
  have hreach : reaches p.reg.sec pas = false := hsec ▸ reaches_secure_eq_false hs hroot
  constructor
  · intro hnext
    rw [step_of_nextInput hnext, takeInput, processRegRead_of_not_reaches (s := taking s rest) size hp hreach]
    rfl
  · intro hnext
    obtain ⟨k, hwrite, hfree⟩ := processRegWrite_of_not_reaches (s := taking s rest) size v hp hreach
    exact ⟨k, by rw [step_of_nextInput hnext, takeInput, hwrite, taking], hfree⟩

end Sys2Proof.Proofs
end

section
/-! O51: an access that is not a Root access, or finds no Root Control Page, is answered by none of its registers. -/

namespace Sys2Proof.Proofs

open Sys2Proof.Machine

theorem rootReaches_eq_false {d : Ids} {pas : Pas} (h : pas ≠ .root ∨ d.rootImpl = false) : rootReaches d pas = false := by
  rcases h with hpas | himpl
  · simp [rootReaches, hpas]
  · simp [rootReaches, himpl]

/-- RAZ at every offset, whether a register stands there or none. -/
theorem processRootRead_of_not_reaches {s : State} {pas : Pas} (off size : Nat) (h : rootReaches s.ids pas = false) :
    processRootRead s pas off size = s.send (.regValue 0) := by
  unfold processRootRead
  split
  · simp [h]
  · rfl

/-- WI at every offset, whether a register stands there or none. -/
theorem processRootWrite_of_not_reaches {s : State} {pas : Pas} (off size : Nat) (v : DWord)
    (h : rootReaches s.ids pas = false) : processRootWrite s pas off size v = s := by
  unfold processRootWrite
  split
  · simp [h]
  · rfl

/-- Settles O51: the step takes the access, which does not reach the page, with the outputs of earlier steps gone. -/
theorem rootPageIsRootOnly : Obligations.RootPageIsRootOnly := by
  unfold Obligations.RootPageIsRootOnly
  intro s rest pas off size v h
  have hreach : rootReaches s.ids pas = false := rootReaches_eq_false h
  constructor
  · intro hnext
    rw [step_of_nextInput hnext, takeInput, processRootRead_of_not_reaches (s := taking s rest) off size hreach]
    rfl
  · intro hnext
    rw [step_of_nextInput hnext, takeInput, processRootWrite_of_not_reaches (s := taking s rest) off size v hreach, taking]

end Sys2Proof.Proofs
end

section
/-! SUPPORT. What an occurrence does to the counters of a performance monitor group (17_regs_pmcg.md R504, R505). -/

namespace Sys2Proof.Proofs

open Sys2Proof.Machine Sys2Proof.Laws

/-! ## A group changed -/

theorem setPmcg_pmcgs_same (s : State) (n : Nat) (f : Pmcg → Pmcg) :
    (s.setPmcg n f).pmcgs[n]? = s.pmcgs[n]?.map f := by
  simp [State.setPmcg]

theorem pmcgs_of_only_lookup {s t : State} (h : Only State.sansLookup s t) : t.pmcgs = s.pmcgs := by
  have hpmcgs : t.sansLookup.pmcgs = s.sansLookup.pmcgs := congrArg State.pmcgs h.same
  exact hpmcgs

theorem pmcgs_sendMsi (s : State) (o : AccFrom) (pas : Pas) (a : DWord) (d : BitVec 32) (x : Attrs) (dev : DeviceId)
    (c : FarCode) : (sendMsi s o pas a d x dev c).2.pmcgs = s.pmcgs := pmcgs_of_only_lookup (only_sendMsi ..)

theorem counter_value (p : Pmcg) (j : Nat) : (p.counter j).value = (p.counters.map (·.value)).getD j 0 := by
  simp only [Pmcg.counter, List.getD_eq_getElem?_getD, List.getElem?_map]
  cases p.counters[j]? <;> rfl

theorem counter_setCounter {p : Pmcg} {k : Nat} (hk : k < p.counters.length) (f : PmCounter → PmCounter) (j : Nat) :
    (p.setCounter k f).counter j = if j = k then f (p.counter j) else p.counter j := by
  simp only [Pmcg.counter, Pmcg.setCounter, List.getD_eq_getElem?_getD, List.getElem?_modify]
  by_cases h : j = k
  · subst h
    simp [hk]
  · simp [h, Ne.symm h]

/-! ## The effects of an overflow keep the counters and OVS -/

/-- What a group shows of its counting: the counters' values and the overflow statuses. -/
def counts (p : Pmcg) : List (BitVec 64) × BitVec 64 := (p.counters.map (·.value), p.ovs)

theorem counter_value_of_counts {p q : Pmcg} (h : counts q = counts p) (j : Nat) :
    (q.counter j).value = (p.counter j).value := by
  rw [counter_value, counter_value, show q.counters.map (·.value) = p.counters.map (·.value) from congrArg Prod.fst h]

theorem ovs_of_counts {p q : Pmcg} (h : counts q = counts p) : q.ovs = p.ovs := congrArg Prod.snd h

theorem counts_doCapture (p : Pmcg) : counts p.doCapture = counts p := by
  unfold Pmcg.doCapture
  split
  · simp [counts]
  · rfl

/-- Every group shows in `t` the counts that it shows in `s`. -/
def KeepsCounts (s t : State) : Prop := t.pmcgs.map counts = s.pmcgs.map counts

theorem KeepsCounts.refl (s : State) : KeepsCounts s s := rfl

theorem KeepsCounts.trans {s t u : State} (h : KeepsCounts s t) (k : KeepsCounts t u) : KeepsCounts s u := Eq.trans k h

theorem KeepsCounts.of_pmcgs {s t : State} (h : t.pmcgs = s.pmcgs) : KeepsCounts s t := congrArg (List.map counts) h

theorem KeepsCounts.ite {s a b : State} {c : Prop} [Decidable c] (h : KeepsCounts s a) (k : KeepsCounts s b) :
    KeepsCounts s (if c then a else b) := by
  split
  · exact h
  · exact k

theorem KeepsCounts.group {s t : State} (h : KeepsCounts s t) (n : Nat) :
    t.pmcgs[n]?.map counts = s.pmcgs[n]?.map counts := by
  rw [← List.getElem?_map, ← List.getElem?_map, h]

theorem keepsCounts_setPmcg (s : State) (n : Nat) (f : Pmcg → Pmcg) (h : ∀ p, counts (f p) = counts p) :
    KeepsCounts s (s.setPmcg n f) := map_modify_of_comp _ _ _ _ h

theorem keepsCounts_pmcgInterrupt (s : State) (n : Nat) : KeepsCounts s (pmcgInterrupt s n) := by
  unfold pmcgInterrupt
  split
  · exact .refl s
  · rename_i p _
    extract_lets u addr a
    have hwire : KeepsCounts s u := .ite (.of_pmcgs (State.send_pmcgs _ _)) (.refl s)
    clear_value u
    have hmsi := pmcgs_sendMsi u (p.msiAcc a.mt) p.msiPas addr p.irq.cfg1 a .own .other
    refine .ite (.refl s) (hwire.trans (.ite ?_ (.refl u)))
    split <;> (rename_i e; rw [e] at hmsi)
    · exact .of_pmcgs hmsi
    · exact (KeepsCounts.of_pmcgs hmsi).trans (.ite (.refl _) (keepsCounts_setPmcg _ _ _ fun _ => rfl))

theorem keepsCounts_overflowEffects (s : State) (n k : Nat) : KeepsCounts s (overflowEffects s n k) := by
  unfold overflowEffects
  split
  · exact .refl s
  · extract_lets u
    have hcapture : KeepsCounts s u := .ite (keepsCounts_setPmcg _ _ _ counts_doCapture) (.refl s)
    exact hcapture.trans (.ite (keepsCounts_pmcgInterrupt _ _) (.refl u))

/-! ## One occurrence counted -/

/-- The value that counter k has after one more occurrence. -/
def nextCount (p : Pmcg) (k : Nat) : Nat := ((p.counter k).value.toNat + 1) % 2 ^ p.bits

/-- The group with counter k one further, and its overflow status set if it wrapped. -/
def incremented (p : Pmcg) (k : Nat) : Pmcg :=
  { p.setCounter k (fun c => { c with value := BitVec.ofNat 64 (nextCount p k) }) with
    ovs := if nextCount p k = 0 then putBit p.ovs k true else p.ovs }

theorem counter_incremented {p : Pmcg} {k : Nat} (hk : k < p.counters.length) (j : Nat) :
    ((incremented p k).counter j).value = if j = k then BitVec.ofNat 64 (nextCount p k) else (p.counter j).value := by
  have h := counter_setCounter hk (fun c => { c with value := BitVec.ofNat 64 (nextCount p k) }) j
  rw [show (incremented p k).counter j = _ from h]
  split <;> rfl

theorem ovs_incremented {k : Nat} (hk : k < 64) (p : Pmcg) (j : Nat) :
    (incremented p k).ovs.getLsbD j = (p.ovs.getLsbD j || (decide (j = k) && decide (nextCount p k = 0))) := by
  simp only [incremented]
  split
  · rename_i hwrap
    rw [putBit_getLsbD]
    by_cases hj : j = k
    · simp [hj, hk, hwrap]
    · simp [hj]
  · rename_i hwrap
    simp [hwrap]

/-- The group that counts shows the counts of `incremented`, whatever else its overflow does. -/
theorem countOne_counts {s : State} {n : Nat} {p : Pmcg} (k : Nat) (h : s.pmcgs[n]? = some p) :
    (countOne s n k).pmcgs[n]?.map counts = some (counts (incremented p k)) := by
  simp only [countOne, h]
  split
  · rename_i hwrap
    change nextCount p k = 0 at hwrap
    rw [(keepsCounts_overflowEffects _ n k).group n, setPmcg_pmcgs_same, setPmcg_pmcgs_same, h, incremented, if_pos hwrap]
    rfl
  · rename_i hwrap
    change nextCount p k ≠ 0 at hwrap
    rw [setPmcg_pmcgs_same, h, incremented, if_neg hwrap]
    rfl

theorem countOne_group {s : State} {n : Nat} {p : Pmcg} (k : Nat) (h : s.pmcgs[n]? = some p) :
    ∃ q, (countOne s n k).pmcgs[n]? = some q ∧ counts q = counts (incremented p k) :=
  Option.map_eq_some_iff.mp (countOne_counts k h)

/-! ## Occurrences not counted -/

theorem counterMatches_of_off (s : State) {p : Pmcg} (o : PmuOcc) {k : Nat}
    (h : p.cr.getLsbD 0 = false ∨ p.cnten.getLsbD k = false) : counterMatches s p o k = false := by
  unfold counterMatches
  rcases h with hcr | hcnten
  · simp only [hcr, Bool.and_false, Bool.false_and]
  · simp only [hcnten, Bool.and_false, Bool.false_and]

theorem countGroup_of_off {s : State} {n : Nat} {p : Pmcg} (o : PmuOcc) (h : s.pmcgs[n]? = some p)
    (hcr : p.cr.getLsbD 0 = false) : countGroup s o n = s := by
  have hnone : (List.range p.count).filter (counterMatches s p o) = [] :=
    List.filter_eq_nil_iff.mpr fun k _ => by simp [counterMatches_of_off s o (k := k) (.inl hcr)]
  simp only [countGroup, h, hnone, List.foldl_nil]

/-- Settles O59: what a group shows after an occurrence is what `incremented` shows; a counter that is off matches none. -/
theorem countersCount : Obligations.CountersCount := by
  unfold Obligations.CountersCount
  intro s n k p hp
  refine ⟨fun hlen hk => ?_, fun o hoff => counterMatches_of_off s o hoff, fun o hcr => countGroup_of_off o hp hcr⟩
  obtain ⟨q, hq, hcounts⟩ := countOne_group k hp
  refine ⟨q, hq, ?_, fun j hj => ?_, fun j => ?_⟩
  · rw [counter_value_of_counts hcounts, counter_incremented hlen, if_pos rfl, nextCount]
  · rw [counter_value_of_counts hcounts, counter_incremented hlen, if_neg hj]
  · rw [ovs_of_counts hcounts, ovs_incremented hk, nextCount]

end Sys2Proof.Proofs
end

section
/-! O54: what a store of bytes leaves in memory. -/

namespace Sys2Proof.Proofs

open Sys2Proof.Machine Sys2Proof.Safety

theorem pasCode_injective : Function.Injective Pas.code := by
  intro p q
  cases p <;> cases q <;> decide

/-- Two locations have one key only in one PA space and at one address in 56 bits (20_memory.md R600). -/
theorem memKey_eq_iff {p q : Pas} {a b : DWord} :
    memKey p a = memKey q b ↔ p = q ∧ a.toNat % 2 ^ 56 = b.toNat % 2 ^ 56 := by
  rw [← pasCode_injective.eq_iff, memKey, memKey]
  omega

theorem memory_bytes_getElem? {m : Memory} {pas : Pas} {n k : Nat} (addr : DWord) (h : k < n) :
    (m.bytes pas addr n)[k]? = some (m.get (memKey pas (addr + BitVec.ofNat 64 k))) := by
  induction n generalizing addr k with
  | zero => omega
  | succ n ih =>
    cases k with
    | zero => simp [Memory.bytes]
    | succ k =>
      have hstep : addr + 1 + BitVec.ofNat 64 k = addr + BitVec.ofNat 64 (k + 1) := by
        rw [Nat.add_comm k 1, BitVec.ofNat_add, BitVec.add_assoc]
        rfl
      rw [Memory.bytes, List.getElem?_cons_succ, ih (addr + 1) (by omega), hstep]

/-- A byte within a store reads as it was stored. -/
theorem byteAt_storeBytes_within {s : State} (hs : MemoryCanonical s) (pas : Pas) (addr : DWord) {bs : List Byte}
    (hlen : bs.length ≤ 2 ^ 56) {k : Nat} (hk : k < bs.length) :
    (s.storeBytes pas addr bs).byteAt pas (addr + BitVec.ofNat 64 k) = bs[k] := by
  have hread := memory_bytes_getElem? (m := s.mem.store pas addr bs) (pas := pas) addr hk
  rw [memory_bytes_store pas addr bs hs hlen, List.getElem?_eq_getElem hk] at hread
  exact (Option.some.inj hread).symm

/-- A byte outside a store, in another PA space or at another address, reads as before. -/
theorem byteAt_storeBytes_outside {s : State} (hs : MemoryCanonical s) {pas pas' : Pas} {addr a : DWord} {bs : List Byte}
    (h : pas' ≠ pas ∨ ∀ k < bs.length, a.toNat % 2 ^ 56 ≠ (addr.toNat + k) % 2 ^ 56) :
    (s.storeBytes pas addr bs).byteAt pas' a = s.byteAt pas' a := by
  refine memory_store_other pas addr bs _ hs fun k hk hkey => ?_
  obtain ⟨hpas, haddr⟩ := memKey_eq_iff.mp hkey
  rcases h with hne | hne
  · exact hne hpas
  · refine hne k hk ?_
    rw [haddr, BitVec.toNat_add, BitVec.toNat_ofNat]
    omega

/-- Settles O54: bytes within the store read back, those outside it stay, and every write keeps the canonical form. -/
theorem memoryReadsBack : Obligations.MemoryReadsBack := by
  unfold Obligations.MemoryReadsBack
  intro s pas addr bs hs hlen
  exact ⟨memory_store_wf pas addr bs hs, fun _ hk => byteAt_storeBytes_within hs pas addr hlen hk,
    fun _ _ h => byteAt_storeBytes_outside hs h⟩

end Sys2Proof.Proofs
end

section
/-! SUPPORT. How a forwarded write ends: its data is stored, or an exclusive monitor lets nothing be stored. -/

namespace Sys2Proof.Proofs

open Sys2Proof.Machine Sys2Proof.Safety Sys2Proof.Laws

/-! ## What the fetching of configuration structures may change is not seen by an access -/

theorem mem_of_only_fetch {s t : State} (h : Only State.sansFetch s t) : t.mem = s.mem := by
  have hmem : t.sansFetch.mem = s.sansFetch.mem := congrArg State.mem h.same
  exact hmem

theorem extAbort_of_only_fetch {s t : State} (h : Only State.sansFetch s t) : t.extAbort = s.extAbort := by
  have habort : t.sansFetch.extAbort = s.sansFetch.extAbort := congrArg State.extAbort h.same
  exact habort

theorem fetch_send (s : State) (o : Output) : Only State.sansFetch s (s.send o) := .of_same rfl rfl rfl rfl rfl rfl

theorem fetch_noteMpam (s : State) (m : Mpam) : Only State.sansFetch s (s.noteMpam m) := .of_same rfl rfl rfl rfl rfl rfl

theorem fetch_gbpMpam (s : State) (i : Sec) : Only State.sansFetch s (gbpMpam s i).2 := fetch_takeFree s

/-- A granule protection check reads neither the count of free values nor what is noted for the performance monitors. -/
theorem gpcCheck_noted (s : State) (n : Nat) (l : List PmuOcc) (m : Option Mpam) :
    gpcCheck { s with free := n, pmuLog := l, reqMpam := m } = gpcCheck s := rfl

theorem gpcCheck_noteGpt (s : State) (src : PmuSrc) (m : Mpam) (a : DWord) : gpcCheck (noteGpt s src m a) = gpcCheck s := by
  unfold noteGpt
  split
  · exact gpcCheck_noted s s.free _ s.reqMpam
  · rfl

theorem gpcCheck_noteMpam_gbpMpam (s : State) (i : Sec) (m : Mpam) :
    gpcCheck ((gbpMpam s i).2.noteMpam m) = gpcCheck s :=
  gpcCheck_noted s _ s.pmuLog (some m)

/-! ## The end of a write -/

/-- `t` answers with `o`, has memory `m`, and is like `s` but for what the fetching of configuration structures may change. -/
structure Answers (s t : State) (m : Memory) (o : Output) : Prop where
  rest : t.sansFetch = ({ s with mem := m } : State).sansFetch
  sent : o ∈ t.outputs

theorem Answers.mem {s t : State} {m : Memory} {o : Output} (h : Answers s t m o) : t.mem = m := congrArg State.mem h.rest

theorem Answers.after {s u t : State} {m : Memory} {o : Output} (h : Only State.sansFetch s u) (k : Answers u t m o) :
    Answers s t m o where
  rest := k.rest.trans (congrArg (fun v : State => { v with mem := m }) h.same)
  sent := k.sent

theorem answers_respond (s : State) (n : Nat) (r : Response) : Answers s (s.respond n r) s.mem (.response n r) :=
  ⟨rfl, by simp [State.respond]⟩

theorem answers_storeBytes_respond (s : State) (pas : Pas) (a : DWord) (bs : List Byte) (n : Nat) (r : Response) :
    Answers s ((s.storeBytes pas a bs).respond n r) (s.mem.store pas a bs) (.response n r) :=
  ⟨rfl, by simp [State.respond]⟩

/-- The ends of a write at an address: stored, or, of an Exclusive one, stored with EXOK or not stored
(32_special_transactions.md R1527; log entry 24). -/
inductive WriteEnds (s : State) (t : Txn) (pas : Pas) (a : DWord) (u : State) : Prop
  | stored (h : Answers s u (s.mem.store pas a t.data) (.response t.tag (.done [])))
  | exclusive (hx : t.exclusive = true) (h : Answers s u (s.mem.store pas a t.data) (.response t.tag (.exOkay [])))
  | notStored (hx : t.exclusive = true) (h : Answers s u s.mem (.response t.tag (.done [])))

theorem WriteEnds.after {s v u : State} {t : Txn} {pas : Pas} {a : DWord} (h : Only State.sansFetch s v)
    (k : WriteEnds v t pas a u) : WriteEnds s t pas a u := by
  have hmem := mem_of_only_fetch h
  cases k with
  | stored k => exact .stored (hmem ▸ k.after h)
  | exclusive hx k => exact .exclusive hx (hmem ▸ k.after h)
  | notStored hx k => exact .notStored hx (hmem ▸ k.after h)

theorem writeEnds_exclusiveAccess (s : State) {t : Txn} (pas : Pas) (a : DWord) (hx : t.exclusive = true) :
    WriteEnds s t pas a (exclusiveAccess s t .write pas a) := by
  refine .after (fetch_takeFree s) ?_
  simp only [exclusiveAccess]
  split
  · exact .exclusive hx (answers_storeBytes_respond ..)
  · exact .notStored hx (answers_respond ..)

theorem writeEnds_memAccess {s : State} {t : Txn} {pas : Pas} {a : DWord}
    (h : s.extAbort pas a (max 1 (max t.data.length t.len)) = false) :
    WriteEnds s t pas a (memAccess s t .write pas a) := by
  simp only [memAccess, h]
  exact .stored (answers_storeBytes_respond ..)

/-- A write sent out, its data stored or its fate left to the exclusive monitor. -/
theorem writeEnds_forward {s : State} {t : Txn} {pas : Pas} {a : DWord} {c : Prop} [Decidable c]
    (hexclusive : c → t.exclusive = true) (habort : s.extAbort pas a (max 1 (max t.data.length t.len)) = false) :
    WriteEnds s t pas a (if c then exclusiveAccess s t .write pas a else memAccess s t .write pas a) := by
  split
  · rename_i hc
    exact writeEnds_exclusiveAccess s pas a (hexclusive hc)
  · exact writeEnds_memAccess habort

theorem exclusive_of_staysExclusive {t : Txn} {a : Attrs} (h : staysExclusive t a = true) : t.exclusive = true :=
  Bool.and_elim_left h

theorem kindAfterAttrs_write (a : Attrs) : kindAfterAttrs a .write = some .write := by
  simp [kindAfterAttrs]

theorem gpcForKind_write (s : State) (o : GpcFrom) (pas : Pas) (a : DWord) :
    gpcForKind s o pas a .write = (some .write, gpcCheck s o pas a true) := rfl

/-- The output of a write that the granule protection check and the interconnect let pass. -/
theorem writeEnds_outputTxn {s : State} {t : Txn} {q : OutReq} {pas : Pas} (hkind : q.kind = some .write)
    (hgpc : gpcCheck s (.stream t.sec t.pm) q.pas q.addr true = .pass pas)
    (habort : s.extAbort pas q.addr (max 1 (max t.data.length t.len)) = false) :
    WriteEnds s t pas q.addr (outputTxn s t q) := by
  have hsame (o : Output) := ((fetch_noteGpt s (.stream t.sec t.sid t.pm) (q.partid, q.pmg, q.mpamSp) q.addr).trans
    (fetch_cacheGpi _ q.addr)).trans (fetch_send _ o)
  simp only [outputTxn, hkind, Option.bind_some, kindAfterAttrs_write, gpcForKind_write, gpcCheck_noteGpt, hgpc]
  refine .after (hsame _) (writeEnds_forward (fun hc => ?_) ?_)
  · simp only [Bool.and_eq_true] at hc
    obtain ⟨⟨hstays, _⟩, _⟩ := hc
    exact exclusive_of_staysExclusive hstays
  · rw [extAbort_of_only_fetch (hsame _), habort]

end Sys2Proof.Proofs
end

section
/-! O56: client transactions while SMMUEN is zero. -/

namespace Sys2Proof.Proofs

open Sys2Proof.Machine Sys2Proof.Laws

theorem processOt_of_disabled {s : State} {t : Txn} (hen : s.smmuEn t.sec = false) (hkind : unsupported s t = none) :
    processOt s t = bypassGlobal s t := by
  simp [processOt, hkind, hen]

/-- A Realm transaction, one beyond the OAS, and every one with ABORT is ended (23_translation.md R2801; 12_regs_control.md
R180). -/
theorem bypassGlobal_of_abort {s : State} {t : Txn}
    (h : t.sec = .rl ∨ 2 ^ s.ids.oas ≤ t.addr.toNat ∨ (s.iface t.sec).gbpaEff.getLsbD 20 = true) :
    bypassGlobal s t = s.respond t.tag (if t.kind.isHint then .done [] else .abort) := by
  unfold bypassGlobal
  exact if_pos (by tauto)

theorem sifForbids_ns (s : State) (ind ns : Bool) : sifForbids s .ns ind ns = false := by
  simp [sifForbids]

/-- A Non-secure transaction that bypasses goes out at its own address, with PARTID and PMG noted. -/
theorem bypassGlobal_ns {s : State} {t : Txn} (hsec : t.sec = .ns) (haddr : t.addr.toNat < 2 ^ s.ids.oas)
    (hgbpa : s.ns.gbpaEff.getLsbD 20 = false) :
    ∃ q : OutReq, q.pas = .ns ∧ q.addr = t.addr ∧ q.kind = t.kind.throughBypass s.ids ∧
      bypassGlobal s t = outputTxn ((gbpMpam s .ns).2.noteMpam (gbpMpam s .ns).1) t q := by
  unfold bypassGlobal
  simp only [hsec, State.iface, hgbpa, sifForbids_ns]
  rw [if_neg (by simp; omega)]
  exact ⟨_, rfl, rfl, rfl, rfl⟩

theorem throughBypass_write (d : Ids) : TxnKind.throughBypass d .write = some .write := by
  simp [TxnKind.throughBypass, TxnKind.downgrade]

/-- A Non-secure write that bypasses ends as the interconnect lets it, at its own address. -/
theorem writeEnds_bypassGlobal {s : State} {t : Txn} {pas : Pas} (hsec : t.sec = .ns)
    (haddr : t.addr.toNat < 2 ^ s.ids.oas) (hgbpa : s.ns.gbpaEff.getLsbD 20 = false) (hkind : t.kind = .write)
    (hgpc : gpcCheck s (.stream .ns t.pm) .ns t.addr true = .pass pas)
    (habort : s.extAbort pas t.addr (max 1 (max t.data.length t.len)) = false) :
    WriteEnds s t pas t.addr (bypassGlobal s t) := by
  obtain ⟨q, hqpas, hqaddr, hqkind, hout⟩ := bypassGlobal_ns hsec haddr hgbpa
  have hsame := (fetch_gbpMpam s .ns).trans (fetch_noteMpam _ (gbpMpam s .ns).1)
  rw [hout, ← hqaddr]
  refine .after hsame (writeEnds_outputTxn ?_ ?_ ?_)
  · rw [hqkind, hkind, throughBypass_write]
  · rw [hsec, hqpas, hqaddr, gpcCheck_noteMpam_gbpMpam, hgpc]
  · rw [hqaddr, extAbort_of_only_fetch hsame, habort]

/-- Settles O56: the disabled SMMU does what `bypassGlobal` does, which aborts, or forwards the write. -/
theorem disabledBypass : Obligations.DisabledBypass := by
  unfold Obligations.DisabledBypass
  intro s t hen hsupported
  rw [processOt_of_disabled hen hsupported]
  constructor
  · intro hhint habort
    rw [bypassGlobal_of_abort habort, hhint]
    rfl
  · intro hsec haddr hgbpa hkind pas hgpc habort
    cases writeEnds_bypassGlobal hsec haddr hgbpa hkind hgpc habort with
    | stored h => exact ⟨h.mem ▸ h.rest, .inl ⟨h.mem, h.sent⟩⟩
    | exclusive hx h => exact ⟨h.mem ▸ h.rest, .inr (.inl ⟨hx, h.mem, h.sent⟩)⟩
    | notStored hx h => exact ⟨h.mem ▸ h.rest, .inr (.inr ⟨hx, h.mem, h.sent⟩)⟩

end Sys2Proof.Proofs
end

section
/-! SUPPORT. The errors of the Command queues: what CONS of the queue holds after one, that the queue stops, and how its
reporting ends (27_queues.md R723, R741 to R743). -/

namespace Sys2Proof.Proofs

open Sys2Proof.Machine Sys2Proof.Safety Sys2Proof.Laws

/-! ## The error flag of CONS and its reason -/

theorem fieldNat_putField {w : Nat} (x : BitVec w) {lo k v : Nat} (hlo : lo + k ≤ w) (hv : v < 2 ^ k) :
    fieldNat (putField x lo k v) lo k = v := by
  refine Nat.eq_of_testBit_eq fun n => ?_
  rw [fieldNat, BitVec.testBit_toNat, BitVec.getLsbD_extractLsb', putField_getLsbD]
  by_cases hn : n < k
  · rw [if_pos (by omega), Nat.add_sub_cancel_left, decide_eq_true hn, Bool.true_and]
  · have habove : v < 2 ^ n := hv.trans_le (Nat.pow_le_pow_right (by decide) (by omega))
    rw [decide_eq_false hn, Bool.false_and, Nat.testBit_lt_two_pow habove]

/-- Toggling an error flag below its reason, and writing the reason, toggles the flag. -/
theorem putField_toggleBit_flag (c : BitVec 32) {k lo : Nat} (v : Nat) (hk : k < lo) (hlo : lo ≤ 32) :
    (putField (toggleBit c k) lo 3 v).getLsbD k = !c.getLsbD k := by
  rw [putField_getLsbD, if_neg (by omega), toggleBit_getLsbD, decide_eq_true (by omega), Bool.xor_true]

/-- The bits that are neither the flag nor the reason, among them RD, stay. -/
theorem putField_toggleBit_other (c : BitVec 32) {k lo n : Nat} (v : Nat) (hk : n ≠ k) (hlo : n < lo ∨ lo + 3 ≤ n) :
    (putField (toggleBit c k) lo 3 v).getLsbD n = c.getLsbD n := by
  rw [putField_getLsbD, if_neg (by omega), toggleBit_other _ _ _ hk]

theorem cmdErr_code_lt (e : CmdErr) : e.code < 2 ^ 3 := by cases e <;> decide

theorem hsErr_code_lt (e : HsErr) : e.code < 2 ^ 3 := by cases e <;> decide

/-! ## A queue with an active error stops -/

/-- Toggling the flag of an error that is not active makes it active. -/
theorem active_of_toggled {c c' p : BitVec 32} {k : Nat} (h : c'.getLsbD k = !c.getLsbD k)
    (hok : (c.getLsbD k != p.getLsbD k) = false) : (c'.getLsbD k != p.getLsbD k) = true := by
  rw [h]
  simpa using hok

theorem canProgress_ecmdq_of_errActive {s : State} {i : Sec} {n : Nat} {q : Ecmdq} (hq : s.ecmdqAt i n = some q)
    (herr : q.errActive = true) : s.canProgress (.ecmdq i n) = false := by
  simp [State.canProgress, hq, herr]

theorem canProgress_dcmdq_of_active {s : State} {i : Sec} {n : Nat} {q : Ecmdq} (hq : s.ecmdqAt i n = some q)
    (herr : q.errActive = true ∨ q.hsErrActive = true) : s.canProgress (.dcmdq i n) = false := by
  rcases herr with herr | herr
  · simp [State.canProgress, hq, herr]
  · simp [State.canProgress, hq, herr]

/-! ## The queue and the error flags after each operation -/

theorem ecmdqAt_setEcmdq {s : State} {i : Sec} {n : Nat} {q : Ecmdq} (f : Ecmdq → Ecmdq) (hq : s.ecmdqAt i n = some q) :
    (s.setEcmdq i n f).ecmdqAt i n = some (f q) := by
  have hget : (s.iface i).ecmdqs[n]? = some q := hq
  rw [State.ecmdqAt, State.setEcmdq, State.setIface_iface_same, List.getElem?_modify_eq, hget]
  rfl

theorem gerrActive_setEcmdq (s : State) (i : Sec) (n : Nat) (f : Ecmdq → Ecmdq) (e : GErr) :
    gerrActive ((s.setEcmdq i n f).iface i) e = gerrActive (s.iface i) e := by
  rw [State.setEcmdq, State.setIface_iface_same]
  rfl

theorem ecmdqAt_of_onlyGerror {s t : State} {i : Sec} {e : GErr} (h : OnlyGerror s t i e) (n : Nat) :
    t.ecmdqAt i n = s.ecmdqAt i n := by
  rw [State.ecmdqAt, h.iface]
  rfl

/-- A flag that is neither that of the error nor that of an aborted GERROR MSI says what it said. -/
theorem gerrActive_of_onlyGerror {s t : State} {i : Sec} {e x : GErr} (h : OnlyGerror s t i e)
    (he : gerrBit x ≠ gerrBit e) (hmsi : gerrBit x ≠ gerrBit .msiGerror) :
    gerrActive (t.iface i) x = gerrActive (s.iface i) x := by
  have hgerrorn : (t.iface i).gerrorn = (s.iface i).gerrorn := by rw [h.iface]
  rw [gerrActive, gerrActive, h.flags _ he hmsi, hgerrorn]

/-! ## Raising a global error makes it active -/

theorem gerrBit_lt (e : GErr) : gerrBit e < 32 := by cases e <;> decide

theorem gerrBit_ne_msiGerror {e : GErr} (h : e ≠ .msiGerror) : gerrBit e ≠ gerrBit .msiGerror := by
  cases e with
  | msiGerror => exact absurd rfl h
  | _ => decide

theorem gerrActive_toggleGerror_same (s : State) (i : Sec) (e : GErr) :
    gerrActive ((toggleGerror s i e).iface i) e = !gerrActive (s.iface i) e := by
  simp only [toggleGerror, State.setIface_iface_same, gerrActive, toggleBit_getLsbD, gerrBit_lt, and_self, decide_true,
    Bool.xor_true, Bool.not_bne]

theorem gerrActive_toggleGerror_other (s : State) (i : Sec) {e x : GErr} (h : gerrBit e ≠ gerrBit x) :
    gerrActive ((toggleGerror s i x).iface i) e = gerrActive (s.iface i) e := by
  simp [toggleGerror, gerrActive, toggleBit_other _ _ _ h]

/-- An error that the interface has is active once it was raised, whatever becomes of its interrupt (60_exceptions.md R2175). -/
theorem gerrActive_raiseGerror {s : State} {i : Sec} {e : GErr} (hp : gerrPresent s.ids i e = true) :
    gerrActive ((raiseGerror s i e).iface i) e = true := by
  unfold raiseGerror
  split
  · rename_i hidle
    simpa [hp] using hidle
  · rename_i hraise
    have hoff : gerrActive (s.iface i) e = false := by simpa [hp] using hraise
    have hon : gerrActive ((toggleGerror s i e).iface i) e = true := by rw [gerrActive_toggleGerror_same, hoff]; rfl
    dsimp only
    split
    · exact hon
    · rename_i hmsi
      have hirq := (quiet_signalGerror (toggleGerror s i e) i).1.iface i
      split <;> (rename_i heq; rw [heq] at hirq)
      · rw [hirq, hon]
      · split
        · rw [gerrActive_toggleGerror_other _ i (gerrBit_ne_msiGerror hmsi), hirq, hon]
        · rw [hirq, hon]

/-! ## The reporting of an error of a DCMDQ -/

/-- `reportDcmdqPage` reports as R741 and R742 say. -/
theorem pageReported_reportDcmdqPage (s : State) (i : Sec) (n : Nat) : PageReported i n s (reportDcmdqPage s i n) := by
  simp only [PageReported, reportDcmdqPage]
  split
  · rfl
  · exact ⟨fun hp => gerrActive_raiseGerror (by simpa using hp), onlyGerror_raiseGerror _ _ _⟩

/-- The reporting of an error leaves the queues alone. -/
theorem ecmdqAt_of_pageReported {s t : State} {i : Sec} {n : Nat} (h : PageReported i n s t) : t.ecmdqAt i n = s.ecmdqAt i n := by
  simp only [PageReported] at h
  split at h
  · rw [h]
  · obtain ⟨-, honly⟩ := h
    rw [ecmdqAt_of_onlyGerror honly, State.ecmdqAt, State.setIface_iface_same]
    rfl

end Sys2Proof.Proofs
end

section
/-! O43: a command error of an ECMDQ. -/

namespace Sys2Proof.Proofs

open Sys2Proof.Machine Sys2Proof.Safety Sys2Proof.Laws

theorem takeCmdError_ecmdq {s : State} {i : Sec} {n : Nat} (e : CmdErr) (hcur : s.cur = .ecmdq i n) :
    takeCmdError s e = raiseGerror (s.setCons s.cur fun c => putField (toggleBit c 23) 24 3 e.code) i .cmdqp := by
  rw [takeCmdError, hcur]

/-- CONS of an ECMDQ after its error was written and a global error raised; nothing else of the queue changes. -/
theorem ecmdqAt_raiseGerror_setCons {s : State} {i : Sec} {n : Nat} {q : Ecmdq} (f : BitVec 32 → BitVec 32) (x : GErr)
    (hcur : s.cur = .ecmdq i n) (hq : s.ecmdqAt i n = some q) :
    (raiseGerror (s.setCons s.cur f) i x).ecmdqAt i n = some { q with cons := f q.cons } := by
  rw [ecmdqAt_of_onlyGerror (onlyGerror_raiseGerror _ i x), hcur]
  exact ecmdqAt_setEcmdq (fun d => { d with cons := f d.cons }) hq

/-- The error state of the Command queue after an error of an ECMDQ: neither CONS of the ECMDQ nor CMDQP_ERR is part of it. -/
theorem gerrActive_cmdq_raiseGerror_setCons {s : State} {i : Sec} {n : Nat} (f : BitVec 32 → BitVec 32)
    (hcur : s.cur = .ecmdq i n) :
    gerrActive ((raiseGerror (s.setCons s.cur f) i .cmdqp).iface i) .cmdq = gerrActive (s.iface i) .cmdq := by
  rw [gerrActive_of_onlyGerror (onlyGerror_raiseGerror _ i .cmdqp) (by decide) (by decide), hcur]
  exact gerrActive_setEcmdq s i n (fun d => { d with cons := f d.cons }) .cmdq

/-- Settles O43: the error is written to CONS, then CMDQP_ERR is raised, which leaves the queues and CMDQ_ERR alone. -/
theorem commandErrorOfAnEcmdq : Obligations.CommandErrorOfAnEcmdq := by
  unfold Obligations.CommandErrorOfAnEcmdq
  intro s i n q e hcur hq
  rw [takeCmdError_ecmdq e hcur]
  have hflag := putField_toggleBit_flag q.cons e.code (k := 23) (lo := 24) (by omega) (by omega)
  have hqueue := ecmdqAt_raiseGerror_setCons (fun c => putField (toggleBit c 23) 24 3 e.code) .cmdqp hcur hq
  exact ⟨_, hqueue, fun k hk => putField_toggleBit_other q.cons e.code (by omega) (by omega), hflag,
    fieldNat_putField _ (by omega) (cmdErr_code_lt e), fun hp => gerrActive_raiseGerror (by simpa using hp),
    fun hok => canProgress_ecmdq_of_errActive hqueue (active_of_toggled hflag hok),
    gerrActive_cmdq_raiseGerror_setCons _ hcur, onlyGerror_raiseGerror _ _ _⟩

end Sys2Proof.Proofs
end

section
/-! O44: the errors of a DCMDQ. -/

namespace Sys2Proof.Proofs

open Sys2Proof.Machine Sys2Proof.Safety Sys2Proof.Laws

theorem takeCmdError_dcmdq {s : State} {i : Sec} {n : Nat} (e : CmdErr) (hcur : s.cur = .dcmdq i n) :
    takeCmdError s e = reportDcmdqPage (s.setCons s.cur fun c => putField (toggleBit c 23) 24 3 e.code) i n := by
  rw [takeCmdError, hcur]

theorem takeHsError_dcmdq {s : State} {i : Sec} {n : Nat} (h : HsErr) (hcur : s.cur = .dcmdq i n) :
    takeHsError s h = reportDcmdqPage (s.setCons s.cur fun c => putField (toggleBit c 22) 27 3 h.code) i n := by
  rw [takeHsError, hcur]
  rfl

/-- CONS of a DCMDQ after its error was written and reported; nothing else of the queue changes. -/
theorem ecmdqAt_reportDcmdqPage_setCons {s : State} {i : Sec} {n : Nat} {q : Ecmdq} (f : BitVec 32 → BitVec 32)
    (hcur : s.cur = .dcmdq i n) (hq : s.ecmdqAt i n = some q) :
    (reportDcmdqPage (s.setCons s.cur f) i n).ecmdqAt i n = some { q with cons := f q.cons } := by
  rw [ecmdqAt_of_pageReported (pageReported_reportDcmdqPage _ i n), hcur]
  exact ecmdqAt_setEcmdq (fun d => { d with cons := f d.cons }) hq

/-- A stalled access of a DCMDQ that ends is its failed translation, if the queue has not stopped meanwhile (R743). -/
theorem endStall_dcmdq {s : State} {i : Sec} {n : Nat} {q : Ecmdq} (qsid : BitVec 32) (r : Response)
    (hcur : s.cur = .dcmdq i n) (hq : s.ecmdqAt i n = some q) :
    endStall s (.dcmdq i n qsid) r = if q.dcEnabled = true ∧ q.hsErrActive = false then takeHsError s .ipa else s := by
  rw [endStall, takeHsError, hcur, hq]
  simp

/-- Settles O44: either error is written to CONS of the queue and then reported, which leaves the queues alone. -/
theorem errorsOfADcmdq : Obligations.ErrorsOfADcmdq := by
  unfold Obligations.ErrorsOfADcmdq
  intro s i n q e h hcur hq
  rw [takeCmdError_dcmdq e hcur, takeHsError_dcmdq h hcur]
  have hcmd := putField_toggleBit_flag q.cons e.code (k := 23) (lo := 24) (by omega) (by omega)
  have hhs := putField_toggleBit_flag q.cons h.code (k := 22) (lo := 27) (by omega) (by omega)
  have hcmdQueue := ecmdqAt_reportDcmdqPage_setCons (fun c => putField (toggleBit c 23) 24 3 e.code) hcur hq
  have hhsQueue := ecmdqAt_reportDcmdqPage_setCons (fun c => putField (toggleBit c 22) 27 3 h.code) hcur hq
  exact ⟨⟨_, hcmdQueue, fun k hk => putField_toggleBit_other q.cons e.code (by omega) (by omega), hcmd,
      fieldNat_putField _ (by omega) (cmdErr_code_lt e),
      fun hok => canProgress_dcmdq_of_active hcmdQueue (.inl (active_of_toggled hcmd hok))⟩,
    ⟨_, hhsQueue, fun k hk => putField_toggleBit_other q.cons h.code (by omega) (by omega), hhs,
      fieldNat_putField _ (by omega) (hsErr_code_lt h),
      fun hok => canProgress_dcmdq_of_active hhsQueue (.inr (active_of_toggled hhs hok))⟩,
    pageReported_reportDcmdqPage _ i n, pageReported_reportDcmdqPage _ i n, fun qsid r => endStall_dcmdq qsid r hcur hq⟩

end Sys2Proof.Proofs
end

section
/-! O1 to O4: the decoder and the encoder, and the running of a fetched word. -/

namespace Sys2Proof.Proofs

open Sys2Proof.Machine Sys2Proof.Laws

/-! ## Bytes and words -/

theorem leNat_leBytes (n x : Nat) : leNat (leBytes n x) = x % 256 ^ n := by
  induction n generalizing x with
  | zero => simp [leBytes, leNat, Nat.mod_one]
  | succ n ih =>
    rw [leBytes, leNat, ih, BitVec.toNat_ofNat, pow_succ' 256 n]
    exact Nat.mod_mul.symm

theorem wordOfBytes_leBytes (w : CmdWord) : wordOfBytes (leBytes 16 w.toNat) = w := by
  have hlt : w.toNat < 256 ^ 16 := w.isLt
  rw [wordOfBytes, leNat_leBytes, Nat.mod_eq_of_lt hlt, BitVec.ofNat_toNat, BitVec.setWidth_eq]

/-- The word of every well-formed command decodes to it. -/
theorem decodeWord_encode : ∀ i : Instr, i.wellFormed = true → decodeWord (encode i) = .ok i
  | .prefetchConfig .. => RoundTrip.prefetchConfig _ _ _ _
  | .prefetchAddr .. => RoundTrip.prefetchAddr _ _ _ _ _ _ _ _
  | .cfgiSte .. => RoundTrip.cfgiSte _ _ _
  | .cfgiSteRange .. => RoundTrip.cfgiSteRange _ _ _
  | .cfgiAll .. => RoundTrip.cfgiAll _ _
  | .cfgiCd .. => RoundTrip.cfgiCd _ _ _ _
  | .cfgiCdAll .. => RoundTrip.cfgiCdAll _ _
  | .cfgiVmsPidm .. => RoundTrip.cfgiVmsPidm _ _
  | .cfgiCit .. => RoundTrip.cfgiCit _
  | .cfgiVsttVsid .. => RoundTrip.cfgiVsttVsid _ _
  | .cfgiVstt .. => RoundTrip.cfgiVstt _
  | .tlbiNhAll .. => RoundTrip.tlbiNhAll _
  | .tlbiNhAsid .. => RoundTrip.tlbiNhAsid _ _
  | .tlbiNhVa .. => RoundTrip.tlbiNhVa _ _ _ _ _
  | .tlbiNhVaa .. => RoundTrip.tlbiNhVaa _ _ _ _
  | .tlbiEl3All => RoundTrip.tlbiEl3All
  | .tlbiEl3Va .. => RoundTrip.tlbiEl3Va _ _ _
  | .tlbiEl2All => RoundTrip.tlbiEl2All
  | .tlbiEl2Asid .. => RoundTrip.tlbiEl2Asid _
  | .tlbiEl2Va .. => RoundTrip.tlbiEl2Va _ _ _ _
  | .tlbiEl2Vaa .. => RoundTrip.tlbiEl2Vaa _ _ _
  | .tlbiS12Vmall .. => RoundTrip.tlbiS12Vmall _
  | .tlbiS2Vmallw .. => RoundTrip.tlbiS2Vmallw _
  | .tlbiS2Ipa .. => RoundTrip.tlbiS2Ipa _ _ _ _
  | .tlbiNsnhAll => RoundTrip.tlbiNsnhAll
  | .atcInv .. => RoundTrip.atcInv _ _ _ _ _ _
  | .priResp .. => RoundTrip.priResp _ _ _ _ _
  | .resume .. => RoundTrip.resume _ _ _ _ _
  | .stallTerm .. => RoundTrip.stallTerm _ _
  | .sync .. => RoundTrip.sync _ _ _ _ _ _
  | .tlbiSEl2All => RoundTrip.tlbiSEl2All
  | .tlbiSEl2Asid .. => RoundTrip.tlbiSEl2Asid _
  | .tlbiSEl2Va .. => RoundTrip.tlbiSEl2Va _ _ _ _
  | .tlbiSEl2Vaa .. => RoundTrip.tlbiSEl2Vaa _ _ _
  | .tlbiSS12Vmall .. => RoundTrip.tlbiSS12Vmall _
  | .tlbiSS2Vmallw .. => RoundTrip.tlbiSS2Vmallw _
  | .tlbiSS2Ipa .. => RoundTrip.tlbiSS2Ipa _ _ _ _ _
  | .tlbiSnhAll => RoundTrip.tlbiSnhAll
  | .dptiAll => RoundTrip.dptiAll
  | .dptiPa .. => RoundTrip.dptiPa _ _ _

/-- Settles O1: the bytes of an encoding give its word back, and each command's word decodes to it. -/
theorem decodeOfEncode : Obligations.DecodeOfEncode := by
  unfold Obligations.DecodeOfEncode
  intro i hwf
  rw [decode, encodeBytes, wordOfBytes_leBytes]
  exact decodeWord_encode i hwf

/-! ## What the decoder answers -/

/-- The opcodes of the commands (30_encoding.md R1801). -/
def commandOpcodes : List Nat :=
  [0x01, 0x02, 0x03, 0x04, 0x05, 0x06, 0x07, 0x08, 0x09, 0x0A, 0x10, 0x11, 0x12, 0x13, 0x18, 0x1A, 0x20, 0x21, 0x22, 0x23,
   0x28, 0x29, 0x2A, 0x30, 0x40, 0x41, 0x44, 0x45, 0x46, 0x50, 0x51, 0x52, 0x53, 0x58, 0x59, 0x5A, 0x60, 0x70, 0x73]

/-- Each bit that is one in `a` is one in `w`. -/
def Stands (a w : CmdWord) : Prop := a &&& w = a

theorem stands_iff {a w : CmdWord} : Stands a w ↔ ∀ k, a.getLsbD k = true → w.getLsbD k = true := by
  rw [Stands, BitVec.eq_of_getLsbD_eq_iff]
  constructor
  · intro h k hk
    have := h k (BitVec.lt_of_getLsbD hk)
    rw [BitVec.getLsbD_and, hk, Bool.true_and] at this
    exact this
  · intro h k _
    rw [BitVec.getLsbD_and]
    cases ha : a.getLsbD k with
    | false => rfl
    | true => rw [h k ha, Bool.and_self]

@[simp] theorem stands_or {a b w : CmdWord} : Stands (a ||| b) w ↔ Stands a w ∧ Stands b w := by
  simp only [stands_iff, BitVec.getLsbD_or, Bool.or_eq_true, or_imp, forall_and]

/-- A field read from a word stands in it. -/
@[simp] theorem stands_fld_extractLsb' (w : CmdWord) (lo n : Nat) : Stands (fld lo (w.extractLsb' lo n)) w := by
  rw [stands_iff]
  intro k hk
  simp only [fld, BitVec.getLsbD_shiftLeft, BitVec.getLsbD_setWidth, BitVec.getLsbD_extractLsb', Bool.and_eq_true,
    Bool.not_eq_true', decide_eq_false_iff_not, Nat.not_lt, decide_eq_true_eq] at hk
  obtain ⟨⟨-, hlo⟩, -, -, hw⟩ := hk
  rwa [Nat.add_sub_cancel' hlo] at hw

/-- A bit read from a word stands in it. -/
@[simp] theorem stands_flag_getElem {w : CmdWord} {lo : Nat} (h : lo < 128) : Stands (flag lo w[lo]) w := by
  have hbit : BitVec.ofBool w[lo] = w.extractLsb' lo 1 := by
    ext k hk
    obtain rfl : k = 0 := by omega
    simp [BitVec.getLsbD_eq_getElem h]
  rw [flag, hbit]
  exact stands_fld_extractLsb' w lo 1

@[simp] theorem stands_putRange (w : CmdWord) : Stands (putRange (rangeOf w)) w := by
  simp [putRange, rangeOf]

/-- A field whose value in a word is known stands in it. -/
theorem stands_fld_of_toNat {w : CmdWord} {lo n : Nat} {x : BitVec n} (h : (w.extractLsb' lo n).toNat = x.toNat) :
    Stands (fld lo x) w := by
  rw [← BitVec.eq_of_toNat_eq h]
  exact stands_fld_extractLsb' w lo n

/-- A word that decodes has an opcode of R1801, and the encoding of its command, which is well-formed, stands in it: the
opcode of the row taken, then each field, read where the encoder places it. -/
theorem decodeWord_ok {w : CmdWord} {i : Instr} (h : decodeWord w = .ok i) :
    (w.extractLsb' 0 8).toNat ∈ commandOpcodes ∧ i.wellFormed = true ∧ Stands (encode i) w := by
  unfold decodeWord at h
  split at h
  -- Opcode 0x04 is CMD_CFGI_ALL or CMD_CFGI_STE_RANGE by its Range (R1880); the last row is no command.
  case h_4 hop =>
    split at h
    next hrange =>
      cases h
      have hstands : Stands (fld 64 31#5) w := stands_fld_of_toNat (congrArg BitVec.toNat hrange)
      simp [commandOpcodes, hop, Instr.wellFormed, encode, stands_fld_of_toNat, hstands]
    next hrange =>
      cases h
      simp [commandOpcodes, hop, Instr.wellFormed, encode, stands_fld_of_toNat, hrange]
  case h_40 => split at h <;> cases h
  all_goals
    rename_i hop
    cases h
    simp [commandOpcodes, hop, Instr.wellFormed, encode, stands_fld_of_toNat]

/-- A word that does not decode has another opcode, which says why. -/
theorem decodeWord_error {w : CmdWord} {e : DecodeError} (h : decodeWord w = .error e) :
    (w.extractLsb' 0 8).toNat ∉ commandOpcodes ∧
      e = if 0x80 ≤ (w.extractLsb' 0 8).toNat ∧ (w.extractLsb' 0 8).toNat ≤ 0x8F then
        .implementationDefined (w.extractLsb' 0 8) else .reservedOpcode (w.extractLsb' 0 8) := by
  unfold decodeWord at h
  split at h
  case h_4 => split at h <;> cases h
  case h_40 =>
    refine ⟨by simp_all [commandOpcodes], ?_⟩
    split at h
    next hrange => cases h; exact (if_pos hrange).symm
    next hrange => cases h; exact (if_neg hrange).symm
  all_goals cases h

theorem decodeWord_isOk_iff (w : CmdWord) :
    (∃ i, decodeWord w = .ok i) ↔ (w.extractLsb' 0 8).toNat ∈ commandOpcodes := by
  constructor
  · rintro ⟨i, h⟩
    exact (decodeWord_ok h).1
  · intro hop
    cases h : decodeWord w with
    | ok i => exact ⟨i, rfl⟩
    | error e => exact absurd hop (decodeWord_error h).1

theorem commandOpcodes_lt : ∀ op ∈ commandOpcodes, op < 0x80 := by decide

theorem decodeWord_implementationDefined_iff (w : CmdWord) :
    decodeWord w = .error (.implementationDefined (w.extractLsb' 0 8)) ↔
      0x80 ≤ (w.extractLsb' 0 8).toNat ∧ (w.extractLsb' 0 8).toNat ≤ 0x8F := by
  cases h : decodeWord w with
  | ok i =>
    have hop := commandOpcodes_lt _ (decodeWord_ok h).1
    simp only [reduceCtorEq, false_iff]
    omega
  | error e =>
    rw [(decodeWord_error h).2]
    split <;> simp_all

/-! ## The running of a fetched word -/

theorem runWord_of_error {w : CmdWord} {e : DecodeError} (s : State) (h : decodeWord w = .error e) :
    runWord s w = .next (takeCmdError s .ill) := by
  rw [runWord, h]
  rfl

/-- A Reserved field that is not zero, where the implementation checks them (R1802). -/
theorem runWord_of_res0 {s : State} {w : CmdWord} {i : Instr} (h : decodeWord w = .ok i)
    (hchecked : s.impl.cmdRes0Checked = true) (hset : encode i ≠ w ∨ res0Set s i = true) :
    runWord s w = .next (takeCmdError s .ill) := by
  simp only [runWord, h]
  rw [if_pos (by simpa [hchecked] using hset)]
  rfl

theorem runWord_of_ok {s : State} {w : CmdWord} {i : Instr} (h : decodeWord w = .ok i)
    (hclear : s.impl.cmdRes0Checked = false ∨ (encode i = w ∧ res0Set s i = false)) : runWord s w = exec i s := by
  simp only [runWord, h]
  rcases hclear with hfree | ⟨rfl, hzero⟩
  · simp [hfree]
  · simp [hzero]

/-! ## The obligations -/

/-- Settles O2: the decoder reads each field where the encoder places it. -/
theorem encodingStandsInTheWord : Obligations.EncodingStandsInTheWord := by
  unfold Obligations.EncodingStandsInTheWord
  exact fun w i h => (decodeWord_ok h).2

/-- Settles O3: the rows of the decoder are the opcodes of R1801, and 0x80 to 0x8F are none of them. -/
theorem opcodesOfCommands : Obligations.OpcodesOfCommands := by
  unfold Obligations.OpcodesOfCommands
  intro w
  refine ⟨decodeWord_isOk_iff w, decodeWord_implementationDefined_iff w, fun s hnone => ?_⟩
  cases h : decodeWord w with
  | ok i => exact absurd h (hnone i)
  | error e => exact runWord_of_error s h

/-- Settles O4, by evaluation of the decoder at each word. -/
theorem specWordsDecode : Obligations.SpecWordsDecode := by
  unfold Obligations.SpecWordsDecode
  decide

end Sys2Proof.Proofs
end

section
/-! O49: no command changes a register that software configures. -/

namespace Sys2Proof.Proofs

open Sys2Proof.Machine Sys2Proof.Safety Sys2Proof.Laws

/-- Settles O49: each command answers a next state, and changes at most what commands change. -/
theorem commandsKeepConfiguration : Obligations.CommandsKeepConfiguration := by
  unfold Obligations.CommandsKeepConfiguration
  intro i s
  obtain ⟨t, hexec, hobeys⟩ := obeysTo_exec i s
  exact ⟨t, hexec, hobeys.only.same⟩

end Sys2Proof.Proofs
end

section
/-! O5, O45: the fetching of a command, and the step that runs it. -/

namespace Sys2Proof.Proofs

open Sys2Proof.Machine Sys2Proof.Safety Sys2Proof.Laws

/-! ## What a fetch reads -/

theorem memory_bytes_eq_map (m : Memory) (pas : Pas) (addr : DWord) (n : Nat) :
    m.bytes pas addr n = (List.range n).map fun k => m.get (memKey pas (addr + BitVec.ofNat 64 k)) := by
  have hlen : (m.bytes pas addr n).length = n := by
    induction n generalizing addr with
    | zero => rfl
    | succ n ih => rw [Memory.bytes, List.length_cons, ih]
  refine List.ext_getElem? fun k => ?_
  by_cases hk : k < n
  · rw [memory_bytes_getElem? addr hk]
    simp [hk]
  · rw [List.getElem?_eq_none (by omega), List.getElem?_eq_none (by simpa using hk)]

theorem bytesNat_eq_leNat (bs : List Byte) : bytesNat bs = leNat bs := by
  induction bs with
  | nil => rfl
  | cons b bs ih => rw [bytesNat, leNat, ih]

/-- What an access that is made returns is the number in memory after it, which it does not change. -/
theorem smmuRead_ok {s u : State} {o : AccFrom} {pas : Pas} {addr : DWord} {n w : Nat} {c : FarCode} {report : Bool}
    (h : smmuRead s o pas addr n c report = (.ok w, u)) : w = s.mem.readNat pas addr n ∧ u.sansFetch = s.sansFetch := by
  have hsame : u.sansFetch = s.sansFetch := (only_snd (fetch_smmuRead s o pas addr n c report) h).same
  have hmem : u.mem = s.mem := by have := congrArg State.mem hsame; exact this
  refine ⟨?_, hsame⟩
  unfold smmuRead at h
  split at h
  · cases h
  · cases h
    rw [hmem]

/-- The word of a queue entry is that of the 16 bytes at its address, in their order (30_encoding.md R1800). -/
theorem ofNat_readNat (s : State) (pas : Pas) (addr : DWord) :
    BitVec.ofNat 128 (s.mem.readNat pas addr 16) =
      wordOfBytes ((List.range 16).map fun k => s.byteAt pas (addr + BitVec.ofNat 64 k)) := by
  rw [Memory.readNat, bytesNat_eq_leNat, memory_bytes_eq_map]
  rfl

/-! ## What the fetch of a queue leads to -/

theorem runQueue_of_physical {s : State} {q : QueueId} {r : QueueRegs} (hq : q.isDirect = false)
    (hr : s.queueRegs q = some r) : runQueue s q = fetchRun s q r := by
  cases q with
  | main i => rw [runQueue, hr]
  | ecmdq i n => rw [runQueue, hr]
  | dcmdq i n => cases hq

theorem runQueue_of_direct {s : State} {i : Sec} {n : Nat} {r : QueueRegs} (hr : s.queueRegs (.dcmdq i n) = some r) :
    runQueue s (.dcmdq i n) = fetchRunDirect s i n r := by
  rw [runQueue, hr]

/-- The read of the command at CONS.RD of a queue whose fetches are physical, made in the state that processes the queue. -/
def entryRead (s : State) (q : QueueId) (r : QueueRegs) : Except MemErr Nat × State :=
  smmuRead s (s.cmdqAcc q) q.sec.pas (s.entryAt r.base (cmdqLog2 s r.base) 4 r.cons) 16 .cmdq

theorem fetchRun_of_error {s u : State} {q : QueueId} {r : QueueRegs} {e : MemErr}
    (h : entryRead { s with cur := q } q r = (.error e, u)) : fetchRun s q r = .next (takeCmdError u .abt) := by
  rw [entryRead] at h
  rw [fetchRun, h]
  rfl

theorem fetchRun_of_ok {s u : State} {q : QueueId} {r : QueueRegs} {w : Nat}
    (h : entryRead { s with cur := q } q r = (.ok w, u)) : fetchRun s q r = runWord u (BitVec.ofNat 128 w) := by
  rw [entryRead] at h
  rw [fetchRun, h]

/-- The translation of the address of the command at CONS.RD of a DCMDQ, made in the state that processes it. -/
def entryTranslate (s : State) (i : Sec) (n : Nat) (r : QueueRegs) : DcmdqOut × State :=
  dcmdqTranslate s i n (entryAddr r.base (cmdqLog2 s r.base) 4 r.cons) false (dcmdqFetchAttrs r.base)

section Direct

variable {s u v : State} {i : Sec} {n : Nat} {r : QueueRegs} {pa : DWord} {pas : Pas} {a : Attrs} {o : AccFrom}

theorem fetchRunDirect_of_failed (h : entryTranslate { s with cur := .dcmdq i n } i n r = (.failed, u)) :
    fetchRunDirect s i n r = .next (takeHsError u .ipa) := by
  rw [entryTranslate] at h
  rw [fetchRunDirect, h]
  rfl

theorem fetchRunDirect_of_stalled (h : entryTranslate { s with cur := .dcmdq i n } i n r = (.stalled, u)) :
    fetchRunDirect s i n r = .next u := by
  rw [entryTranslate] at h
  rw [fetchRunDirect, h]

theorem fetchRunDirect_of_error {e : MemErr} (h : entryTranslate { s with cur := .dcmdq i n } i n r = (.done pa pas a o, u))
    (hread : smmuRead u o pas pa 16 .dcmdq = (.error e, v)) :
    fetchRunDirect s i n r = .next (if e = .gpf then takeHsError v .ipa else takeCmdError v .abt) := by
  rw [entryTranslate] at h
  simp only [fetchRunDirect, h, hread]
  cases e <;> rfl

theorem fetchRunDirect_of_ok {w : Nat} (h : entryTranslate { s with cur := .dcmdq i n } i n r = (.done pa pas a o, u))
    (hread : smmuRead u o pas pa 16 .dcmdq = (.ok w, v)) : fetchRunDirect s i n r = runWord v (BitVec.ofNat 128 w) := by
  rw [entryTranslate] at h
  simp only [fetchRunDirect, h, hread]

end Direct

/-! ## What a step does -/

/-- The state in which a step that takes no input does its work. -/
abbrev working (s : State) : State := { s with outputs := [], reqMpam := none }

theorem nextInput_working {s : State} (h : nextInput s = none) : nextInput (working s) = none := by
  rw [← h]
  exact nextInput_congr rfl rfl rfl

theorem step_of_pickJob {s : State} {j : Job} {n : Nat} (h : nextInput s = none) (hj : pickJob (working s) = some (j, n)) :
    step s = counted (j.run { working s with turn := n + 1 }) := by
  have hnone := nextInput_working h
  simp only [step, stepBody, hnone, hj]

theorem step_of_idle {s : State} (h : nextInput s = none) (hj : pickJob (working s) = none) :
    step s = counted (.next (working s)) := by
  have hnone := nextInput_working h
  simp only [step, stepBody, hnone, hj]

theorem queueRegs_working (s : State) (n : Nat) (q : QueueId) :
    State.queueRegs { working s with turn := n } q = s.queueRegs q := by
  cases q with
  | main i => cases i <;> rfl
  | ecmdq i m => cases i <;> rfl
  | dcmdq i m => cases i <;> rfl

/-! ## The obligations -/

/-- Settles O5: the step by what is next; the work of a queue is its fetch, and the word read is run. -/
theorem stepRunsTheCommand : Obligations.StepRunsTheCommand := by
  unfold Obligations.StepRunsTheCommand
  refine ⟨fun s i rest h => step_of_nextInput h, fun s h hj => step_of_idle h hj, ?_, ?_, ?_⟩
  · intro s u q n w r i h hj hq hr hread hword hclear
    have hregs := (queueRegs_working s (n + 1) q).trans hr
    have hfetch := fetchRun_of_ok (s := { working s with turn := n + 1 }) hread
    rw [step_of_pickJob h hj, Job.run, runQueue_of_physical hq hregs, hfetch, runWord_of_ok hword hclear]
  · intro s u v j n m w r i pa pas a o h hj hr htranslate hread hword hclear
    have hregs := (queueRegs_working s (m + 1) (.dcmdq j n)).trans hr
    have hfetch := fetchRunDirect_of_ok (s := { working s with turn := m + 1 }) htranslate hread
    rw [step_of_pickJob h hj, Job.run, runQueue_of_direct hregs, hfetch, runWord_of_ok hword hclear]
  · intro s u o pas addr c w h
    obtain ⟨hnumber, hsame⟩ := smmuRead_ok h
    exact ⟨hnumber ▸ ofNat_readNat s pas addr, hsame⟩

/-- Settles O45: the outcomes of the fetch, of its translation on a DCMDQ, and of the decoding. -/
theorem fetchErrors : Obligations.FetchErrors := by
  unfold Obligations.FetchErrors
  refine ⟨?_, ?_, fun s w e h => runWord_of_error s h, fun s w i h hchecked hset => runWord_of_res0 h hchecked hset,
    fun s w i h hclear => runWord_of_ok h hclear⟩
  · intro s u q r e hq hr hread
    rw [runQueue_of_physical hq hr, fetchRun_of_error hread]
  · intro s u v i n r out hr htranslate
    rw [runQueue_of_direct hr]
    refine ⟨?_, ?_, ?_⟩
    · rintro rfl
      exact fetchRunDirect_of_failed htranslate
    · rintro rfl
      exact fetchRunDirect_of_stalled htranslate
    · rintro pa pas a o e rfl hread
      exact fetchRunDirect_of_error htranslate hread

end Sys2Proof.Proofs
end

section
/-! O38: the commands that only the Secure queue takes. -/

namespace Sys2Proof.Proofs

open Sys2Proof.Machine Sys2Proof.Laws

/-! ## Off the Secure queue -/

section NotSecure

variable {s : State} (h : s.cur.sec ≠ .s)

include h

/-- SSec may be one on the Secure queue only (30_encoding.md R1803). -/
theorem targetSec_true_of_not_secure : targetSec s true = none := by
  cases hsec : s.cur.sec with
  | s => exact absurd hsec h
  | ns => simp only [targetSec, hsec]
  | rl => simp only [targetSec, hsec]

theorem el3Ill_of_not_secure : el3Ill s = true := by simp [el3Ill, h]

theorem sEl2Ill_of_not_secure : sEl2Ill s = true := by simp [sEl2Ill, h]

theorem sS12Ill_of_not_secure : sS12Ill s = true := by simp [sS12Ill, h]

/-- The commands of the Secure regimes are illegal by the condition of their regime. -/
theorem exec_secureRegime_of_not_secure (v a : BitVec 16) (rg : TlbiRange) (l b : Bool) (x : BitVec 52) (y : BitVec 44) :
    ∀ i ∈ [Instr.tlbiEl3All, .tlbiEl3Va rg l x, .tlbiSEl2All, .tlbiSEl2Asid a, .tlbiSEl2Va a rg l x, .tlbiSEl2Vaa rg l x,
        .tlbiSS12Vmall v, .tlbiSS2Vmallw v, .tlbiSS2Ipa v b rg l y, .tlbiSnhAll],
      exec i s = .next (takeCmdError s .ill) := by
  have hsnh : (s.cur.sec != .s) = true := bne_iff_ne.mpr h
  simp only [List.forall_mem_cons, List.not_mem_nil, false_implies, implies_true, exec, execTlbiEl3All, execTlbiEl3Va,
    execTlbiSEl2All, execTlbiSEl2Asid, execTlbiSEl2Va, execTlbiSEl2Vaa, execTlbiSS12Vmall, execTlbiSS2Vmallw, execTlbiSS2Ipa,
    execTlbiSnhAll, el3Ill_of_not_secure h, sEl2Ill_of_not_secure h, sS12Ill_of_not_secure h, hsnh, Bool.true_or,
    Bool.or_true, command_ill, and_self]

/-- The commands with SSec one name no Security state (30_encoding.md R1803). -/
theorem exec_ssec_of_not_secure (v a : BitVec 16) (l b c : Bool) (x : BitVec 52) (ssid : BitVec 20) (sid : BitVec 32)
    (r k : BitVec 5) :
    ∀ i ∈ [Instr.prefetchConfig true b ssid sid, .prefetchAddr true b ssid sid r k c x, .cfgiSte true sid l,
        .cfgiSteRange true sid r, .cfgiAll true sid, .cfgiCd true ssid sid l, .cfgiCdAll true sid, .cfgiVmsPidm true v,
        .resume true b c sid a, .stallTerm true sid],
      exec i s = .next (takeCmdError s .ill) := by
  simp only [List.forall_mem_cons, List.not_mem_nil, false_implies, implies_true, exec, execPrefetchConfig,
    execPrefetchAddr, execCfgiSte, execCfgiSteRange, execCfgiAll, execCfgiCd, execCfgiCdAll, execCfgiVmsPidm, execResume,
    execStallTerm, cfgiCommand, targetSec_true_of_not_secure h, finish, CmdOut.state, and_self]

end NotSecure

/-- Settles O38: a regime's commands by the condition of their legality, the others by the misuse of SSec. -/
theorem secureCommandsNeedSecureQueue : Obligations.SecureCommandsNeedSecureQueue := by
  unfold Obligations.SecureCommandsNeedSecureQueue
  intro s v a rg l b c x y ssid sid r k
  refine ⟨fun h => ?_, fun h => ?_, fun h => ?_, fun h => ?_⟩
  · exact List.forall_mem_append.mpr
      ⟨exec_secureRegime_of_not_secure h v a rg l b x y, exec_ssec_of_not_secure h v a l b c x ssid sid r k⟩
  all_goals simp only [targetSec, h, and_self]

end Sys2Proof.Proofs
end

section
/-! O29: the prefetch commands on a queue that is no DCMDQ (40_cmd_prefetch.md R1850, R1852, R1853). -/

namespace Sys2Proof.Proofs

open Sys2Proof.Machine Sys2Proof.Safety Sys2Proof.Laws

/-! ## Consumption after a lookup

No lookup changes a register of a Command queue or one of those that give its size, so that RD moves past the command as it
would have without the lookup. -/

theorem queueRegs_sansLookup (s : State) (q : QueueId) : s.sansLookup.queueRegs q = s.queueRegs q := by
  cases q with
  | main i => cases i <;> rfl
  | ecmdq i n => cases i <;> rfl
  | dcmdq i n => cases i <;> rfl

theorem setCons_sansLookup (s : State) (q : QueueId) (g : BitVec 32 → BitVec 32) :
    s.sansLookup.setCons q g = (s.setCons q g).sansLookup := by
  cases q with
  | main i => cases i <;> rfl
  | ecmdq i n => cases i <;> rfl
  | dcmdq i n => cases i <;> rfl

theorem advanced_sansLookup (s : State) : s.sansLookup.advanced = s.advanced.sansLookup := by
  have hcur : s.sansLookup.cur = s.cur := rfl
  rw [State.advanced, State.advanced, hcur, queueRegs_sansLookup]
  cases s.queueRegs s.cur with
  | none => rfl
  | some r => exact setCons_sansLookup s s.cur _

/-- The event that consumption may send is an output, which a lookup may change as well. -/
theorem sansLookup_consume (s : State) : s.consume.sansLookup = s.advanced.sansLookup := by
  rcases consume_eq s with h | h
  · rw [h]
  · rw [h]
    rfl

/-- A command consumed after a lookup: beside what the lookup changes, RD of the queue moves. -/
theorem sansLookup_consume_of_only {s t : State} (h : Only State.sansLookup s t) :
    t.consume.sansLookup = s.advanced.sansLookup := by
  rw [sansLookup_consume, ← advanced_sansLookup, h.same, advanced_sansLookup]

theorem sameMemory_consume (s : State) : SameMemory s s.consume := Quiet.sameMemory (consume_mem s)

/-! ## What the prefetch commands answer -/

/-- Only on a DCMDQ is the StreamID of a prefetch command a virtual one. -/
theorem prefetchRef_of_not_direct {s : State} (h : s.cur.isDirect = false) (sid : BitVec 32) :
    prefetchRef s sid = (.sid sid, s) := by
  unfold prefetchRef
  cases hcur : s.cur with
  | main i => rfl
  | ecmdq i n => rfl
  | dcmdq i n => rw [hcur] at h; cases h

section Physical

variable {s : State} {ssec : Bool} {i : Sec} (htarget : targetSec s ssec = some i) (hdirect : s.cur.isDirect = false)
  (ssv : Bool) (ssid : BitVec 20) (sid : BitVec 32) (size stride : BitVec 5) (ns : Bool) (addr : BitVec 52)

include htarget

theorem exec_prefetchConfig_of_disabled (hen : s.smmuEn i = false) :
    exec (.prefetchConfig ssec ssv ssid sid) s = .next s.consume := by
  simp [exec, execPrefetchConfig, htarget, hen, finish, CmdOut.state]

theorem exec_prefetchAddr_of_disabled (hen : s.smmuEn i = false) :
    exec (.prefetchAddr ssec ssv ssid sid size stride ns addr) s = .next s.consume := by
  simp [exec, execPrefetchAddr, htarget, hen, finish, CmdOut.state]

include hdirect

theorem exec_prefetchConfig_of_enabled (hen : s.smmuEn i = true) :
    exec (.prefetchConfig ssec ssv ssid sid) s =
      .next (prefetchConfigAt s i sid (if ssv then some ssid else none)).consume := by
  simp [exec, execPrefetchConfig, htarget, hen, prefetchRef_of_not_direct hdirect, finish, CmdOut.state]

theorem exec_prefetchAddr_of_enabled (hen : s.smmuEn i = true) :
    exec (.prefetchAddr ssec ssv ssid sid size stride ns addr) s =
      .next (if sidInRange s i sid then
        (prefetchAddrs s.ids size stride (vaOf addr)).foldl
          (prefetchAddrAt i sid (if ssv then some ssid else none) ns) s
        else s).consume := by
  cases hrange : sidInRange s i sid <;>
    simp [exec, execPrefetchAddr, htarget, hen, prefetchRef_of_not_direct hdirect, hrange, finish, CmdOut.state]

end Physical

theorem prefetchConfigAt_of_not_inRange {s : State} {i : Sec} {sid : BitVec 32} (h : sidInRange s i sid = false)
    (ssid : Option (BitVec 20)) : prefetchConfigAt s i sid ssid = s := by
  simp [prefetchConfigAt, h]

/-- A prefetch command that has no effect is consumed as it stands: with SMMUEN zero (12_regs_control.md R161), or with a
StreamID out of range (log entry 19). -/
theorem exec_prefetch_of_no_effect {s : State} {ssec : Bool} {i : Sec} (htarget : targetSec s ssec = some i)
    (hdirect : s.cur.isDirect = false) (ssv : Bool) (ssid : BitVec 20) (sid : BitVec 32) (size stride : BitVec 5) (ns : Bool)
    (addr : BitVec 52) (h : s.smmuEn i = false ∨ sidInRange s i sid = false) :
    exec (.prefetchConfig ssec ssv ssid sid) s = .next s.consume ∧
      exec (.prefetchAddr ssec ssv ssid sid size stride ns addr) s = .next s.consume := by
  cases hen : s.smmuEn i with
  | false =>
    exact ⟨exec_prefetchConfig_of_disabled htarget ssv ssid sid hen,
      exec_prefetchAddr_of_disabled htarget ssv ssid sid size stride ns addr hen⟩
  | true =>
    have hrange : sidInRange s i sid = false := h.resolve_left (by simp [hen])
    constructor
    · rw [exec_prefetchConfig_of_enabled htarget hdirect ssv ssid sid hen, prefetchConfigAt_of_not_inRange hrange]
    · rw [exec_prefetchAddr_of_enabled htarget hdirect ssv ssid sid size stride ns addr hen, hrange]
      rfl

/-! ## The obligation -/

/-- Settles O29: a prefetch is a lookup, after which the command is consumed; where it has no effect, the command is consumed
at once. -/
theorem prefetch : Obligations.Prefetch := by
  unfold Obligations.Prefetch
  intro s ssec ssv i ssid sid size stride ns addr htarget hdirect
  refine ⟨fun hen hrange => ⟨?_, ?_⟩, fun h => ?_⟩
  · have hlookup := only_prefetchConfigAt s i sid (if ssv then some ssid else none)
    exact ⟨_, exec_prefetchConfig_of_enabled htarget hdirect ssv ssid sid hen, sansLookup_consume_of_only hlookup,
      sameMemory_consume _⟩
  · have hlookup := Only.foldl _ (only_prefetchAddrAt i sid (if ssv then some ssid else none) ns)
      (prefetchAddrs s.ids size stride (vaOf addr)) s
    have hexec := exec_prefetchAddr_of_enabled htarget hdirect ssv ssid sid size stride ns addr hen
    rw [if_pos hrange] at hexec
    exact ⟨_, hexec, sansLookup_consume_of_only hlookup, sameMemory_consume _⟩
  · obtain ⟨hconfig, haddr⟩ := exec_prefetch_of_no_effect htarget hdirect ssv ssid sid size stride ns addr h
    exact ⟨hconfig, haddr, onlyCaches_consume s s.caches s.free, consume_caches s⟩

end Sys2Proof.Proofs
end

section
/-! O39: the commands that a DCMDQ or a Restricted ECMDQ refuses. -/

namespace Sys2Proof.Proofs

open Sys2Proof.Machine Sys2Proof.Laws

/-- The queue takes no command of a class: it is a DCMDQ, or a Restricted ECMDQ for which SMMU_(*_)IDR2 does not advertise the
class (27_queues.md R750). The classes `.cfgi`, `.tlbi`, `.dpti` and `.fault` are those that no DCMDQ takes. -/
def Refuses (s : State) (c : CmdClass) : Prop := s.cur.isDirect = true ∨ queueAccepts s c = false

/-- A Restricted ECMDQ takes a class of commands only if its bit of SMMU_(*_)IDR2 is set (11_regs_id.md R102). -/
theorem queueAccepts_restricted {s : State} {q : Sec} {k : Nat} (hcur : s.cur = .ecmdq q k) (hr : s.ids.recmdq q = true) :
    queueAccepts s .cfgi = (s.ids.idr2Of q).getLsbD 31 ∧ queueAccepts s .tlbi = (s.ids.idr2Of q).getLsbD 30 ∧
    queueAccepts s .tlbiNsnh = (q != .s || (s.ids.idr2Of q).getLsbD 30) ∧
    queueAccepts s .atc = (s.ids.idr2Of q).getLsbD 29 ∧ queueAccepts s .pri = (s.ids.idr2Of q).getLsbD 28 ∧
    queueAccepts s .dpti = (s.ids.idr2Of q).getLsbD 27 ∧ queueAccepts s .fault = (s.ids.idr2Of q).getLsbD 26 := by
  simp only [queueAccepts, hcur, hr, Bool.not_true, Bool.false_or, and_self]

/-! ## The conditions of legality on such a queue -/

section Refused

variable {s : State}

theorem cfgiCommand_of_refuses (h : Refuses s .cfgi) (ssec : Bool) (ill : Sec → Bool) (eff : Sec → State → State) :
    cfgiCommand s ssec ill eff = .next (takeCmdError s .ill) := by
  unfold cfgiCommand
  cases targetSec s ssec with
  | none => rfl
  | some i => rcases h with h | h <;> simp [h, command_ill]

theorem vsidIll_of_refuses (h : Refuses s .cfgi) : vsidIll s = true := by
  rcases h with h | h <;> simp [vsidIll, h]

theorem el3Ill_of_refuses (h : Refuses s .tlbi) : el3Ill s = true := by
  rcases h with h | h <;> simp [el3Ill, h]

theorem el2Ill_of_refuses (h : Refuses s .tlbi) : el2Ill s = true := by
  rcases h with h | h <;> simp [el2Ill, h]

theorem sEl2Ill_of_refuses (h : Refuses s .tlbi) : sEl2Ill s = true := by
  rcases h with h | h <;> simp [sEl2Ill, h]

theorem s12Ill_of_refuses (h : Refuses s .tlbi) : s12Ill s = true := by
  rcases h with h | h <;> simp [s12Ill, h]

theorem sS12Ill_of_refuses (h : Refuses s .tlbi) : sS12Ill s = true := by
  rcases h with h | h <;> simp [sS12Ill, h]

theorem exec_tlbiSnhAll_of_refuses (h : Refuses s .tlbi) : exec .tlbiSnhAll s = .next (takeCmdError s .ill) := by
  rcases h with h | h <;> simp [exec, execTlbiSnhAll, h, command_ill]

theorem dptiIll_of_refuses (h : Refuses s .dpti) : dptiIll s = true := by
  rcases h with h | h <;> simp [dptiIll, h]

theorem stallIll_of_refuses (h : Refuses s .fault) : stallIll s = true := by
  rcases h with h | h <;> simp [stallIll, h]

/-! ## The commands on such a queue -/

theorem exec_cfgi_of_refuses (h : Refuses s .cfgi) (c l : Bool) (v : BitVec 16) (ssid : BitVec 20) (sid : BitVec 32)
    (r : BitVec 5) :
    ∀ i ∈ [Instr.cfgiSte c sid l, .cfgiSteRange c sid r, .cfgiAll c sid, .cfgiCd c ssid sid l, .cfgiCdAll c sid,
        .cfgiVmsPidm c v, .cfgiCit sid, .cfgiVstt sid, .cfgiVsttVsid sid v],
      exec i s = .next (takeCmdError s .ill) := by
  simp only [List.forall_mem_cons, List.not_mem_nil, false_implies, implies_true, exec, execCfgiSte, execCfgiSteRange,
    execCfgiAll, execCfgiCd, execCfgiCdAll, execCfgiVmsPidm, execCfgiCit, execCfgiVstt, execCfgiVsttVsid,
    cfgiCommand_of_refuses h, vsidIll_of_refuses h, command_ill, and_self]

theorem exec_tlbi_of_refuses (h : Refuses s .tlbi) (v a : BitVec 16) (rg : TlbiRange) (l b : Bool) (x : BitVec 52)
    (y : BitVec 44) :
    ∀ i ∈ [Instr.tlbiEl3All, .tlbiEl3Va rg l x, .tlbiEl2All, .tlbiEl2Asid a, .tlbiEl2Va a rg l x, .tlbiEl2Vaa rg l x,
        .tlbiSEl2All, .tlbiSEl2Asid a, .tlbiSEl2Va a rg l x, .tlbiSEl2Vaa rg l x, .tlbiS12Vmall v, .tlbiS2Vmallw v,
        .tlbiS2Ipa v rg l y, .tlbiSS12Vmall v, .tlbiSS2Vmallw v, .tlbiSS2Ipa v b rg l y, .tlbiSnhAll],
      exec i s = .next (takeCmdError s .ill) := by
  simp only [List.forall_mem_cons, exec_tlbiSnhAll_of_refuses h]
  simp only [List.not_mem_nil, false_implies, implies_true, exec, execTlbiEl3All, execTlbiEl3Va, execTlbiEl2All,
    execTlbiEl2Asid, execTlbiEl2Va, execTlbiEl2Vaa, execTlbiSEl2All, execTlbiSEl2Asid, execTlbiSEl2Va, execTlbiSEl2Vaa,
    execTlbiS12Vmall, execTlbiS2Vmallw, execTlbiS2Ipa, execTlbiSS12Vmall, execTlbiSS2Vmallw, execTlbiSS2Ipa,
    el3Ill_of_refuses h, el2Ill_of_refuses h, sEl2Ill_of_refuses h, s12Ill_of_refuses h, sS12Ill_of_refuses h,
    Bool.true_or, Bool.or_true, command_ill, and_self]

theorem exec_dpti_of_refuses (h : Refuses s .dpti) (l : Bool) (z : BitVec 4) (y : BitVec 44) :
    ∀ i ∈ [Instr.dptiAll, .dptiPa l z y], exec i s = .next (takeCmdError s .ill) := by
  simp only [List.forall_mem_cons, List.not_mem_nil, false_implies, implies_true, exec, execDptiAll, execDptiPa,
    dptiIll_of_refuses h, command_ill, and_self]

/-- CMD_RESUME and CMD_STALL_TERM: also where SSec is misused the error is the same. -/
theorem exec_fault_of_refuses (h : Refuses s .fault) (c b l : Bool) (sid : BitVec 32) (a : BitVec 16) :
    ∀ i ∈ [Instr.resume c b l sid a, .stallTerm c sid], exec i s = .next (takeCmdError s .ill) := by
  simp only [List.forall_mem_cons, List.not_mem_nil, false_implies, implies_true, exec, execResume, execStallTerm,
    stallIll_of_refuses h, command_ill, and_true]
  cases targetSec s c with
  | none => exact ⟨rfl, rfl⟩
  | some i => exact ⟨rfl, rfl⟩

end Refused

/-! ## The commands that a DCMDQ may take, and a Restricted ECMDQ need not -/

theorem exec_atcInv_of_not_accepted {s : State} (h : queueAccepts s .atc = false) (g ssv : Bool) (ssid : BitVec 20)
    (sid : BitVec 32) (n : BitVec 6) (x : BitVec 52) :
    exec (.atcInv g ssv ssid sid n x) s = .next (takeCmdError s .ill) := by
  have hill : atcIll s = true := by simp [atcIll, h]
  simp [exec, execAtcInv, hill, finish, CmdOut.state]

theorem exec_priResp_of_not_accepted {s : State} (h : queueAccepts s .pri = false) (ssv : Bool) (ssid : BitVec 20)
    (sid : BitVec 32) (p : BitVec 9) (f : BitVec 2) :
    exec (.priResp ssv ssid sid p f) s = .next (takeCmdError s .ill) := by
  have hill : priIll s = true := by simp [priIll, h]
  cases hcode : respCode f <;> simp [exec, execPriResp, hcode, hill, finish, CmdOut.state]

theorem exec_tlbiNsnhAll_of_not_accepted {s : State} {q : Sec} {k : Nat} (hcur : s.cur = .ecmdq q k)
    (h : queueAccepts s .tlbiNsnh = false) : exec .tlbiNsnhAll s = .next (takeCmdError s .ill) := by
  simp [exec, execTlbiNsnhAll, hcur, h, command_ill]

/-! ## The obligation -/

/-- Settles O39: on a Restricted ECMDQ a class is refused for its bit of SMMU_(*_)IDR2, on a DCMDQ for the queue. -/
theorem commandsIllegalOnDcmdq : Obligations.CommandsIllegalOnDcmdq := by
  unfold Obligations.CommandsIllegalOnDcmdq
  intro s v a rg l b c x y ssid sid r z p f n
  refine ⟨fun q k hcur hr => ?_, fun hdirect => ?_⟩
  · obtain ⟨hcfgi, htlbi, hnsnh, hatc, hpri, hdpti, hfault⟩ := queueAccepts_restricted hcur hr
    refine ⟨fun h => ?_, fun h => ⟨?_, fun hq => ?_⟩, fun h => ?_, fun h => ?_, fun h => ?_, fun h => ?_⟩
    · exact exec_cfgi_of_refuses (.inr (hcfgi.trans h)) c l v ssid sid r
    · exact exec_tlbi_of_refuses (.inr (htlbi.trans h)) v a rg l b x y
    · exact exec_tlbiNsnhAll_of_not_accepted hcur (hnsnh.trans (by rw [h, hq]; rfl))
    · exact exec_atcInv_of_not_accepted (hatc.trans h) c b ssid sid n x
    · exact exec_priResp_of_not_accepted (hpri.trans h) b ssid sid p f
    · exact exec_dpti_of_refuses (.inr (hdpti.trans h)) l z y
    · exact exec_fault_of_refuses (.inr (hfault.trans h)) c b l sid a
  · have hcfgi := exec_cfgi_of_refuses (.inl hdirect) c l v ssid sid r
    have htlbi := exec_tlbi_of_refuses (.inl hdirect) v a rg l b x y
    have hdpti := exec_dpti_of_refuses (.inl hdirect) l z y
    have hfault := exec_fault_of_refuses (.inl hdirect) c b l sid a
    exact List.forall_mem_append.mpr ⟨hcfgi, List.forall_mem_append.mpr ⟨htlbi, List.forall_mem_append.mpr ⟨hdpti, hfault⟩⟩⟩

end Sys2Proof.Proofs
end

section
/-! O19, O21 to O24: the configuration invalidation commands (41_cmd_cfgi.md). One lemma for each command says which caches it
leaves; what is gone from them, and what is not, follows. -/

namespace Sys2Proof.Proofs

open Sys2Proof.Machine Sys2Proof.Safety Sys2Proof.Laws

/-! ## Lists without the entries that are gone -/

theorem left_filter {α : Type} {a : List α} {p : α → Bool} {gone : α → Prop} (h : ∀ e, p e = true ↔ gone e) :
    Left a (a.filter fun e => !p e) gone := by
  intro e
  rw [List.mem_filter, Bool.not_eq_true', ← Bool.not_eq_true, h]

theorem left_self {α : Type} {a : List α} {gone : α → Prop} (h : ∀ e, ¬gone e) : Left a a gone :=
  fun e => (and_iff_left (h e)).symm

theorem left_congr {α : Type} {a b : List α} {p q : α → Prop} (h : Left a b p) (he : ∀ e, p e ↔ q e) : Left a b q :=
  fun e => (h e).trans (and_congr_right' (not_congr (he e)))

/-! ## Which entries a command names -/

/-- The block of StreamIDs that an entry serves meets a range exactly if it holds one StreamID of the range. -/
theorem covers_iff {e : StreamEntry} {i : Sec} {lo n : Nat} (hn : 0 < n) :
    e.covers i lo n = true ↔ ∃ x, lo ≤ x ∧ x < lo + n ∧ CachedFor e i x := by
  have hpos : 0 < 2 ^ e.span := Nat.two_pow_pos _
  have hblock (x : Nat) : e.sid.toNat / 2 ^ e.span = x / 2 ^ e.span ↔
      e.sid.toNat / 2 ^ e.span * 2 ^ e.span ≤ x ∧ x < e.sid.toNat / 2 ^ e.span * 2 ^ e.span + 2 ^ e.span := by
    rw [eq_comm, Nat.div_eq_iff hpos]
    omega
  simp only [StreamEntry.covers, CachedFor, hblock, Bool.and_eq_true, beq_iff_eq, decide_eq_true_eq]
  constructor
  · rintro ⟨hsec, hstart, hend⟩
    exact ⟨max lo (e.sid.toNat / 2 ^ e.span * 2 ^ e.span), by omega, by omega, hsec, by omega, by omega⟩
  · rintro ⟨x, hlo, hhi, hsec, hstart, hend⟩
    exact ⟨hsec, by omega, by omega⟩

theorem through_iff {e : StreamEntry} {i : Sec} {lo n : Nat} :
    e.through i lo n = true ↔ e.sec = i ∧ lo ≤ e.sid.toNat ∧ e.sid.toNat < lo + n := by
  simp only [StreamEntry.through, Bool.and_eq_true, beq_iff_eq, decide_eq_true_eq]

theorem serves_iff {e : VsidEntry} {i : Sec} {qsid : BitVec 32} :
    e.serves i qsid = true ↔ e.sec = i ∧ e.qsid.toNat / 2 ^ e.span = qsid.toNat / 2 ^ e.span := by
  simp only [VsidEntry.serves, Bool.and_eq_true, beq_iff_eq]

/-- The upper byte of a VMID is zero (42_cmd_tlbi.md R1901). -/
theorem fieldNat_upperByte_eq_zero (v : BitVec 16) : (fieldNat v 8 8 == 0) = true ↔ v.toNat < 2 ^ 8 := by
  have hv := v.isLt
  simp only [fieldNat, BitVec.extractLsb'_toNat, Nat.shiftRight_eq_div_pow, beq_iff_eq]
  omega

/-! ## What the removals take -/

theorem streamsInvalidated_dropStes (k : Caches) (i : Sec) {lo n : Nat} (hn : 0 < n) {l1 : Bool} {must : Prop}
    (hl1 : l1 = true ↔ must) : StreamsInvalidated k (k.dropStes i lo n l1) i lo n must where
  stes := left_filter fun _ => covers_iff hn
  l1stds := left_filter fun _ => (Bool.and_eq_true _ _).to_iff.trans (and_congr hl1 (covers_iff hn))
  cds := left_filter fun _ => through_iff
  l1cds := left_filter fun _ => through_iff
  vms := left_filter fun _ => through_iff

/-- The range of all StreamIDs. -/
theorem cachedFor_any_iff (e : StreamEntry) (i : Sec) : (∃ x, 0 ≤ x ∧ x < 0 + 2 ^ 32 ∧ CachedFor e i x) ↔ e.sec = i := by
  have hsid := e.sid.isLt
  constructor
  · rintro ⟨_, _, _, hsec, _⟩
    exact hsec
  · exact fun hsec => ⟨e.sid.toNat, Nat.zero_le _, by omega, hsec, rfl⟩

theorem sid_any_iff (e : StreamEntry) (i : Sec) : (e.sec = i ∧ 0 ≤ e.sid.toNat ∧ e.sid.toNat < 0 + 2 ^ 32) ↔ e.sec = i := by
  have hsid := e.sid.isLt
  exact and_iff_left ⟨Nat.zero_le _, by omega⟩

/-- What is cached from CIT and VSTT goes where DCMDQs are supported, and stays elsewhere (R1880). -/
theorem left_dropVsid (k : Caches) (i : Sec) (c : Bool) :
    let t := if c then k.dropVsid i else k
    let gone (e : VsidEntry) : Prop := c = true ∧ e.sec = i
    Left k.cites t.cites gone ∧ Left k.l1cits t.l1cits gone ∧ Left k.vsttes t.vsttes gone ∧ Left k.l1vstts t.l1vstts gone := by
  cases c with
  | false =>
    have hnone (a : List VsidEntry) : Left a a fun e => false = true ∧ e.sec = i := left_self (by simp)
    exact ⟨hnone _, hnone _, hnone _, hnone _⟩
  | true =>
    have hsec (a : List VsidEntry) : Left a (a.filter fun e => e.sec != i) fun e => true = true ∧ e.sec = i :=
      left_filter (by simp)
    exact ⟨hsec _, hsec _, hsec _, hsec _⟩

/-! ## Commands that change caches only -/

/-- From `s` a command is consumed that leaves the caches `k` and changes nothing else. -/
def Leaves (s : State) (o : Host.Outcome State Fault Refusal) (k : Caches) : Prop :=
  ∃ t, o = .next t ∧ OnlyCaches s t ∧ t.caches = k

theorem leaves_command {s : State} {eff : State → State} {k : Caches} (h : eff s = s.dropCaches fun _ => k) :
    Leaves s (command s false eff) k := by
  refine ⟨_, command_legal s eff, ?_, ?_⟩
  · rw [h]
    exact onlyCaches_consume s k s.free
  · rw [h, consume_caches]
    rfl

/-- A removal under a condition is a change of caches in either case. -/
theorem ite_dropCaches (s : State) (c : Bool) (f : Caches → Caches) :
    (if c then s.dropCaches f else s) = s.dropCaches fun k => if c then f k else k := by
  cases c <;> rfl

section Legal

variable {s : State} {ssec : Bool} {i : Sec} (htarget : targetSec s ssec = some i) (hdirect : s.cur.isDirect = false)
  (haccepts : queueAccepts s .cfgi = true)

include htarget hdirect haccepts

theorem leaves_cfgiCommand {ill : Sec → Bool} {eff : Sec → State → State} {k : Caches} (hill : ill i = false)
    (h : eff i s = s.dropCaches fun _ => k) : Leaves s (cfgiCommand s ssec ill eff) k := by
  unfold cfgiCommand
  rw [htarget]
  dsimp only
  rw [hdirect, haccepts, hill]
  exact leaves_command h

theorem leaves_cfgiSte (sid : BitVec 32) (leaf : Bool) :
    Leaves s (exec (.cfgiSte ssec sid leaf) s)
      (if sidInRange s i sid then s.caches.dropStes i sid.toNat 1 !leaf else s.caches) :=
  leaves_cfgiCommand htarget hdirect haccepts rfl (ite_dropCaches s _ _)

/-- Range 31 is the encoding of CMD_CFGI_ALL. -/
theorem leaves_cfgiSteRange (sid : BitVec 32) {range : BitVec 5} (hrange : range ≠ 31#5) :
    Leaves s (exec (.cfgiSteRange ssec sid range) s)
      (s.caches.dropStes i (sid.toNat / 2 ^ (range.toNat + 1) * 2 ^ (range.toNat + 1)) (2 ^ (range.toNat + 1)) true) :=
  leaves_cfgiCommand htarget hdirect haccepts rfl (by simp [hrange, State.dropCaches])

theorem leaves_cfgiAll (sid : BitVec 32) :
    Leaves s (exec (.cfgiAll ssec sid) s)
      (let k := { s.caches.dropStes i 0 (2 ^ 32) true with vmsByVmid := s.caches.vmsByVmid.filter fun e => e.sec != i }
       if s.ids.dcmdq i then k.dropVsid i else k) :=
  leaves_cfgiCommand htarget hdirect haccepts rfl (ite_dropCaches (s.dropCaches _) _ _)

theorem leaves_cfgiCd (hs1p : s.ids.s1p = true) (ssid : BitVec 20) (sid : BitVec 32) (leaf : Bool) :
    Leaves s (exec (.cfgiCd ssec ssid sid leaf) s)
      (if sidInRange s i sid && ssidInRange s ssid then
        { s.caches with
          cds := s.caches.cds.filter fun e => !(e.sec == i && e.sid == sid && e.idx == ssid.toNat)
          l1cds := s.caches.l1cds.filter fun e => !(!leaf && e.sec == i && e.sid == sid) }
       else s.caches) :=
  leaves_cfgiCommand htarget hdirect haccepts (by simp [hs1p]) (ite_dropCaches s _ _)

theorem leaves_cfgiCdAll (hs1p : s.ids.s1p = true) (sid : BitVec 32) :
    Leaves s (exec (.cfgiCdAll ssec sid) s)
      (if sidInRange s i sid then
        { s.caches with
          cds := s.caches.cds.filter fun e => !(e.sec == i && e.sid == sid)
          l1cds := s.caches.l1cds.filter fun e => !(e.sec == i && e.sid == sid) }
       else s.caches) :=
  leaves_cfgiCommand htarget hdirect haccepts (by simp [hs1p]) (ite_dropCaches s _ _)

theorem leaves_cfgiVmsPidm (hmpam : s.ids.mpamOf i = true) (hvms : vmsSupported s.ids i = true) (vmid : BitVec 16) :
    Leaves s (exec (.cfgiVmsPidm ssec vmid) s)
      (if s.ids.vmid16 || fieldNat vmid 8 8 == 0 then
        { s.caches with vmsByVmid := s.caches.vmsByVmid.filter fun e => !(e.sec == i && e.vmid == vmid) }
       else s.caches) :=
  leaves_cfgiCommand htarget hdirect haccepts (by simp [hmpam, hvms]) (ite_dropCaches s _ _)

end Legal

section Vsid

variable {s : State} (hvsid : s.ids.vsid s.cur.sec = true) (hdirect : s.cur.isDirect = false)
  (haccepts : queueAccepts s .cfgi = true)

include hvsid hdirect haccepts

theorem leaves_vsidCommand {eff : State → State} {k : Caches} (h : eff s = s.dropCaches fun _ => k) :
    Leaves s (command s (vsidIll s) eff) k := by
  have hlegal : vsidIll s = false := by simp [vsidIll, hvsid, hdirect, haccepts]
  rw [hlegal]
  exact leaves_command h

theorem leaves_cfgiCit (sid : BitVec 32) :
    Leaves s (exec (.cfgiCit sid) s)
      (if sidInRange s s.cur.sec sid then
        { s.caches with
          cites := s.caches.cites.filter fun e => !e.serves s.cur.sec sid
          l1cits := s.caches.l1cits.filter fun e => !e.serves s.cur.sec sid
          vsttes := s.caches.vsttes.filter fun e => !e.serves s.cur.sec sid
          l1vstts := s.caches.l1vstts.filter fun e => !e.serves s.cur.sec sid }
       else s.caches) :=
  leaves_vsidCommand hvsid hdirect haccepts (ite_dropCaches s _ _)

theorem leaves_cfgiVstt (sid : BitVec 32) :
    Leaves s (exec (.cfgiVstt sid) s)
      (if sidInRange s s.cur.sec sid then
        { s.caches with
          vsttes := s.caches.vsttes.filter fun e => !(e.sec == s.cur.sec && e.qsid == sid)
          l1vstts := s.caches.l1vstts.filter fun e => !(e.sec == s.cur.sec && e.qsid == sid) }
       else s.caches) :=
  leaves_vsidCommand hvsid hdirect haccepts (ite_dropCaches s _ _)

theorem leaves_cfgiVsttVsid (sid : BitVec 32) (vsid : BitVec 16) :
    Leaves s (exec (.cfgiVsttVsid sid vsid) s)
      (if sidInRange s s.cur.sec sid && decide (vsid.toNat < 2 ^ s.ids.vsidSize s.cur.sec) then
        { s.caches with
          vsttes := s.caches.vsttes.filter fun e => !(e.sec == s.cur.sec && e.qsid == sid && e.vsid == vsid.toNat)
          l1vstts := s.caches.l1vstts.filter fun e => !(e.sec == s.cur.sec && e.qsid == sid) }
       else s.caches) :=
  leaves_vsidCommand hvsid hdirect haccepts (ite_dropCaches s _ _)

end Vsid

/-! ## The obligations -/

/-- Settles O19: in range both commands are removals of a range of StreamIDs, of one or of an aligned block. -/
theorem cfgiSte : Obligations.CfgiSte := by
  unfold Obligations.CfgiSte
  refine ⟨fun s ssec i sid leaf htarget hdirect haccepts => ?_,
    fun s ssec i sid range hrange htarget hdirect haccepts => ?_⟩
  · obtain ⟨t, hexec, honly, hcaches⟩ := leaves_cfgiSte htarget hdirect haccepts sid leaf
    refine ⟨t, hexec, honly, fun hin => ?_, fun hout => ?_⟩
    · rw [hcaches, if_pos hin]
      exact ⟨streamsInvalidated_dropStes s.caches i Nat.one_pos (by simp), rfl⟩
    · rw [hcaches, hout]
      rfl
  · obtain ⟨t, hexec, honly, hcaches⟩ := leaves_cfgiSteRange htarget hdirect haccepts sid hrange
    refine ⟨t, hexec, honly, ?_, ?_⟩
    · rw [hcaches]
      exact streamsInvalidated_dropStes s.caches i (Nat.two_pow_pos _) (by simp)
    · rw [hcaches]
      rfl

/-- Settles O21: the structures of streams go as for the range of all StreamIDs. -/
theorem cfgiAll : Obligations.CfgiAll := by
  unfold Obligations.CfgiAll
  intro s ssec i sid htarget hdirect haccepts
  obtain ⟨t, hexec, honly, hcaches⟩ := leaves_cfgiAll htarget hdirect haccepts sid
  have hstreams : StreamsInvalidated s.caches (s.caches.dropStes i 0 (2 ^ 32) true) i 0 (2 ^ 32) True :=
    streamsInvalidated_dropStes s.caches i (Nat.two_pow_pos 32) (by simp)
  have hvmid : Left s.caches.vmsByVmid (s.caches.vmsByVmid.filter fun e => e.sec != i) (·.sec = i) :=
    left_filter fun _ => beq_iff_eq
  obtain ⟨hcites, hl1cits, hvsttes, hl1vstts⟩ := left_dropVsid
    { s.caches.dropStes i 0 (2 ^ 32) true with vmsByVmid := s.caches.vmsByVmid.filter fun e => e.sec != i } i (s.ids.dcmdq i)
  refine ⟨t, hexec, honly, ?_⟩
  rw [hcaches]
  generalize s.ids.dcmdq i = c at hcites hl1cits hvsttes hl1vstts ⊢
  cases c
  all_goals
    exact ⟨left_congr hstreams.stes (cachedFor_any_iff · i),
      left_congr hstreams.l1stds fun e => (and_iff_right trivial).trans (cachedFor_any_iff e i),
      left_congr hstreams.cds (sid_any_iff · i), left_congr hstreams.l1cds (sid_any_iff · i),
      left_congr hstreams.vms (sid_any_iff · i), hvmid, hcites, hl1cits, hvsttes, hl1vstts, rfl, rfl, rfl⟩

/-- Settles O22: what either command takes is a filter of the CDs and of the L1CDs. -/
theorem cfgiCds : Obligations.CfgiCds := by
  unfold Obligations.CfgiCds
  intro s ssec i ssid sid leaf htarget hdirect haccepts hs1p
  constructor
  · obtain ⟨t, hexec, honly, hcaches⟩ := leaves_cfgiCd htarget hdirect haccepts hs1p ssid sid leaf
    refine ⟨t, hexec, honly, fun hsid hssid => ?_, fun hout => ?_⟩
    · rw [hcaches, hsid, hssid]
      exact ⟨left_filter (by simp [and_assoc]), left_filter (by simp [and_assoc]), rfl⟩
    · have hnone : (sidInRange s i sid && ssidInRange s ssid) = false := by
        rcases hout with h | h <;> simp [h]
      rw [hcaches, hnone]
      rfl
  · obtain ⟨t, hexec, honly, hcaches⟩ := leaves_cfgiCdAll htarget hdirect haccepts hs1p sid
    refine ⟨t, hexec, honly, fun hin => ?_, fun hout => ?_⟩
    · rw [hcaches, hin]
      exact ⟨left_filter (by simp), left_filter (by simp), rfl⟩
    · rw [hcaches, hout]
      rfl

/-- Settles O23: a VMID that the implementation does not support names nothing. -/
theorem cfgiVmsPidm : Obligations.CfgiVmsPidm := by
  unfold Obligations.CfgiVmsPidm
  intro s ssec i vmid htarget hdirect haccepts hmpam hvms
  obtain ⟨t, hexec, honly, hcaches⟩ := leaves_cfgiVmsPidm htarget hdirect haccepts hmpam hvms vmid
  have hsupported : (s.ids.vmid16 || fieldNat vmid 8 8 == 0) = true ↔ s.ids.vmid16 = true ∨ vmid.toNat < 2 ^ 8 := by
    rw [Bool.or_eq_true, fieldNat_upperByte_eq_zero]
  refine ⟨t, hexec, honly, ?_⟩
  rw [hcaches]
  cases hc : s.ids.vmid16 || fieldNat vmid 8 8 == 0 with
  | true => exact ⟨left_filter fun e => by simpa using fun _ _ => hsupported.mp hc, rfl⟩
  | false =>
    have hnone : ¬(s.ids.vmid16 = true ∨ vmid.toNat < 2 ^ 8) := fun h => by simp [hsupported.mpr h] at hc
    exact ⟨left_self fun e he => hnone he.2.2, rfl⟩

/-- Settles O24: in range the entries of the qSID go, those of the CIT by what they serve; out of range none goes. -/
theorem cfgiVsid : Obligations.CfgiVsid := by
  unfold Obligations.CfgiVsid
  intro s sid vsid hvsid hdirect haccepts
  refine ⟨?_, ?_, ?_⟩
  · obtain ⟨t, hexec, honly, hcaches⟩ := leaves_cfgiCit hvsid hdirect haccepts sid
    refine ⟨t, hexec, honly, ?_⟩
    rw [hcaches]
    cases hin : sidInRange s s.cur.sec sid with
    | true =>
      refine ⟨rfl, fun gone hgone => ?_⟩
      have hserved (a : List VsidEntry) : Left a (a.filter fun e => !e.serves s.cur.sec sid) gone :=
        left_filter fun e => serves_iff.trans ((hgone e).trans (and_iff_right rfl)).symm
      exact ⟨hserved _, hserved _, hserved _, hserved _⟩
    | false =>
      refine ⟨rfl, fun gone hgone => ?_⟩
      have hnone (a : List VsidEntry) : Left a a gone := left_self fun e => by simp [hgone]
      exact ⟨hnone _, hnone _, hnone _, hnone _⟩
  · obtain ⟨t, hexec, honly, hcaches⟩ := leaves_cfgiVstt hvsid hdirect haccepts sid
    refine ⟨t, hexec, honly, ?_⟩
    rw [hcaches]
    cases hin : sidInRange s s.cur.sec sid with
    | true =>
      exact ⟨rfl, rfl, rfl, fun gone hgone => ⟨left_filter fun e => by simp [hgone], left_filter fun e => by simp [hgone]⟩⟩
    | false =>
      exact ⟨rfl, rfl, rfl, fun gone hgone => ⟨left_self fun e => by simp [hgone], left_self fun e => by simp [hgone]⟩⟩
  · obtain ⟨t, hexec, honly, hcaches⟩ := leaves_cfgiVsttVsid hvsid hdirect haccepts sid vsid
    have hboth : (sidInRange s s.cur.sec sid && decide (vsid.toNat < 2 ^ s.ids.vsidSize s.cur.sec)) = true ↔
        sidInRange s s.cur.sec sid = true ∧ vsid.toNat < 2 ^ s.ids.vsidSize s.cur.sec := by
      rw [Bool.and_eq_true, decide_eq_true_eq]
    refine ⟨t, hexec, honly, ?_⟩
    rw [hcaches]
    cases hc : sidInRange s s.cur.sec sid && decide (vsid.toNat < 2 ^ s.ids.vsidSize s.cur.sec) with
    | true =>
      obtain ⟨hin, hvin⟩ := hboth.mp hc
      exact ⟨rfl, rfl, rfl, left_filter fun e => by simp [hin, hvin, and_assoc], left_filter fun e => by simp [hin, hvin]⟩
    | false =>
      have hnone (h : sidInRange s s.cur.sec sid = true) : ¬vsid.toNat < 2 ^ s.ids.vsidSize s.cur.sec :=
        fun h' => by simp [hboth.mpr ⟨h, h'⟩] at hc
      exact ⟨rfl, rfl, rfl, left_self fun e he => hnone he.1 he.2.1, left_self fun e he => hnone he.1 he.2.1⟩

end Sys2Proof.Proofs
end

section
/-! O6 to O16: the TLB invalidation commands (42_cmd_tlbi.md). Each is the removal of the entries in a scope, all of them or
those of an address range; it remains to say the scope in the terms of the rules. -/

namespace Sys2Proof.Proofs

open Sys2Proof.Machine Sys2Proof.Safety Sys2Proof.Laws

/-! ## Commands that remove TLB entries -/

/-- A command is consumed and takes TLB entries of the scope, all of them where `must` holds; beside RD nothing else differs
from `s`. -/
def Invalidates (s : State) (o : Host.Outcome State Fault Refusal) (must : Prop) (scope : TlbEntry → Prop) : Prop :=
  ∃ t, o = .next t ∧ OnlyCaches s t ∧ TlbInvalidated s t must scope

theorem Invalidates.congr {s : State} {o : Host.Outcome State Fault Refusal} {must : Prop} {p q : TlbEntry → Prop}
    (h : Invalidates s o must p) (he : ∀ e, p e ↔ q e) : Invalidates s o must q := by
  obtain ⟨t, hexec, honly, htlb⟩ := h
  exact ⟨t, hexec, honly, tlbInvalidated_congr htlb id he⟩

/-- Entries that a command need not take may be counted to its scope. -/
theorem Invalidates.within {s : State} {o : Host.Outcome State Fault Refusal} {must : Prop} {p q : TlbEntry → Prop}
    (h : Invalidates s o must p) (hpq : ∀ e, p e → q e) : Invalidates s o False q := by
  obtain ⟨t, hexec, honly, htlb⟩ := h
  exact ⟨t, hexec, honly, htlb.old, False.elim, fun e he hq => htlb.kept e he fun hp => hq (hpq e hp), htlb.others⟩

section Removal

variable {s u : State} {ill : Bool} {eff : State → State} (hlegal : ill = false)

include hlegal

/-- The removal may follow a lookup, which leads to `u`. -/
theorem invalidates_of_dropTlb {p : TlbEntry → Bool} (heff : eff s = dropTlb u p) (must : Prop) :
    Invalidates u (command s ill eff) must fun e => p e = true := by
  subst hlegal
  rw [command_legal, heff]
  exact ⟨_, rfl, dropTlb_consumed u u.free must p⟩

/-- The removal by address may follow the taking of a free value too. -/
theorem invalidates_of_dropTlbRange {n : Nat} {rg : TlbiRange} {leaf : Bool} {addr : DWord} {p : TlbEntry → Bool}
    (heff : eff s = dropTlbRange { u with free := n } rg leaf addr p) :
    Invalidates u (command s ill eff) (RangeDefined u.ids rg addr) fun e =>
      p e = true ∧ addrMatches u.ids rg leaf addr e = true := by
  subst hlegal
  rw [command_legal, heff]
  refine Invalidates.congr ⟨_, rfl, dropTlbRange_consumed u n rg leaf addr p⟩ fun e => ?_
  rw [Bool.and_eq_true]

end Removal

theorem dropTlb_none (s : State) : dropTlb s (fun _ => false) = s := by
  simp only [dropTlb, Bool.not_false, List.filter_true]

theorem dropTlb_dropTlb (s : State) (p q : TlbEntry → Bool) : dropTlb (dropTlb s p) q = dropTlb s fun e => p e || q e := by
  simp only [dropTlb, List.filter_filter, Bool.not_or, Bool.and_comm]

/-! ## The operands -/

theorem nonGlobal_matches_iff (d : Ids) (a : BitVec 16) (t : Option (BitVec 16)) :
    (AsidSel.nonGlobal a).matches d t = true ↔ t = some a ∧ (d.asid16 = true ∨ a.toNat < 2 ^ 8) := by
  rw [AsidSel.matches, Bool.and_eq_true, Bool.or_eq_true, fieldNat_upperByte_eq_zero, beq_iff_eq, and_comm]

theorem orGlobal_matches_iff (d : Ids) (a : BitVec 16) (t : Option (BitVec 16)) :
    (AsidSel.orGlobal a).matches d t = true ↔ (t = some a ∨ t = none) ∧ (d.asid16 = true ∨ a.toNat < 2 ^ 8) := by
  rw [AsidSel.matches, Bool.and_eq_true, Bool.or_eq_true, fieldNat_upperByte_eq_zero, Bool.or_eq_true, beq_iff_eq,
    beq_iff_eq, and_comm]

theorem nhScope_iff (s : State) (v : BitVec 16) (e : TlbEntry) :
    nhScope s v e = true ↔
      e.world = el1World s.cur.sec ∧ e.stage = .s1 ∧ vmidMatches s s.cur.sec v e.vmid = true := by
  simp only [nhScope, Bool.and_eq_true, beq_iff_eq, and_assoc]

theorem s12Scope_iff (s : State) (i : Sec) (v : BitVec 16) (e : TlbEntry) :
    s12Scope s i v e = true ↔ e.world = el1World i ∧ vmidMatches s i v e.vmid = true := by
  rw [s12Scope, Bool.and_eq_true, beq_iff_eq]

theorem s2Scope_iff (s : State) (i : Sec) (v : BitVec 16) (ns : Bool) (e : TlbEntry) :
    s2Scope s i v ns e = true ↔
      e.stage = .s2 ∧ e.nsIpa = ns ∧ e.world = el1World i ∧ vmidMatches s i v e.vmid = true := by
  rw [s2Scope, Bool.and_eq_true, Bool.and_eq_true, beq_iff_eq, beq_iff_eq, s12Scope_iff, and_assoc]

theorem el2Scope_iff (i : Sec) (e2h : Bool) (d : Ids) (a : AsidSel) (e : TlbEntry) :
    el2Scope i e2h d a e = true ↔
      if e2h then e.world = el2E2hWorld i ∧ a.matches d e.asid = true else e.world = el2World i := by
  cases e2h <;> simp [el2Scope]

/-! The regimes of the Non-secure and Realm queues; a Secure queue names the Non-secure one. -/

theorem el1World_s12Sec (s : State) : el1World (s12Sec s) = if s.cur.sec = .rl then .realmEl1 else .nsEl1 := by
  unfold s12Sec
  split <;> rfl

theorem el2World_el2Sec (s : State) : el2World (el2Sec s) = if s.cur.sec = .rl then .realmEl2 else .nsEl2 := by
  unfold el2Sec
  split <;> rfl

theorem el2E2hWorld_el2Sec (s : State) :
    el2E2hWorld (el2Sec s) = if s.cur.sec = .rl then .realmEl2E2h else .nsEl2E2h := by
  unfold el2Sec
  split <;> rfl

/-! ## CMD_TLBI_NH_*

The VMID may be that of the command, `u` being `s`, or on a DCMDQ the one that a lookup found, which led to `u`. -/

/-- Every queue takes these commands where stage 1 is implemented. -/
theorem nhIll_eq_false {s : State} (hs1p : s.ids.s1p = true) : nhIll s = false := by
  have haccepts : queueAccepts s .tlbiNh = true := by
    unfold queueAccepts
    split <;> simp
  rw [nhIll, hs1p, haccepts]
  rfl

theorem nhVmid_of_not_direct {s : State} (h : s.cur.isDirect = false) (vmid : BitVec 16) : nhVmid s vmid = (vmid, s) := by
  unfold nhVmid
  cases hcur : s.cur with
  | main i => rfl
  | ecmdq i n => rfl
  | dcmdq i n => rw [hcur] at h; cases h

theorem nhVmid_of_dcmdq {s : State} {i : Sec} {n : Nat} (h : s.cur = .dcmdq i n) (vmid : BitVec 16) :
    nhVmid s vmid = dcmdqVmid s i n := by
  rw [nhVmid, h]

section Nh

variable {s u : State} {vmid v : BitVec 16} {i : Sec} (hs1p : s.ids.s1p = true) (hvmid : nhVmid s vmid = (v, u))
  (hsec : u.cur.sec = i)

include hs1p hvmid hsec

theorem invalidates_tlbiNhAll :
    Invalidates u (exec (.tlbiNhAll vmid) s) True fun e =>
      e.world = el1World i ∧ e.stage = .s1 ∧ vmidMatches u i v e.vmid = true := by
  subst hsec
  simp only [exec, execTlbiNhAll]
  exact Invalidates.congr (invalidates_of_dropTlb (nhIll_eq_false hs1p) (by rw [hvmid]) True) (nhScope_iff u v)

variable (hids : u.ids = s.ids)

include hids

theorem invalidates_tlbiNhAsid (asid : BitVec 16) :
    Invalidates u (exec (.tlbiNhAsid vmid asid) s) True fun e =>
      e.world = el1World i ∧ e.stage = .s1 ∧ vmidMatches u i v e.vmid = true ∧ e.asid = some asid ∧
        (s.ids.asid16 = true ∨ asid.toNat < 2 ^ 8) := by
  subst hsec
  simp only [exec, execTlbiNhAsid]
  refine Invalidates.congr (invalidates_of_dropTlb (nhIll_eq_false hs1p) (by rw [hvmid]) True) fun e => ?_
  rw [Bool.and_eq_true, nhScope_iff, nonGlobal_matches_iff, hids, and_assoc, and_assoc]

variable {rg : TlbiRange} (hrange : rangeIll s.ids rg = false) (leaf : Bool) (addr : BitVec 52)

include hrange

theorem invalidates_tlbiNhVa (asid : BitVec 16) :
    Invalidates u (exec (.tlbiNhVa vmid asid rg leaf addr) s) (RangeDefined s.ids rg (vaOf addr)) fun e =>
      e.world = el1World i ∧ e.stage = .s1 ∧ vmidMatches u i v e.vmid = true ∧ (e.asid = some asid ∨ e.asid = none) ∧
        (s.ids.asid16 = true ∨ asid.toNat < 2 ^ 8) ∧ addrMatches s.ids rg leaf (vaOf addr) e = true := by
  subst hsec
  have hlegal : (nhIll s || rangeIll u.ids rg) = false := by rw [nhIll_eq_false hs1p, hids, hrange]; rfl
  simp only [exec, execTlbiNhVa, ← hids]
  refine Invalidates.congr (invalidates_of_dropTlbRange (n := u.free) hlegal (by rw [hvmid])) fun e => ?_
  rw [Bool.and_eq_true, nhScope_iff, orGlobal_matches_iff]
  simp only [and_assoc]

theorem invalidates_tlbiNhVaa :
    Invalidates u (exec (.tlbiNhVaa vmid rg leaf addr) s) (RangeDefined s.ids rg (vaOf addr)) fun e =>
      e.world = el1World i ∧ e.stage = .s1 ∧ vmidMatches u i v e.vmid = true ∧
        addrMatches s.ids rg leaf (vaOf addr) e = true := by
  subst hsec
  have hlegal : (nhIll s || rangeIll u.ids rg) = false := by rw [nhIll_eq_false hs1p, hids, hrange]; rfl
  simp only [exec, execTlbiNhVaa, ← hids]
  refine Invalidates.congr (invalidates_of_dropTlbRange (n := u.free) hlegal (by rw [hvmid])) fun e => ?_
  rw [nhScope_iff, and_assoc, and_assoc]

end Nh

/-- Settles O6: without a lookup the VMID is that of the command. -/
theorem tlbiNhByVmidAndAsid : Obligations.TlbiNhByVmidAndAsid := by
  unfold Obligations.TlbiNhByVmidAndAsid
  intro s vmid asid hs1p hdirect
  have hvmid := nhVmid_of_not_direct hdirect vmid
  exact ⟨invalidates_tlbiNhAll hs1p hvmid rfl, invalidates_tlbiNhAsid hs1p hvmid rfl rfl asid⟩

/-- Settles O7: without a lookup the VMID is that of the command. -/
theorem tlbiNhByAddress : Obligations.TlbiNhByAddress := by
  unfold Obligations.TlbiNhByAddress
  intro s vmid asid rg leaf addr hs1p hdirect hrange
  have hvmid := nhVmid_of_not_direct hdirect vmid
  exact ⟨invalidates_tlbiNhVa hs1p hvmid rfl rfl hrange leaf addr asid,
    invalidates_tlbiNhVaa hs1p hvmid rfl rfl hrange leaf addr⟩

/-! ## CMD_TLBI_NH_* and CMD_TLBI_NSNH_ALL on a DCMDQ -/

/-- With SMMUEN one the VMID is that of the STE, if the lookup finds one and its S2VMID is not IGNORED (R1910). -/
theorem dcmdqVmid_of_lookup {s r : State} {i : Sec} {n : Nat} {ste : Ste} (hen : s.smmuEn i = true)
    (hlookup : lookupSte s.takeFree.2 i (qsidOf s.ids i n) true = (.ok ste, r)) (hused : s2vmidIgnored s.ids i ste = false) :
    dcmdqVmid s i n = (ste.s2vmid, r) := by
  have hids : r.ids = s.ids := by
    have hfetch := fetch_lookupSte s.takeFree.2 i (qsidOf s.ids i n) true
    rw [hlookup] at hfetch
    exact (congrArg State.ids hfetch.same :)
  have hen' : s.takeFree.2.smmuEn i = true := by rw [State.smmuEn, State.takeFree_iface]; exact hen
  unfold dcmdqVmid
  dsimp only [State.takeFree] at hlookup hen' ⊢
  rw [hen', hlookup]
  simp [hids, hused]

/-- The lookup of the VMID leaves the queue whose command it is made for, and what is fixed. -/
theorem dcmdqVmid_kept {s u : State} {i : Sec} {n : Nat} {v : BitVec 16} (h : dcmdqVmid s i n = (v, u)) :
    u.sansFetch = s.sansFetch ∧ u.cur = s.cur ∧ u.ids = s.ids := by
  have hfetch := fetch_dcmdqVmid s i n
  rw [h] at hfetch
  exact ⟨hfetch.same, (congrArg State.cur hfetch.same :), (congrArg State.ids hfetch.same :)⟩

/-- CMD_TLBI_NSNH_ALL is CMD_TLBI_NH_ALL there, which has its VMID from the lookup too (R1931). -/
theorem exec_tlbiNsnhAll_of_dcmdq {s : State} {i : Sec} {n : Nat} (hcur : s.cur = .dcmdq i n) (hi : i ≠ .s)
    (vmid : BitVec 16) : exec .tlbiNsnhAll s = exec (.tlbiNhAll vmid) s := by
  simp [exec, execTlbiNsnhAll, execTlbiNhAll, command, hcur, hi, nhVmid_of_dcmdq hcur]

theorem exec_tlbiNsnhAll_of_secure_dcmdq {s : State} {n : Nat} (hcur : s.cur = .dcmdq .s n) :
    exec .tlbiNsnhAll s = .next (takeCmdError s .ill) := by
  simp [exec, execTlbiNsnhAll, hcur, command_ill]

/-- Settles O8: the commands act after the lookup of the VMID, as they do elsewhere with the command's own. -/
theorem tlbiNhOnDcmdq : Obligations.TlbiNhOnDcmdq := by
  unfold Obligations.TlbiNhOnDcmdq
  intro s i n hcur hs1p
  obtain ⟨v, u, hv⟩ : ∃ v u, dcmdqVmid s i n = (v, u) := ⟨_, _, rfl⟩
  obtain ⟨hfetch, hucur, hids⟩ := dcmdqVmid_kept hv
  have hvmid (vmid : BitVec 16) : nhVmid s vmid = (v, u) := (nhVmid_of_dcmdq hcur vmid).trans hv
  have hsec : u.cur.sec = i := by rw [hucur, hcur]; rfl
  refine ⟨v, u, hv, hfetch, ?_, fun vmid => invalidates_tlbiNhAll hs1p (hvmid vmid) hsec,
    fun vmid asid => invalidates_tlbiNhAsid hs1p (hvmid vmid) hsec hids asid,
    fun vmid asid rg leaf addr hrange => invalidates_tlbiNhVa hs1p (hvmid vmid) hsec hids hrange leaf addr asid,
    fun vmid rg leaf addr hrange => invalidates_tlbiNhVaa hs1p (hvmid vmid) hsec hids hrange leaf addr, ?_, ?_⟩
  · intro x w hfree hen ste r hlookup hused
    obtain rfl : s.takeFree.2 = w := congrArg Prod.snd hfree
    exact Prod.mk.inj (hv.symm.trans (dcmdqVmid_of_lookup hen hlookup hused))
  · intro hi
    rw [exec_tlbiNsnhAll_of_dcmdq hcur hi 0]
    exact invalidates_tlbiNhAll hs1p (hvmid 0) hsec
  · rintro rfl
    exact exec_tlbiNsnhAll_of_secure_dcmdq hcur

/-! ## CMD_TLBI_EL3_* -/

/-- Settles O9: the entries of the EL3 regime, which has neither VMIDs nor ASIDs. -/
theorem tlbiEl3 : Obligations.TlbiEl3 := by
  unfold Obligations.TlbiEl3
  intro s rg leaf addr hsec hdirect hrme hs1p haccepts
  simp only [exec, execTlbiEl3All, execTlbiEl3Va]
  have hlegal : el3Ill s = false := by simp [el3Ill, hsec, hdirect, hrme, hs1p, haccepts]
  refine ⟨Invalidates.congr (invalidates_of_dropTlb hlegal rfl True) fun e => beq_iff_eq, fun hrange => ?_⟩
  have hlegal' : (el3Ill s || rangeIll s.ids rg) = false := by rw [hlegal, hrange]; rfl
  exact Invalidates.congr (invalidates_of_dropTlbRange (n := s.free) hlegal' rfl) fun e => and_congr_left' beq_iff_eq

/-! ## CMD_TLBI_EL2_* and CMD_TLBI_S_EL2_*

The commands of the three Security states are the same removals, each from the two EL2 regimes of one of them. -/

theorem el2E2h_of_known {s : State} {i : Sec} (h : (s.iface i).e2hUnknown = false) : el2E2h s i = (s.e2h i, s) := by
  rw [el2E2h, h]
  rfl

/-- While E2H is UNKNOWN a free value stands for it (R1918; log entry 7). -/
theorem el2E2h_of_unknown {s : State} {i : Sec} (h : (s.iface i).e2hUnknown = true) :
    el2E2h s i = ((Config.freeValue s.free).getLsbD 0, { s with free := s.free + 1 }) := by
  rw [el2E2h, h]
  rfl

section El2

variable {s : State} {i : Sec} {ill : Bool} {eff : State → State} (hlegal : ill = false)

include hlegal

theorem invalidates_el2All (heff : eff s = dropRegime (dropRegime s (el2World i)) (el2E2hWorld i)) :
    Invalidates s (command s ill eff) True fun e => e.world = el2World i ∨ e.world = el2E2hWorld i := by
  refine (invalidates_of_dropTlb hlegal (heff.trans (dropTlb_dropTlb s _ _)) True).congr fun e => ?_
  rw [Bool.or_eq_true, beq_iff_eq, beq_iff_eq]

theorem invalidates_el2Asid (asid : BitVec 16) (heff : eff s = dropTlb s (el2Scope i true s.ids (.nonGlobal asid))) :
    Invalidates s (command s ill eff) True fun e =>
      e.world = el2E2hWorld i ∧ e.asid = some asid ∧ (s.ids.asid16 = true ∨ asid.toNat < 2 ^ 8) := by
  refine (invalidates_of_dropTlb hlegal heff True).congr fun e => ?_
  rw [el2Scope_iff, if_pos rfl, nonGlobal_matches_iff]

variable {a : AsidSel} {rg : TlbiRange} {leaf : Bool} {addr : BitVec 52} (heff : eff s = dropEl2 s i a rg leaf addr)

include heff

theorem invalidates_dropEl2 (hknown : (s.iface i).e2hUnknown = false) :
    Invalidates s (command s ill eff) (RangeDefined s.ids rg (vaOf addr)) fun e =>
      addrMatches s.ids rg leaf (vaOf addr) e = true ∧
        if s.e2h i then e.world = el2E2hWorld i ∧ a.matches s.ids e.asid = true else e.world = el2World i := by
  rw [dropEl2, el2E2h_of_known hknown] at heff
  refine (invalidates_of_dropTlbRange (n := s.free) hlegal heff).congr fun e => ?_
  rw [el2Scope_iff, and_comm]

/-- Whichever regime the free value selects, it is one of the two. -/
theorem invalidates_dropEl2_of_unknown (hunknown : (s.iface i).e2hUnknown = true) :
    Invalidates s (command s ill eff) False fun e =>
      addrMatches s.ids rg leaf (vaOf addr) e = true ∧ (e.world = el2World i ∨ e.world = el2E2hWorld i) := by
  rw [dropEl2, el2E2h_of_unknown hunknown] at heff
  refine (invalidates_of_dropTlbRange hlegal heff).within fun e ⟨hscope, haddr⟩ => ⟨haddr, ?_⟩
  rw [el2Scope_iff] at hscope
  split at hscope
  · exact .inr hscope.1
  · exact .inl hscope

end El2

theorem el2Ill_eq_false {s : State} (hhyp : s.ids.hyp = true) (hs1p : s.ids.s1p = true) (hdirect : s.cur.isDirect = false)
    (haccepts : queueAccepts s .tlbi = true) : el2Ill s = false := by
  simp [el2Ill, hhyp, hs1p, hdirect, haccepts]

theorem sEl2Ill_eq_false {s : State} (hsec : s.cur.sec = .s) (hsel2 : s.ids.sel2 = true) (hs1p : s.ids.s1p = true)
    (hdirect : s.cur.isDirect = false) (haccepts : queueAccepts s .tlbi = true) : sEl2Ill s = false := by
  simp [sEl2Ill, hsec, hsel2, hs1p, hdirect, haccepts]

/-- Settles O10: the regimes are those of `el2Sec`, by address the one that E2H selects. -/
theorem tlbiEl2 : Obligations.TlbiEl2 := by
  unfold Obligations.TlbiEl2
  intro s asid rg leaf addr hhyp hs1p hdirect haccepts
  have hlegal := el2Ill_eq_false hhyp hs1p hdirect haccepts
  simp only [exec, execTlbiEl2All, execTlbiEl2Asid, execTlbiEl2Va, execTlbiEl2Vaa, ← el2World_el2Sec, ← el2E2hWorld_el2Sec]
  refine ⟨Invalidates.congr (invalidates_el2All (i := el2Sec s) hlegal rfl) fun e => ?_,
    invalidates_el2Asid hlegal asid rfl, fun hrange hknown => ?_⟩
  · rw [el2World_el2Sec, el2E2hWorld_el2Sec]
    split <;> rfl
  · have hlegal' : (el2Ill s || rangeIll s.ids rg) = false := by rw [hlegal, hrange]; rfl
    refine ⟨Invalidates.congr (invalidates_dropEl2 hlegal' rfl hknown) fun e => ?_,
      Invalidates.congr (invalidates_dropEl2 hlegal' rfl hknown) fun e => ?_⟩
    · rw [orGlobal_matches_iff]
    · simp only [AsidSel.matches, and_true]

/-- Settles O11: the regimes are the Secure ones, by address the one that E2H selects. -/
theorem tlbiSecureEl2 : Obligations.TlbiSecureEl2 := by
  unfold Obligations.TlbiSecureEl2
  intro s asid rg leaf addr hsec hsel2 hs1p hdirect haccepts
  simp only [exec, execTlbiSEl2All, execTlbiSEl2Asid, execTlbiSEl2Va, execTlbiSEl2Vaa]
  have hlegal := sEl2Ill_eq_false hsec hsel2 hs1p hdirect haccepts
  refine ⟨invalidates_el2All (i := .s) hlegal rfl, invalidates_el2Asid (i := .s) hlegal asid rfl, fun hrange hknown => ?_⟩
  have hlegal' : (sEl2Ill s || rangeIll s.ids rg) = false := by rw [hlegal, hrange]; rfl
  refine ⟨Invalidates.congr (invalidates_dropEl2 (i := .s) hlegal' rfl hknown) fun e => ?_,
    Invalidates.congr (invalidates_dropEl2 (i := .s) hlegal' rfl hknown) fun e => ?_⟩
  · rw [orGlobal_matches_iff]
    rfl
  · simp only [AsidSel.matches, and_true]
    rfl

/-! ## The E2H in effect -/

/-- CR2 has no guard but its mask: a write stores the bits that may change now. -/
theorem iface_writeReg_cr2 (s : State) (i : Sec) (v : DWord) :
    (writeReg s i .cr2 v).iface i =
      (s.iface i).setReg s.ids 0 .cr2 (mergeBits (regValue s i .cr2) v (regWritable s i .cr2)) :=
  State.setIface_iface_same s i _

/-- SMMU_(*_)CR2 is read-only unless SMMUEN and its acknowledge are zero (R170). -/
theorem regWritable_cr2_of_enabled {s : State} {i : Sec} (h : crZero (s.iface i) 0 = false) : regWritable s i .cr2 = 0 := by
  simp only [regWritable, h, Bool.false_eq_true, if_false]

theorem mergeBits_zero {w : Nat} (old new : BitVec w) : mergeBits old new 0#w = old := by
  refine BitVec.eq_of_getLsbD_eq fun k _ => ?_
  simp [mergeBits_getLsbD]

theorem cr2_writeReg_of_enabled {s : State} {i : Sec} (h : crZero (s.iface i) 0 = false) (v : DWord) :
    ((writeReg s i .cr2 v).iface i).cr2 = (s.iface i).cr2 := by
  rw [iface_writeReg_cr2, regWritable_cr2_of_enabled h]
  simp [Iface.setReg, regValue, mergeBits_zero]

theorem iface_clearRun (s : State) (g : AtosGroup) (i : Sec) : (clearRun s g).iface i = s.iface i := by
  cases g <;> cases i <;> rfl

/-- An Update of SMMUEN to one touches ATOS groups only, beside the acknowledge (R162). -/
theorem iface_updateCr_of_enabling {s : State} {i : Sec} (hcr0 : (s.iface i).cr0.getLsbD 0 = true)
    (hack : (s.iface i).cr0ack.getLsbD 0 = false) : (updateCr s i).iface i = (s.iface i).ackCr0 := by
  have heffects (t : State) : (smmuenEffects t i true).iface i = t.iface i := by
    cases i <;> simp [smmuenEffects, atosGroups, iface_clearRun]
  unfold updateCr
  dsimp only
  rw [hcr0, hack, if_pos (by rfl), heffects, State.setIface_iface_same]

/-- Settles O12: E2H by the stores of CR2 and the acknowledge of CR0; the commands take what either regime holds, at most. -/
theorem tlbiEl2WhileE2hUnknown : Obligations.TlbiEl2WhileE2hUnknown := by
  unfold Obligations.TlbiEl2WhileE2hUnknown
  refine ⟨fun s i v => ⟨?_, fun hen => cr2_writeReg_of_enabled hen v, fun hcr0 hack => ?_⟩,
    fun s asid rg leaf addr hs1p hdirect haccepts hrange => ⟨fun hhyp hunknown => ?_, fun hsel2 hsec hunknown => ?_⟩⟩
  · rw [iface_writeReg_cr2]
    rfl
  · rw [State.smmuEn, iface_updateCr_of_enabling hcr0 hack]
    simp only [Iface.ackCr0, hcr0, hack, Bool.not_false, Bool.and_true, Bool.not_true, Bool.and_false, and_self]
  · have hlegal : (el2Ill s || rangeIll s.ids rg) = false := by
      rw [el2Ill_eq_false hhyp hs1p hdirect haccepts, hrange]; rfl
    simp only [exec, execTlbiEl2Va, execTlbiEl2Vaa]
    exact ⟨invalidates_dropEl2_of_unknown hlegal rfl hunknown, invalidates_dropEl2_of_unknown hlegal rfl hunknown⟩
  · have hlegal : (sEl2Ill s || rangeIll s.ids rg) = false := by
      rw [sEl2Ill_eq_false hsec hsel2 hs1p hdirect haccepts, hrange]; rfl
    simp only [exec, execTlbiSEl2Va, execTlbiSEl2Vaa]
    exact ⟨invalidates_dropEl2_of_unknown (i := .s) hlegal rfl hunknown,
      invalidates_dropEl2_of_unknown (i := .s) hlegal rfl hunknown⟩

/-! ## Stage 2 and all stages -/

theorem s12Ill_eq_false {s : State} (hs2p : s.ids.s2p = true) (hdirect : s.cur.isDirect = false)
    (haccepts : queueAccepts s .tlbi = true) : s12Ill s = false := by
  simp [s12Ill, hs2p, hdirect, haccepts]

theorem sS12Ill_eq_false {s : State} (hsec : s.cur.sec = .s) (hstage2 : s.ids.stage2Of .s = true)
    (hdirect : s.cur.isDirect = false) (haccepts : queueAccepts s .tlbi = true) : sS12Ill s = false := by
  simp [sS12Ill, hsec, hstage2, hdirect, haccepts]

section Stage2

variable {s : State} {i : Sec} {ill : Bool} {eff : State → State} {vmid : BitVec 16} (hlegal : ill = false)

include hlegal

theorem invalidates_s12Vmall (heff : eff s = dropTlb s (s12Scope s i vmid)) :
    Invalidates s (command s ill eff) True fun e => e.world = el1World i ∧ vmidMatches s i vmid e.vmid = true :=
  (invalidates_of_dropTlb hlegal heff True).congr (s12Scope_iff s i vmid)

/-- An IPA beyond the IAS takes nothing (log entry 49). -/
theorem invalidates_s2Ipa {ns : Bool} {rg : TlbiRange} {leaf : Bool} {addr : BitVec 44}
    (heff : eff s = if ipaInRange s.ids addr then dropTlbRange s rg leaf (paOf s.ids addr) (s2Scope s i vmid ns) else s) :
    Invalidates s (command s ill eff) (RangeDefined s.ids rg (paOf s.ids addr)) fun e =>
      (paOf s.ids addr).toNat < 2 ^ s.ids.ias ∧ e.world = el1World i ∧ e.stage = .s2 ∧ e.nsIpa = ns ∧
        vmidMatches s i vmid e.vmid = true ∧ addrMatches s.ids rg leaf (paOf s.ids addr) e = true := by
  by_cases hin : (paOf s.ids addr).toNat < 2 ^ s.ids.ias
  · rw [ipaInRange, if_pos (decide_eq_true hin)] at heff
    refine (invalidates_of_dropTlbRange (n := s.free) hlegal heff).congr fun e => ?_
    rw [s2Scope_iff]
    tauto
  · rw [ipaInRange, if_neg (by simpa using hin)] at heff
    refine (invalidates_of_dropTlb hlegal (heff.trans (dropTlb_none s).symm) _).congr fun e => ?_
    simp [hin]

/-- What is left of the TLB are the same entries, some without their dirty state. -/
theorem leaves_s2Vmallw (heff : eff s = clearDirty s (s12Scope s i vmid)) :
    Leaves s (command s ill eff)
      { s.caches with tlb := s.caches.tlb.map fun e =>
          if e.world = el1World i ∧ vmidMatches s i vmid e.vmid = true then { e with dirty := false } else e } := by
  subst hlegal
  simp only [← s12Scope_iff]
  exact leaves_command heff

end Stage2

/-- Settles O13: the regime is that of `s12Sec`. -/
theorem tlbiStage2 : Obligations.TlbiStage2 := by
  unfold Obligations.TlbiStage2
  intro s vmid rg leaf addr hs2p hdirect haccepts
  have hlegal := s12Ill_eq_false hs2p hdirect haccepts
  simp only [exec, execTlbiS12Vmall, execTlbiS2Ipa, ← el1World_s12Sec]
  refine ⟨invalidates_s12Vmall hlegal rfl, fun hrange => ?_⟩
  have hlegal' : (s12Ill s || rangeIll s.ids rg) = false := by rw [hlegal, hrange]; rfl
  exact invalidates_s2Ipa hlegal' rfl

/-- Settles O14: the regime is the Secure one, and NS names the IPA space. -/
theorem tlbiSecureStage2 : Obligations.TlbiSecureStage2 := by
  unfold Obligations.TlbiSecureStage2
  intro s vmid ns rg leaf addr hsec hstage2 hdirect haccepts
  have hlegal := sS12Ill_eq_false hsec hstage2 hdirect haccepts
  simp only [exec, execTlbiSS12Vmall, execTlbiSS2Ipa]
  refine ⟨invalidates_s12Vmall (i := .s) hlegal rfl, fun hrange => ?_⟩
  have hlegal' : (sS12Ill s || rangeIll s.ids rg) = false := by rw [hlegal, hrange]; rfl
  exact invalidates_s2Ipa (i := .s) hlegal' rfl

/-- Settles O15: the entries stay, those of the VMID without their dirty state. -/
theorem tlbiDirtyState : Obligations.TlbiDirtyState := by
  unfold Obligations.TlbiDirtyState
  intro s vmid htlbiw hdirect haccepts
  refine ⟨fun hs2p => ?_, fun hsec hstage2 => ?_⟩
  · have hlegal : (!s.ids.tlbiw || s12Ill s) = false := by rw [htlbiw, s12Ill_eq_false hs2p hdirect haccepts]; rfl
    simp only [exec, execTlbiS2Vmallw, ← el1World_s12Sec]
    exact leaves_s2Vmallw hlegal rfl
  · have hlegal : (!s.ids.tlbiw || sS12Ill s) = false := by rw [htlbiw, sS12Ill_eq_false hsec hstage2 hdirect haccepts]; rfl
    simp only [exec, execTlbiSS2Vmallw]
    exact leaves_s2Vmallw (i := .s) hlegal rfl

/-! ## All entries of a regime -/

theorem exec_tlbiNsnhAll_of_not_direct {s : State} (h : s.cur.isDirect = false) :
    exec .tlbiNsnhAll s = command s (!queueAccepts s .tlbiNsnh) fun s => dropRegime s (el1World (s12Sec s)) := by
  cases hcur : s.cur with
  | main i => simp [exec, execTlbiNsnhAll, hcur]
  | ecmdq i n => simp [exec, execTlbiNsnhAll, hcur]
  | dcmdq i n => rw [hcur] at h; cases h

/-- Settles O16: the entries of one regime, at all stages. -/
theorem tlbiAllOfARegime : Obligations.TlbiAllOfARegime := by
  unfold Obligations.TlbiAllOfARegime
  intro s hdirect
  refine ⟨fun haccepts => ?_, fun hsec hsel2 haccepts => ?_⟩
  · simp only [← el1World_s12Sec, exec_tlbiNsnhAll_of_not_direct hdirect]
    exact Invalidates.congr (invalidates_of_dropTlb (by rw [haccepts]; rfl) rfl True) fun e => beq_iff_eq
  · have hlegal : (s.cur.sec != .s || s.cur.isDirect || !s.ids.sel2 || !queueAccepts s .tlbi) = false := by
      rw [hsec, hdirect, hsel2, haccepts]; rfl
    simp only [exec, execTlbiSnhAll]
    exact Invalidates.congr (invalidates_of_dropTlb hlegal rfl True) fun e => beq_iff_eq

end Sys2Proof.Proofs
end

section
/-! O17 and O18: what the operands of TLB invalidation commands name (42_cmd_tlbi.md R1900 to R1904). -/

namespace Sys2Proof.Proofs

open Sys2Proof.Machine

/-! ## VMIDs -/

/-- SMMU_(*_)CR0.VMW takes up to four bits out of the comparison (31_tlb_tagging.md R1274). -/
theorem vmwBits_le (s : State) (i : Sec) : vmwBits s i ≤ 4 := by
  unfold vmwBits
  split
  · split <;> decide
  · exact Nat.zero_le 4

theorem vmwBits_of_not_impl {s : State} (h : s.ids.vmwImpl = false) (i : Sec) : vmwBits s i = 0 := by
  simp [vmwBits, h]

/-- Two words are equal from bit `n` on exactly if they are equal without their low `n` bits. -/
theorem div_two_pow_eq_iff {w : Nat} (x y : BitVec w) (n : Nat) :
    x.toNat / 2 ^ n = y.toNat / 2 ^ n ↔ ∀ k, n ≤ k → x.getLsbD k = y.getLsbD k := by
  constructor
  · intro h k hk
    obtain ⟨m, rfl⟩ := Nat.exists_eq_add_of_le' hk
    rw [← BitVec.testBit_toNat, ← BitVec.testBit_toNat, ← Nat.testBit_div_two_pow, h, Nat.testBit_div_two_pow]
  · intro h
    refine Nat.eq_of_testBit_eq fun m => ?_
    rw [Nat.testBit_div_two_pow, Nat.testBit_div_two_pow, BitVec.testBit_toNat, BitVec.testBit_toNat,
      h (m + n) (Nat.le_add_left n m)]

/-- The operand has no more bits than the implementation has in a VMID (R1901). -/
theorem vmidSupported_iff (s : State) (v : BitVec 16) :
    (s.ids.vmid16 || fieldNat v 8 8 == 0) = true ↔ s.ids.vmid16 = true ∨ v.toNat < 2 ^ 8 := by
  rw [Bool.or_eq_true, fieldNat_upperByte_eq_zero]

theorem vmidMatches_none_iff {s : State} {i : Sec} {v : BitVec 16} (h : s.ids.vmid16 = true ∨ v.toNat < 2 ^ 8) :
    vmidMatches s i v none = true ↔ v = 0 := by
  rw [vmidMatches, (vmidSupported_iff s v).mpr h, Bool.true_and, beq_iff_eq]

theorem vmidMatches_some_iff {s : State} {i : Sec} {v : BitVec 16} (h : s.ids.vmid16 = true ∨ v.toNat < 2 ^ 8)
    (e : BitVec 16) : vmidMatches s i v (some e) = true ↔ ∀ k, vmwBits s i ≤ k → e.getLsbD k = v.getLsbD k := by
  rw [vmidMatches, (vmidSupported_iff s v).mpr h, Bool.true_and, beq_iff_eq, div_two_pow_eq_iff]

theorem vmidMatches_of_not_supported {s : State} {i : Sec} {v : BitVec 16}
    (h : ¬(s.ids.vmid16 = true ∨ v.toNat < 2 ^ 8)) (t : Option (BitVec 16)) : vmidMatches s i v t = false := by
  unfold vmidMatches
  rw [Bool.eq_false_iff.mpr (mt (vmidSupported_iff s v).mp h), Bool.false_and]

/-- Settles O17: an operand that the implementation supports is compared from bit `vmwBits` on. -/
theorem vmidOperand : Obligations.VmidOperand := by
  unfold Obligations.VmidOperand
  intro s i v
  refine ⟨fun h8 hv t => vmidMatches_of_not_supported ?_ t, fun h => ⟨vmidMatches_none_iff h, vmidMatches_some_iff h⟩,
    vmwBits_le s i, fun h => vmwBits_of_not_impl h i⟩
  rintro (h16 | hlow)
  · simp [h8] at h16
  · omega

/-! ## Addresses -/

theorem regionMeets_iff (va : DWord) (n : Nat) (a : DWord) (len : Nat) :
    regionMeets va n a len = true ↔ low56 va < low56 a + len ∧ low56 a < low56 va + 2 ^ n := by
  rw [regionMeets, decide_eq_true_eq]

/-- Without a level, Leaf alone says whether intermediate entries are named (R1902). -/
theorem levelMatches_iff_of_no_level {d : Ids} {rg : TlbiRange} (h : rangeUsed d rg = true → ttlOf d rg = 0) (leaf : Bool)
    (e : TlbEntry) : levelMatches d rg leaf e = true ↔ e.isLeaf = true ∨ leaf = false := by
  have hlevel : (if rangeUsed d rg = true then ttlOf d rg else 0) = 0 := by
    split
    · next hused => exact h hused
    · rfl
  simp only [levelMatches, hlevel, if_true, Bool.or_eq_true, Bool.not_eq_true']

/-- With a level, a leaf entry is named at that level, an intermediate one above it if Leaf is zero (R1904). -/
theorem levelMatches_iff_of_level {d : Ids} {rg : TlbiRange} (hused : rangeUsed d rg = true) (h : ttlOf d rg ≠ 0)
    (leaf : Bool) (e : TlbEntry) :
    levelMatches d rg leaf e = true ↔
      if e.isLeaf then e.level = ttlOf d rg ∧ e.leaf.d128 = rg.ttl128 else leaf = false ∧ e.level < ttlOf d rg := by
  cases hleaf : e.isLeaf <;> simp [levelMatches, hused, h, hleaf]

/-- Settles O18: what the level operands ask for, and where the region of the entry lies. -/
theorem addressOperand : Obligations.AddressOperand := by
  unfold Obligations.AddressOperand
  intro d rg leaf a e
  refine ⟨fun hnone => ?_, fun hused => ?_⟩
  · have hlevel := levelMatches_iff_of_no_level (d := d) (rg := rg) (fun hused => by simp [hnone] at hused) leaf e
    rw [addrMatches, Bool.and_eq_true, hlevel, hnone, if_neg Bool.false_ne_true, regionMeets_iff, Nat.lt_succ_iff]
  · rw [addrMatches, Bool.and_eq_true, hused, if_pos rfl, Bool.and_eq_true, beq_iff_eq, regionMeets_iff, rangeBytes]
    by_cases httl : ttlOf d rg = 0
    · rw [levelMatches_iff_of_no_level fun _ => httl]
      tauto
    · rw [levelMatches_iff_of_level hused httl]
      tauto

end Sys2Proof.Proofs
end

section
/-! O40 and O41: the commands that are CERROR_ILL for a Reserved parameter or a missing feature. -/

namespace Sys2Proof.Proofs

open Sys2Proof.Machine Sys2Proof.Laws

/-! ## Reserved parameters -/

/-- TG not zero with NUM, SCALE and TTL zero (42_cmd_tlbi.md R1903). -/
theorem rangeIll_of_reserved {d : Ids} {rg : TlbiRange} (hril : d.ril = true) (htg : rg.tg ≠ 0) (hnum : rg.num = 0)
    (hscale : scaleOf d rg = 0) (httl : ttlOf d rg = 0) : rangeIll d rg = true := by
  rw [rangeIll, rangeUsed, hril, bne_iff_ne.mpr htg, hnum, hscale, httl]
  rfl

theorem exec_tlbi_of_rangeIll {s : State} {rg : TlbiRange} (h : rangeIll s.ids rg = true) (v a : BitVec 16) (l b : Bool)
    (x : BitVec 52) (y : BitVec 44) :
    ∀ i ∈ [Instr.tlbiNhVa v a rg l x, .tlbiNhVaa v rg l x, .tlbiEl3Va rg l x, .tlbiEl2Va a rg l x, .tlbiEl2Vaa rg l x,
        .tlbiSEl2Va a rg l x, .tlbiSEl2Vaa rg l x, .tlbiS2Ipa v rg l y, .tlbiSS2Ipa v b rg l y],
      exec i s = .next (takeCmdError s .ill) := by
  simp only [List.forall_mem_cons, List.not_mem_nil, false_implies, implies_true, exec, execTlbiNhVa, execTlbiNhVaa,
    execTlbiEl3Va, execTlbiEl2Va, execTlbiEl2Vaa, execTlbiSEl2Va, execTlbiSEl2Vaa, execTlbiS2Ipa, execTlbiSS2Ipa, h,
    Bool.or_true, command_ill, and_self]

theorem exec_sync_of_reserved (s : State) (m : BitVec 2) (z : BitVec 4) (w : BitVec 32) (q : BitVec 54) (b : Bool) :
    exec (.sync 3 m z w q b) s = .next (takeCmdError s .ill) := by
  simp only [exec, execSync, if_true, finish, CmdOut.state]

theorem exec_priResp_of_reserved (s : State) (b : Bool) (ssid : BitVec 20) (sid : BitVec 32) (p : BitVec 9) :
    exec (.priResp b ssid sid p 3) s = .next (takeCmdError s .ill) := rfl

/-- A Size above 52 is Reserved in this model (log entry 9). -/
theorem exec_atcInv_of_reserved (s : State) (g b : Bool) (ssid : BitVec 20) (sid : BitVec 32) {n : BitVec 6}
    (hn : 52 < n.toNat) (x : BitVec 52) : exec (.atcInv g b ssid sid n x) s = .next (takeCmdError s .ill) := by
  simp only [exec, execAtcInv, decide_eq_true hn, Bool.or_true, if_true, finish, CmdOut.state]

/-- Settles O40: each Reserved parameter is looked at before the command has any effect. -/
theorem reservedParameters : Obligations.ReservedParameters := by
  unfold Obligations.ReservedParameters
  intro s v a rg l b g x y ssid sid w m z p q n
  exact ⟨fun hril htg hnum hscale httl => exec_tlbi_of_rangeIll (rangeIll_of_reserved hril htg hnum hscale httl) v a l b x y,
    exec_sync_of_reserved s m z w q b, exec_priResp_of_reserved s b ssid sid p,
    fun hn => exec_atcInv_of_reserved s g b ssid sid hn x⟩

/-! ## Missing features

The commands of a regime are CERROR_ILL by the condition of its legality, which any of the features that they need makes
true. -/

section Regimes

variable {s : State} (v a : BitVec 16) (rg : TlbiRange) (l b : Bool) (x : BitVec 52) (y : BitVec 44)

theorem exec_nh_of_ill (h : nhIll s = true) :
    ∀ i ∈ [Instr.tlbiNhAll v, .tlbiNhAsid v a, .tlbiNhVa v a rg l x, .tlbiNhVaa v rg l x],
      exec i s = .next (takeCmdError s .ill) := by
  simp only [List.forall_mem_cons, List.not_mem_nil, false_implies, implies_true, exec, execTlbiNhAll, execTlbiNhAsid,
    execTlbiNhVa, execTlbiNhVaa, h, Bool.true_or, command_ill, and_self]

theorem exec_el3_of_ill (h : el3Ill s = true) :
    ∀ i ∈ [Instr.tlbiEl3All, .tlbiEl3Va rg l x], exec i s = .next (takeCmdError s .ill) := by
  simp only [List.forall_mem_cons, List.not_mem_nil, false_implies, implies_true, exec, execTlbiEl3All, execTlbiEl3Va, h,
    Bool.true_or, command_ill, and_self]

theorem exec_el2_of_ill (h : el2Ill s = true) :
    ∀ i ∈ [Instr.tlbiEl2All, .tlbiEl2Asid a, .tlbiEl2Va a rg l x, .tlbiEl2Vaa rg l x],
      exec i s = .next (takeCmdError s .ill) := by
  simp only [List.forall_mem_cons, List.not_mem_nil, false_implies, implies_true, exec, execTlbiEl2All, execTlbiEl2Asid,
    execTlbiEl2Va, execTlbiEl2Vaa, h, Bool.true_or, command_ill, and_self]

theorem exec_sEl2_of_ill (h : sEl2Ill s = true) :
    ∀ i ∈ [Instr.tlbiSEl2All, .tlbiSEl2Asid a, .tlbiSEl2Va a rg l x, .tlbiSEl2Vaa rg l x],
      exec i s = .next (takeCmdError s .ill) := by
  simp only [List.forall_mem_cons, List.not_mem_nil, false_implies, implies_true, exec, execTlbiSEl2All, execTlbiSEl2Asid,
    execTlbiSEl2Va, execTlbiSEl2Vaa, h, Bool.true_or, command_ill, and_self]

theorem exec_s12_of_ill (h : s12Ill s = true) :
    ∀ i ∈ [Instr.tlbiS12Vmall v, .tlbiS2Vmallw v, .tlbiS2Ipa v rg l y], exec i s = .next (takeCmdError s .ill) := by
  simp only [List.forall_mem_cons, List.not_mem_nil, false_implies, implies_true, exec, execTlbiS12Vmall, execTlbiS2Vmallw,
    execTlbiS2Ipa, h, Bool.true_or, Bool.or_true, command_ill, and_self]

theorem exec_sS12_of_ill (h : sS12Ill s = true) :
    ∀ i ∈ [Instr.tlbiSS12Vmall v, .tlbiSS2Vmallw v, .tlbiSS2Ipa v b rg l y], exec i s = .next (takeCmdError s .ill) := by
  simp only [List.forall_mem_cons, List.not_mem_nil, false_implies, implies_true, exec, execTlbiSS12Vmall,
    execTlbiSS2Vmallw, execTlbiSS2Ipa, h, Bool.true_or, Bool.or_true, command_ill, and_self]

theorem exec_vmallw_of_no_tlbiw (h : s.ids.tlbiw = false) :
    ∀ i ∈ [Instr.tlbiS2Vmallw v, .tlbiSS2Vmallw v], exec i s = .next (takeCmdError s .ill) := by
  simp only [List.forall_mem_cons, List.not_mem_nil, false_implies, implies_true, exec, execTlbiS2Vmallw,
    execTlbiSS2Vmallw, h, Bool.not_false, Bool.true_or, command_ill, and_self]

theorem exec_snhAll_of_no_sel2 (h : s.ids.sel2 = false) : exec .tlbiSnhAll s = .next (takeCmdError s .ill) := by
  simp only [exec, execTlbiSnhAll, h, Bool.not_false, Bool.true_or, Bool.or_true, command_ill]

end Regimes

section Others

variable {s : State}

/-- A command with SSec is CERROR_ILL if its own reason holds for the Security state that SSec names, if it names one. -/
theorem cfgiCommand_of_ill {ssec : Bool} {ill : Sec → Bool} (h : ∀ i, targetSec s ssec = some i → ill i = true)
    (eff : Sec → State → State) : cfgiCommand s ssec ill eff = .next (takeCmdError s .ill) := by
  unfold cfgiCommand
  cases htarget : targetSec s ssec with
  | none => rfl
  | some i =>
    dsimp only
    rw [h i htarget, Bool.or_true, command_ill]

theorem exec_cfgiCd_of_no_stage1 (h : s.ids.s1p = false) (c l : Bool) (ssid : BitVec 20) (sid : BitVec 32) :
    ∀ i ∈ [Instr.cfgiCd c ssid sid l, .cfgiCdAll c sid], exec i s = .next (takeCmdError s .ill) := by
  have hill : ∀ i, targetSec s c = some i → (!s.ids.s1p) = true := fun _ _ => by rw [h]; rfl
  simp only [List.forall_mem_cons, List.not_mem_nil, false_implies, implies_true, and_true]
  exact ⟨cfgiCommand_of_ill hill _, cfgiCommand_of_ill hill _⟩

theorem exec_cfgiVmsPidm_of_not_supported {c : Bool}
    (h : ∀ i, targetSec s c = some i → s.ids.mpamOf i = false ∨ vmsSupported s.ids i = false) (v : BitVec 16) :
    exec (.cfgiVmsPidm c v) s = .next (takeCmdError s .ill) :=
  cfgiCommand_of_ill (fun i hi => by rcases h i hi with h | h <;> simp [h]) _

theorem exec_vsid_of_no_vsid (h : s.ids.vsid s.cur.sec = false) (sid : BitVec 32) (v : BitVec 16) :
    ∀ i ∈ [Instr.cfgiCit sid, .cfgiVstt sid, .cfgiVsttVsid sid v], exec i s = .next (takeCmdError s .ill) := by
  have hill : vsidIll s = true := by simp [vsidIll, h]
  simp only [List.forall_mem_cons, List.not_mem_nil, false_implies, implies_true, exec, execCfgiCit, execCfgiVstt,
    execCfgiVsttVsid, hill, command_ill, and_self]

/-- A queue lacks a feature that the Non-secure and Realm streams have each for themselves, `f` and `r`: the Secure queue acts
on Non-secure streams, unless the SMMU has SAMS (43_cmd_ats_pri_dpt.md R2003, R2006, R2010). -/
def lacksFeature (i : Sec) (f r sams : Bool) : Bool :=
  match i with
  | .ns => !f
  | .s => !f || sams
  | .rl => !r

theorem lacksFeature_iff (i : Sec) (f r sams : Bool) :
    lacksFeature i f r sams = true ↔ (i = .rl ∧ r = false) ∨ (i ≠ .rl ∧ f = false) ∨ (i = .s ∧ sams = true) := by
  cases i <;> simp [lacksFeature]

theorem atcIll_eq (s : State) : atcIll s =
    (lacksFeature s.cur.sec s.ids.ats (s.ids.atsOf .rl) s.ids.sams || dcmdqNoSid s || !queueAccepts s .atc) := rfl

theorem priIll_eq (s : State) : priIll s =
    (lacksFeature s.cur.sec s.ids.pri (s.ids.priOf .rl) s.ids.sams || dcmdqNoSid s || !queueAccepts s .pri) := rfl

theorem dptiIll_eq (s : State) : dptiIll s =
    (lacksFeature s.cur.sec (s.ids.dpt .ns) (s.ids.dpt .rl) s.ids.sams || s.cur.isDirect || !queueAccepts s .dpti) := rfl

/-- The DPT of Non-secure streams is maintained from the Non-secure and, without SAMS, from the Secure queue (R2010). -/
theorem exec_dpti_of_no_dpt
    (h : s.ids.dpt (if s.cur.sec = .rl then .rl else .ns) = false ∨ (s.cur.sec = .s ∧ s.ids.sams = true)) (l : Bool)
    (z : BitVec 4) (y : BitVec 44) : ∀ i ∈ [Instr.dptiAll, .dptiPa l z y], exec i s = .next (takeCmdError s .ill) := by
  have hlacks : lacksFeature s.cur.sec (s.ids.dpt .ns) (s.ids.dpt .rl) s.ids.sams = true := by
    rw [lacksFeature_iff]
    by_cases hsec : s.cur.sec = .rl <;> simpa [hsec] using h
  have hill : dptiIll s = true := by rw [dptiIll_eq, hlacks]; rfl
  simp only [List.forall_mem_cons, List.not_mem_nil, false_implies, implies_true, exec, execDptiAll, execDptiPa, hill,
    command_ill, and_self]

theorem exec_atcInv_of_no_ats
    (h : (s.cur.sec = .rl ∧ s.ids.atsOf .rl = false) ∨ (s.cur.sec ≠ .rl ∧ s.ids.ats = false) ∨
      (s.cur.sec = .s ∧ s.ids.sams = true)) (g b : Bool) (ssid : BitVec 20) (sid : BitVec 32) (n : BitVec 6) (x : BitVec 52) :
    exec (.atcInv g b ssid sid n x) s = .next (takeCmdError s .ill) := by
  have hill : atcIll s = true := by rw [atcIll_eq, (lacksFeature_iff _ _ _ _).mpr h]; rfl
  simp only [exec, execAtcInv, hill, Bool.true_or, if_true, finish, CmdOut.state]

theorem exec_priResp_of_no_pri
    (h : (s.cur.sec = .rl ∧ s.ids.priOf .rl = false) ∨ (s.cur.sec ≠ .rl ∧ s.ids.pri = false) ∨
      (s.cur.sec = .s ∧ s.ids.sams = true)) (b : Bool) (ssid : BitVec 20) (sid : BitVec 32) (p : BitVec 9) (r : BitVec 2) :
    exec (.priResp b ssid sid p r) s = .next (takeCmdError s .ill) := by
  have hill : priIll s = true := by rw [priIll_eq, (lacksFeature_iff _ _ _ _).mpr h]; rfl
  cases hcode : respCode r <;> simp only [exec, execPriResp, hcode, hill, if_true, finish, CmdOut.state]

theorem exec_stall_of_no_stall (h : s.stallModel s.cur.sec = 1 ∨ s.cur.sec = .rl) (c b l : Bool) (sid : BitVec 32)
    (a : BitVec 16) : ∀ i ∈ [Instr.resume c b l sid a, .stallTerm c sid], exec i s = .next (takeCmdError s .ill) := by
  have hill : stallIll s = true := by rcases h with h | h <;> simp [stallIll, h]
  simp only [List.forall_mem_cons, List.not_mem_nil, false_implies, implies_true, exec, execResume, execStallTerm, hill,
    command_ill, and_true]
  cases targetSec s c with
  | none => exact ⟨rfl, rfl⟩
  | some i => exact ⟨rfl, rfl⟩

end Others

/-- Settles O41: each feature makes the condition of its commands true, and a command asks for all the features it needs. -/
theorem missingFeatures : Obligations.MissingFeatures := by
  unfold Obligations.MissingFeatures
  intro s v a rg l b c g x y ssid sid z p r n
  refine ⟨fun hs1p => ?_, fun hhyp => exec_el2_of_ill a rg l x (by simp [el2Ill, hhyp]), fun hsel2 => ?_,
    fun hs2p => exec_s12_of_ill v rg l y (by simp [s12Ill, hs2p]),
    fun hstage2 => exec_sS12_of_ill v rg l b y (by simp [sS12Ill, hstage2]), exec_vmallw_of_no_tlbiw v,
    fun hrme => exec_el3_of_ill rg l x (by simp [el3Ill, hrme]),
    fun h => exec_cfgiVmsPidm_of_not_supported h v, fun h => exec_vsid_of_no_vsid h sid v,
    fun h => exec_dpti_of_no_dpt h l z y, fun h => exec_atcInv_of_no_ats h g b ssid sid n x,
    fun h => exec_priResp_of_no_pri h b ssid sid p r, fun h => exec_stall_of_no_stall h c b l sid a⟩
  · have hnh := exec_nh_of_ill (s := s) v a rg l x (by simp [nhIll, hs1p])
    have hel3 := exec_el3_of_ill (s := s) rg l x (by simp [el3Ill, hs1p])
    have hel2 := exec_el2_of_ill (s := s) a rg l x (by simp [el2Ill, hs1p])
    have hsEl2 := exec_sEl2_of_ill (s := s) a rg l x (by simp [sEl2Ill, hs1p])
    have hcd := exec_cfgiCd_of_no_stage1 hs1p c l ssid sid
    exact List.forall_mem_append.mpr ⟨hnh, List.forall_mem_append.mpr ⟨hel3, List.forall_mem_append.mpr ⟨hel2,
      List.forall_mem_append.mpr ⟨hsEl2, hcd⟩⟩⟩⟩
  · have hsEl2 := exec_sEl2_of_ill (s := s) a rg l x (by simp [sEl2Ill, hsel2])
    exact List.forall_mem_append.mpr ⟨hsEl2, by simpa using exec_snhAll_of_no_sel2 hsel2⟩

end Sys2Proof.Proofs
end

section
/-! O50: no client of the SMMU changes a register that software configures. -/

namespace Sys2Proof.Proofs

open Sys2Proof.Machine Sys2Proof.Laws

theorem takes_takeNoSid (s : State) (t : NoSidTxn) : Takes s (takeNoSid s t) := by
  have h : Takes s (if s.sfm then s.respond t.tag .abort else processNoSid s t) :=
    .ite (takes_respond _ _ _) (.of_lookup (only_processNoSid _ _))
  exact h.trans (takes_noteRequest _ _ _ _)

theorem takes_takeTr (s : State) (r : AtsReq) : Takes s (takeTr s r) := by
  have h : Takes s (if s.sfm then s.send (.atsCompletion (.failed s.ids r .ca)) else processTr s r) :=
    .ite (takes_send _ _) (takes_processTr _ _)
  exact h.trans (takes_noteRequest _ _ _ _)

/-- Settles O50: each input of a client is taken with `Takes`, and so is the counting after it. -/
theorem clientsKeepConfiguration : Obligations.ClientsKeepConfiguration := by
  unfold Obligations.ClientsKeepConfiguration
  intro s t i rest hnext hclient hstep
  have htakes : Takes (taking s rest) (takeInput (taking s rest) i) := by
    obtain ⟨x, rfl⟩ | ⟨x, rfl⟩ | ⟨x, rfl⟩ | ⟨x, rfl⟩ | ⟨x, rfl⟩ := hclient
    · exact takes_takeTxn _ x
    · exact takes_takeNoSid _ x
    · exact takes_takeTr _ x
    · exact takes_processPri _ x
    · exact takes_processPageHint _ x
  rw [step_of_nextInput hnext] at hstep
  obtain rfl : countLog (takeInput (taking s rest) i) = t := by simpa [counted] using hstep
  exact (htakes.trans (takes_countLog _)).only.same

end Sys2Proof.Proofs
end

section
/-! O47, O53: reset (70_reset_and_hazards.md R2500, R2504). -/

namespace Sys2Proof.Proofs

open Sys2Proof.Machine Sys2Proof.Safety Sys2Proof.Laws

/-- Settles O47: no memory is listed, no flag is set and no transaction is stalled after reset. -/
theorem resetMeetsTheInvariant : Obligations.ResetMeetsTheInvariant where
  memory := rfl
  errors i n h := by cases i <;> simp [State.reset, State.resetWith, State.iface, Iface.reset] at h
  stalls := by simp [StallsBounded, recordedStalls, State.reset, State.resetWith]

/-- Reset leaves no performance event to be counted. -/
theorem countLog_takeReset (s : State) : countLog (takeReset s) = takeReset s := rfl

/-- In every interface SMMUEN, PRIQEN, EVENTQEN and CMDQEN, the interrupt enables and the error flags are zero after reset. -/
theorem iface_takeReset_disabled (s : State) (i : Sec) :
    ((takeReset s).iface i).cr0.extractLsb' 0 4 = 0#4 ∧ ((takeReset s).iface i).cr0ack.extractLsb' 0 4 = 0#4 ∧
      ((takeReset s).iface i).irqCtrl = 0 ∧ ((takeReset s).iface i).gerror = 0 ∧ ((takeReset s).iface i).gerrorn = 0 := by
  have atschkOnly (b : Bool) : (if b then 0x10#32 else 0#32).extractLsb' 0 4 = 0#4 := by cases b <;> rfl
  cases i <;> exact ⟨atschkOnly _, atschkOnly _, rfl, rfl, rfl⟩

theorem abort_mem_takeReset {s : State} {x : Stall} {q : Txn} (hx : x ∈ s.stalls) (hq : x.what = .txn q) :
    .response q.tag .abort ∈ (takeReset s).outputs :=
  List.mem_append_right _ (List.mem_filterMap.mpr ⟨x, hx, by rw [hq]⟩)

/-- Settles O53: the state after the step is that of `takeReset`, since no event is left to be counted. -/
theorem resetDisables : Obligations.ResetDisables := by
  unfold Obligations.ResetDisables
  intro s rest hnext
  refine ⟨takeReset (taking s rest), ?_, ⟨rfl, rfl⟩, fun _ _ => rfl, rfl, rfl, rfl, iface_takeReset_disabled _, rfl, rfl,
    fun x hx q hq => abort_mem_takeReset hx hq⟩
  rw [step_of_nextInput hnext, takeInput, counted, countLog_takeReset]

end Sys2Proof.Proofs
end

section
/-! O58, O42: global errors, and the command errors of the Command queue of an interface. -/

namespace Sys2Proof.Proofs

open Sys2Proof.Machine Sys2Proof.Safety Sys2Proof.Laws

theorem raiseGerror_of_absent_or_active {s : State} {i : Sec} {e : GErr}
    (h : gerrPresent s.ids i e = false ∨ gerrActive (s.iface i) e = true) : raiseGerror s i e = s := by
  rw [raiseGerror, if_pos (by simpa using h)]

/-- What `OnlyGerror` lets change of an interface is not SMMU_(*_)GERRORN. -/
theorem gerrorn_of_onlyGerror {s t : State} {i : Sec} {e : GErr} (h : OnlyGerror s t i e) :
    (t.iface i).gerrorn = (s.iface i).gerrorn := by rw [h.iface]

/-- Settles O58: `OnlyGerror` bounds what raising an error does. -/
theorem globalErrors : Obligations.GlobalErrors := by
  unfold Obligations.GlobalErrors
  intro s i e
  have honly := onlyGerror_raiseGerror s i e
  exact ⟨gerrActive_raiseGerror, raiseGerror_of_absent_or_active, gerrorn_of_onlyGerror honly, honly.flags, honly.others⟩

theorem takeCmdError_main {s : State} {i : Sec} (e : CmdErr) (hcur : s.cur = .main i) :
    takeCmdError s e = raiseGerror (s.setCons s.cur fun c => putField c 24 7 e.code) i .cmdq := by
  rw [takeCmdError, hcur]

theorem canProgress_main_of_active {s : State} {i : Sec} (h : gerrActive (s.iface i) .cmdq = true) :
    s.canProgress (.main i) = false := by
  simp [State.canProgress, h]

/-- The Command queue after its error was written to CONS and a global error raised. -/
theorem cmdq_raiseGerror_setCons {s : State} {i : Sec} (f : BitVec 32 → BitVec 32) (x : GErr) (hcur : s.cur = .main i) :
    ((raiseGerror (s.setCons s.cur f) i x).iface i).cmdq = { (s.iface i).cmdq with cons := f (s.iface i).cmdq.cons } := by
  rw [(onlyGerror_raiseGerror _ i x).iface, hcur]
  simp [State.setCons]

/-- Settles O42: the code is written to CONS, then CMDQ_ERR, which every interface has, is raised. -/
theorem commandErrorOfTheQueue : Obligations.CommandErrorOfTheQueue := by
  unfold Obligations.CommandErrorOfTheQueue
  intro s i e hcur
  rw [takeCmdError_main e hcur]
  have hqueue := cmdq_raiseGerror_setCons (fun c => putField c 24 7 e.code) .cmdq hcur
  have hactive := gerrActive_raiseGerror (s := s.setCons s.cur fun c => putField c 24 7 e.code) (i := i) (e := .cmdq) rfl
  have hcode : e.code < 2 ^ 7 := (cmdErr_code_lt e).trans (by decide)
  rw [hqueue]
  exact ⟨rfl, fun k hk => by rw [putField_getLsbD, if_neg (by omega)], fieldNat_putField _ (by omega) hcode, hactive,
    canProgress_main_of_active hactive, onlyGerror_raiseGerror _ _ _⟩

end Sys2Proof.Proofs
end

section
/-! SUPPORT. The consumption of a command after what it did beside the registers: RD moves as it would have without that, and
what consumption sends is the same. -/

namespace Sys2Proof.Proofs

open Sys2Proof.Machine Sys2Proof.Safety Sys2Proof.Laws

section SameRegisters

variable {s u : State} (h : SameRegisters s u)

include h

theorem iface_of_sameRegisters (i : Sec) : u.iface i = s.iface i := by
  cases i with
  | ns => exact h.ns
  | s => exact h.sec
  | rl => exact h.rlm

theorem queueRegs_of_sameRegisters (q : QueueId) : u.queueRegs q = s.queueRegs q := by
  cases q <;> simp [State.queueRegs, State.ecmdqAt, iface_of_sameRegisters h]

theorem sameRegisters_setIface (i : Sec) (f : Iface → Iface) : SameRegisters (s.setIface i f) (u.setIface i f) := by
  cases i with
  | ns => exact { h with ns := congrArg f h.ns }
  | s => exact { h with sec := congrArg f h.sec }
  | rl => exact { h with rlm := congrArg f h.rlm }

theorem sameRegisters_setCons (q : QueueId) (f : BitVec 32 → BitVec 32) :
    SameRegisters (s.setCons q f) (u.setCons q f) := by
  cases q with
  | main i => exact sameRegisters_setIface h i fun r => { r with cmdq := { r.cmdq with cons := f r.cmdq.cons } }
  | ecmdq i n => exact sameRegisters_setIface h i fun r => { r with ecmdqs := r.ecmdqs.modify n _ }
  | dcmdq i n => exact sameRegisters_setIface h i fun r => { r with ecmdqs := r.ecmdqs.modify n _ }

theorem cmdqLog2_of_sameRegisters (base : BitVec 64) : cmdqLog2 u base = cmdqLog2 s base := by
  rw [cmdqLog2, cmdqLog2, h.ids]

theorem sameRegisters_advanced (hcur : u.cur = s.cur) : SameRegisters s.advanced u.advanced := by
  rw [State.advanced, State.advanced, hcur, queueRegs_of_sameRegisters h]
  cases s.queueRegs s.cur with
  | none => exact h
  | some r =>
    simp only [cmdqLog2_of_sameRegisters h]
    exact sameRegisters_setCons h _ _

theorem sameRegisters_consume (hcur : u.cur = s.cur) : SameRegisters s.advanced u.consume := by
  rcases consume_eq u with e | e
  · rw [e]
    exact sameRegisters_advanced h hcur
  · rw [e]
    exact { sameRegisters_advanced h hcur with }

theorem outputs_consume_congr (hcur : u.cur = s.cur) (hout : u.outputs = s.outputs) :
    u.consume.outputs = s.consume.outputs := by
  rw [State.consume, State.consume, hcur, queueRegs_of_sameRegisters h]
  cases s.queueRegs s.cur with
  | none => exact hout
  | some r =>
    dsimp only
    rw [cmdqLog2_of_sameRegisters h, h.ids]
    split
    · simp only [State.send, State.setCons_outputs, hout]
    · simp only [State.setCons_outputs, hout]

end SameRegisters

theorem sameRegisters_refl (s : State) : SameRegisters s s := by constructor <;> rfl

/-- What is neither register, memory nor cache is as it was after the consumption of a command. -/
theorem sameRest_consume (s : State) : SameRest s s.consume := by
  have hadvanced : SameRest s s.advanced := by
    rw [State.advanced]
    cases s.queueRegs s.cur with
    | none => constructor <;> rfl
    | some r => constructor <;> simp
  rcases consume_eq s with e | e
  · rw [e]
    exact hadvanced
  · rw [e]
    exact { hadvanced with }

theorem sameRest_consume_send (s : State) (o : Output) : SameRest s (s.send o).consume :=
  { sameRest_consume (s.send o) with }

end Sys2Proof.Proofs
end

section
/-! O25 to O28: the DPT, ATS and PRI commands (43_cmd_ats_pri_dpt.md), and the StreamIDs of a DCMDQ's commands. -/

namespace Sys2Proof.Proofs

open Sys2Proof.Machine Sys2Proof.Safety Sys2Proof.Laws

/-! ## CMD_DPTI_* -/

theorem leaves_dropDpt {s : State} {eff : State → State} {p : DptEntry → Bool} (hlegal : dptiIll s = false)
    (heff : eff s = dropDpt s p) :
    Leaves s (command s (dptiIll s) eff) { s.caches with dpt := s.caches.dpt.filter fun e => !p e } := by
  rw [hlegal]
  exact leaves_command heff

/-- The entries that CMD_DPTI_PA names: none with a Reserved SIZE or a misaligned address (R2011). -/
def dptiPaNames (s : State) (leaf : Bool) (size : BitVec 4) (a : DWord) (e : DptEntry) : Bool :=
  match dptiSize size.toNat with
  | none => false
  | some n =>
    a.toNat % 2 ^ n == 0 && (e.sec == atsSec s && !(leaf && e.isTable) && regionMeets e.base e.sizeLog2 a (2 ^ n))

theorem dptiPaNames_iff (s : State) (leaf : Bool) (size : BitVec 4) (a : DWord) (e : DptEntry) :
    dptiPaNames s leaf size a e = true ↔
      e.sec = atsSec s ∧ ∃ n, dptiSize size.toNat = some n ∧ a.toNat % 2 ^ n = 0 ∧ (leaf = true → e.isTable = false) ∧
        low56 e.base < low56 a + 2 ^ n ∧ low56 a < low56 e.base + 2 ^ e.sizeLog2 := by
  unfold dptiPaNames
  cases dptiSize size.toNat with
  | none => simp
  | some n =>
    have hleaf : (!(leaf && e.isTable)) = true ↔ (leaf = true → e.isTable = false) := by
      cases leaf <;> cases e.isTable <;> decide
    simp only [Bool.and_eq_true, beq_iff_eq, hleaf, regionMeets_iff, Option.some.injEq, exists_eq_left']
    tauto

theorem dropDpt_none (s : State) : dropDpt s (fun _ => false) = s := by
  simp [dropDpt]

theorem leaves_dptiPa {s : State} (hlegal : dptiIll s = false) (leaf : Bool) (size : BitVec 4) (addr : BitVec 44) :
    Leaves s (exec (.dptiPa leaf size addr) s)
      { s.caches with dpt := s.caches.dpt.filter fun e => !dptiPaNames s leaf size (s.truncOas (paOf s.ids addr)) e } := by
  simp only [exec, execDptiPa]
  refine leaves_dropDpt (p := dptiPaNames s leaf size (s.truncOas (paOf s.ids addr))) hlegal ?_
  unfold dptiPaNames
  cases hsize : dptiSize size.toNat with
  | none => exact (dropDpt_none s).symm
  | some n =>
    by_cases haligned : (s.truncOas (paOf s.ids addr)).toNat % 2 ^ n = 0
    · simp [haligned]
    · dsimp only
      rw [if_pos (by simpa using haligned), beq_eq_false_iff_ne.mpr haligned]
      exact (dropDpt_none s).symm

/-- Settles O25: either command leaves the DPT cache without the entries it names. -/
theorem dpti : Obligations.Dpti := by
  unfold Obligations.Dpti
  intro s leaf size addr hlegal
  constructor
  · obtain ⟨t, hexec, honly, hcaches⟩ := leaves_dropDpt (eff := fun s => dropDpt s fun e => e.sec == atsSec s) hlegal rfl
    refine ⟨t, hexec, honly, ?_, by rw [hcaches]⟩
    rw [hcaches]
    exact left_filter fun e => beq_iff_eq
  · obtain ⟨t, hexec, honly, hcaches⟩ := leaves_dptiPa hlegal leaf size addr
    refine ⟨t, hexec, honly, ?_, by rw [hcaches]⟩
    rw [hcaches]
    exact left_filter fun e => dptiPaNames_iff s leaf size _ e

/-! ## The stream and the PASID of a command -/

/-- Only on a DCMDQ is the StreamID of an ATS or PRI command a virtual one. -/
theorem streamRef_of_not_direct {s : State} (h : s.cur.isDirect = false) (sid : BitVec 32) :
    streamRef s sid = (.sid sid, s) := by
  unfold streamRef
  cases hcur : s.cur with
  | main i => rfl
  | ecmdq i n => rfl
  | dcmdq i n => rw [hcur] at h; cases h

theorem cmdPasid_eq (d : Ids) (ssv : Bool) (ssid : BitVec 20) :
    cmdPasid d ssv ssid = if ssv = true ∧ d.ssidSize ≠ 0 then some ssid else none := by
  simp [cmdPasid]

theorem isSome_cmdPasid (d : Ids) (ssv : Bool) (ssid : BitVec 20) :
    (cmdPasid d ssv ssid).isSome = (ssv && d.ssidSize != 0) := by
  unfold cmdPasid
  cases ssv && d.ssidSize != 0 <;> rfl

theorem cmdPasid_inRange_iff (s : State) (ssv : Bool) (ssid : BitVec 20) :
    ((cmdPasid s.ids ssv ssid).map (ssidInRange s)).getD true = true ↔
      (ssv = true → s.ids.ssidSize ≠ 0 → ssidInRange s ssid = true) := by
  rw [cmdPasid_eq]
  split
  · next h => simp [h]
  · next h => exact iff_of_true rfl fun hssv hsize => absurd ⟨hssv, hsize⟩ h

/-- An ATS or PRI command acts: its StreamID and its SubstreamID are in range, and it is not IGNORED. -/
def StreamInRange (s : State) (ssv : Bool) (ssid : BitVec 20) (sid : BitVec 32) : Prop :=
  sidInRange s (atsSec s) sid = true ∧ (ssv = true → s.ids.ssidSize ≠ 0 → ssidInRange s ssid = true)

theorem onStream_acts {s : State} (hdirect : s.cur.isDirect = false) {ssv : Bool} {ssid : BitVec 20} {sid : BitVec 32}
    (h : StreamInRange s ssv ssid sid) (eff : State → BitVec 32 → State) :
    onStream s sid (cmdPasid s.ids ssv ssid) eff = .consumed (eff s sid) := by
  obtain ⟨hsid, hssid⟩ := h
  rw [onStream, streamRef_of_not_direct hdirect]
  simp only [hsid, (cmdPasid_inRange_iff s ssv ssid).mpr hssid, Bool.and_self, if_true]

theorem onStream_out_of_range {s : State} (hdirect : s.cur.isDirect = false) {ssv : Bool} {ssid : BitVec 20}
    {sid : BitVec 32} (h : ¬StreamInRange s ssv ssid sid) (eff : State → BitVec 32 → State) :
    onStream s sid (cmdPasid s.ids ssv ssid) eff = .consumed s := by
  have hout : (sidInRange s (atsSec s) sid && ((cmdPasid s.ids ssv ssid).map (ssidInRange s)).getD true) = false := by
    rw [Bool.eq_false_iff, ne_eq, Bool.and_eq_true, cmdPasid_inRange_iff]
    exact h
  rw [onStream, streamRef_of_not_direct hdirect]
  simp only [hout, if_false, Bool.false_eq_true]

/-! ## CMD_ATC_INV -/

theorem exec_atcInv_of_legal {s : State} (hlegal : atcIll s = false) {size : BitVec 6} (hsize : size.toNat ≤ 52)
    (g ssv : Bool) (ssid : BitVec 20) (sid : BitVec 32) (addr : BitVec 52) :
    exec (.atcInv g ssv ssid sid size addr) s = finish (if atsIgnored s then .consumed s else
      onStream s sid (cmdPasid s.ids ssv ssid) fun s p =>
        sendAtcInv s p (cmdPasid s.ids ssv ssid) g size.toNat (vaOf addr)) := by
  simp [exec, execAtcInv, hlegal, Nat.not_lt.mpr hsize]

theorem atsIgnored_eq_false_iff (s : State) :
    atsIgnored s = false ↔ s.impl.systemAts = true ∧ s.smmuEn s.cur.sec = true := by
  simp [atsIgnored]

theorem sendAtcInv_outputs (s : State) (sid : BitVec 32) (pasid : Option (BitVec 20)) (g : Bool) (size : Nat)
    (addr : DWord) :
    (sendAtcInv s sid pasid g size addr).outputs =
      (s.send (.atsInvReq s.itag (atsSec s) sid pasid (g && pasid.isSome) (alignDown addr (12 + size)) size)).outputs := rfl

theorem exec_atcInv_acts {s : State} (hdirect : s.cur.isDirect = false) (hlegal : atcIll s = false) {size : BitVec 6}
    (hsize : size.toNat ≤ 52) (hused : atsIgnored s = false) {ssv : Bool} {ssid : BitVec 20} {sid : BitVec 32}
    (hrange : StreamInRange s ssv ssid sid) (g : Bool) (addr : BitVec 52) :
    exec (.atcInv g ssv ssid sid size addr) s =
      .next (sendAtcInv s sid (cmdPasid s.ids ssv ssid) g size.toNat (vaOf addr)).consume := by
  rw [exec_atcInv_of_legal hlegal hsize, hused, onStream_acts hdirect hrange]
  rfl

theorem exec_atcInv_no_effect {s : State} (hdirect : s.cur.isDirect = false) (hlegal : atcIll s = false)
    {size : BitVec 6} (hsize : size.toNat ≤ 52) {ssv : Bool} {ssid : BitVec 20} {sid : BitVec 32}
    (h : ¬(atsIgnored s = false ∧ StreamInRange s ssv ssid sid)) (g : Bool) (addr : BitVec 52) :
    exec (.atcInv g ssv ssid sid size addr) s = .next s.consume := by
  rw [exec_atcInv_of_legal hlegal hsize]
  cases hused : atsIgnored s with
  | true => rfl
  | false =>
    rw [onStream_out_of_range hdirect fun hrange => h ⟨hused, hrange⟩]
    rfl

/-- Settles O26: the request is sent and noted as outstanding, or the command has no effect; then it is consumed. -/
theorem atcInv : Obligations.AtcInv := by
  unfold Obligations.AtcInv
  intro s g ssv ssid sid size addr hdirect hlegal hsize
  split
  · next h =>
    obtain ⟨hats, hen, hrange⟩ := h
    have hused := (atsIgnored_eq_false_iff s).mpr ⟨hats, hen⟩
    let u := sendAtcInv s sid (cmdPasid s.ids ssv ssid) g size.toNat (vaOf addr)
    have hregs : SameRegisters s u := by constructor <;> rfl
    have hsent : SameRegisters (s.send (.atsInvReq s.itag (if s.cur.sec = .rl then .rl else .ns) sid
        (if ssv = true ∧ s.ids.ssidSize ≠ 0 then some ssid else none) (g && ssv && s.ids.ssidSize != 0)
        (alignDown (vaOf addr) (12 + size.toNat)) size.toNat)) u := by constructor <;> rfl
    have hrest := sameRest_consume u
    refine ⟨u.consume, exec_atcInv_acts hdirect hlegal hsize hused hrange g addr, sameRegisters_consume hregs rfl,
      sameMemory_consume u, consume_caches u, { hrest with atcInvs := rfl, itag := rfl }, hrest.atcInvs, hrest.itag,
      outputs_consume_congr hsent rfl ?_⟩
    rw [sendAtcInv_outputs, isSome_cmdPasid, cmdPasid_eq, Bool.and_assoc]
    rfl
  · next h =>
    have hnone : ¬(atsIgnored s = false ∧ StreamInRange s ssv ssid sid) := by
      rw [atsIgnored_eq_false_iff, and_assoc]
      exact h
    have hrest := sameRest_consume s
    exact ⟨s.consume, exec_atcInv_no_effect hdirect hlegal hsize hnone g addr, sameRegisters_consume (sameRegisters_refl s) rfl,
      sameMemory_consume s, consume_caches s, { hrest with atcInvs := rfl, itag := rfl }, hrest.atcInvs, hrest.itag, rfl⟩

/-! ## CMD_PRI_RESP -/

theorem exec_priResp_of_legal {s : State} (hlegal : priIll s = false) {resp : BitVec 2} {c : PrgCode}
    (hc : respCode resp = some c) (ssv : Bool) (ssid : BitVec 20) (sid : BitVec 32) (prg : BitVec 9) :
    exec (.priResp ssv ssid sid prg resp) s = finish (if priIgnored s then .consumed s else
      onStream s sid (cmdPasid s.ids ssv ssid) fun s p =>
        s.send (.prgResponse (atsSec s) p (cmdPasid s.ids ssv ssid) prg c.code)) := by
  simp [exec, execPriResp, hlegal, hc]

theorem priIgnored_eq_false_iff (s : State) :
    priIgnored s = false ↔ s.impl.systemPri = true ∧ s.smmuEn s.cur.sec = true := by
  simp [priIgnored]

theorem exec_priResp_acts {s : State} (hdirect : s.cur.isDirect = false) (hlegal : priIll s = false) {resp : BitVec 2}
    {c : PrgCode} (hc : respCode resp = some c) (hused : priIgnored s = false) {ssv : Bool} {ssid : BitVec 20}
    {sid : BitVec 32} (hrange : StreamInRange s ssv ssid sid) (prg : BitVec 9) :
    exec (.priResp ssv ssid sid prg resp) s =
      .next (s.send (.prgResponse (atsSec s) sid (cmdPasid s.ids ssv ssid) prg c.code)).consume := by
  rw [exec_priResp_of_legal hlegal hc, hused, onStream_acts hdirect hrange]
  rfl

theorem exec_priResp_no_effect {s : State} (hdirect : s.cur.isDirect = false) (hlegal : priIll s = false)
    {resp : BitVec 2} {c : PrgCode} (hc : respCode resp = some c) {ssv : Bool} {ssid : BitVec 20} {sid : BitVec 32}
    (h : ¬(priIgnored s = false ∧ StreamInRange s ssv ssid sid)) (prg : BitVec 9) :
    exec (.priResp ssv ssid sid prg resp) s = .next s.consume := by
  rw [exec_priResp_of_legal hlegal hc]
  cases hused : priIgnored s with
  | true => rfl
  | false =>
    rw [onStream_out_of_range hdirect fun hrange => h ⟨hused, hrange⟩]
    rfl

/-- What every Resp but the Reserved one answers (R2005). -/
theorem respCode_of_ne {resp : BitVec 2} (h : resp ≠ 3) :
    respCode resp = some (if resp = 0 then .failure else if resp = 1 then .invalid else .success) := by
  revert h
  revert resp
  decide

/-- Settles O27: the response is sent, or the command has no effect; then it is consumed. -/
theorem priResp : Obligations.PriResp := by
  unfold Obligations.PriResp
  intro s ssv ssid sid prg resp hdirect hlegal hresp
  have hc := respCode_of_ne hresp
  split
  · next h =>
    obtain ⟨hpri, hen, hrange⟩ := h
    have hused := (priIgnored_eq_false_iff s).mpr ⟨hpri, hen⟩
    refine ⟨_, exec_priResp_acts hdirect hlegal hc hused hrange prg,
      sameRegisters_consume { sameRegisters_refl s with } rfl, sameMemory_consume _, consume_caches _,
      sameRest_consume_send s _, ?_⟩
    rw [cmdPasid_eq, apply_ite PrgCode.code, apply_ite PrgCode.code]
    rfl
  · next h =>
    have hnone : ¬(priIgnored s = false ∧ StreamInRange s ssv ssid sid) := by
      rw [priIgnored_eq_false_iff, and_assoc]
      exact h
    exact ⟨s.consume, exec_priResp_no_effect hdirect hlegal hc hnone prg, sameRegisters_consume (sameRegisters_refl s) rfl,
      sameMemory_consume s, consume_caches s, sameRest_consume s, rfl⟩

/-! ## A DCMDQ that cannot name a stream -/

section NoStream

variable {s : State} {i : Sec} {n : Nat} (hcur : s.cur = .dcmdq i n) (hnone : i = .s ∨ vsidOn s i n = false)

include hcur hnone

theorem dcmdqNoSid_of_no_vsid : dcmdqNoSid s = true := by
  simpa [dcmdqNoSid, hcur] using hnone

theorem exec_atcInv_of_no_vsid (g ssv : Bool) (ssid : BitVec 20) (sid : BitVec 32) (size : BitVec 6) (addr : BitVec 52) :
    exec (.atcInv g ssv ssid sid size addr) s = .next (takeCmdError s .ill) := by
  simp [exec, execAtcInv, atcIll, dcmdqNoSid_of_no_vsid hcur hnone, finish, CmdOut.state]

theorem exec_priResp_of_no_vsid (ssv : Bool) (ssid : BitVec 20) (sid : BitVec 32) (prg : BitVec 9) (resp : BitVec 2) :
    exec (.priResp ssv ssid sid prg resp) s = .next (takeCmdError s .ill) := by
  have hill : priIll s = true := by simp [priIll, dcmdqNoSid_of_no_vsid hcur hnone]
  unfold exec execPriResp
  dsimp only
  rw [hill]
  cases respCode resp <;> rfl

theorem prefetchRef_of_no_vsid (sid : BitVec 32) : prefetchRef s sid = (.ignored, s) := by
  rw [prefetchRef, hcur]
  exact if_pos (by simpa using hnone)

/-- The prefetch commands are IGNORED where the queue may name the Security state at all. -/
theorem exec_prefetch_of_no_vsid {ssec : Bool} {j : Sec} (htarget : targetSec s ssec = some j) (ssv : Bool)
    (ssid : BitVec 20) (sid : BitVec 32) (size stride : BitVec 5) (ns : Bool) (addr : BitVec 52) :
    exec (.prefetchConfig ssec ssv ssid sid) s = .next s.consume ∧
      exec (.prefetchAddr ssec ssv ssid sid size stride ns addr) s = .next s.consume := by
  cases hen : s.smmuEn j with
  | false =>
    exact ⟨exec_prefetchConfig_of_disabled htarget ssv ssid sid hen,
      exec_prefetchAddr_of_disabled htarget ssv ssid sid size stride ns addr hen⟩
  | true =>
    constructor <;>
      simp [exec, execPrefetchConfig, execPrefetchAddr, htarget, hen, prefetchRef_of_no_vsid hcur hnone, finish,
        CmdOut.state]

end NoStream

/-- The Security state that a command names is that of its queue, or on the Secure queue that of SSec. -/
theorem targetSec_isSome {s : State} {ssec : Bool} (h : ssec = false ∨ s.cur.sec = .s) : ∃ j, targetSec s ssec = some j := by
  unfold targetSec
  cases ssec with
  | false => cases s.cur.sec <;> exact ⟨_, rfl⟩
  | true =>
    rw [h.resolve_left (by decide)]
    exact ⟨_, rfl⟩

/-! ## A DCMDQ that translates virtual StreamIDs -/

section Translated

variable {s u : State} {i : Sec} {n : Nat} {sid : BitVec 32} {out : VsidOut} (hcur : s.cur = .dcmdq i n) (hi : i ≠ .s)
  (hon : vsidOn s i n = true) (htranslate : vsidTranslate s i n sid = (out, u))

include htranslate in
/-- The translation of a virtual StreamID changes neither the queue whose command is processed nor what is fixed. -/
theorem kept_vsidTranslate : u.cur = s.cur ∧ u.ids = s.ids := by
  have h := only_snd (only_vsidTranslate s i n sid) htranslate
  exact ⟨(congrArg State.cur h.same : u.sansLookup.cur = s.sansLookup.cur),
    (congrArg State.ids h.same : u.sansLookup.ids = s.sansLookup.ids)⟩

include hcur hi in
theorem atsSec_of_dcmdq : atsSec s = i := by
  rw [atsSec, hcur]
  cases i with
  | ns => rfl
  | s => exact absurd rfl hi
  | rl => rfl

include hcur hi in
theorem targetSec_false_of_dcmdq : targetSec s false = some i := by
  have hsec : s.cur.sec = i := by rw [hcur]; rfl
  unfold targetSec
  rw [hsec]
  cases i with
  | ns => rfl
  | s => exact absurd rfl hi
  | rl => rfl

include hcur hi hon htranslate

theorem streamRef_of_translated : streamRef s sid = (match out with
    | .psid p => (.sid p, u)
    | .ignored => (.ignored, u)
    | .failed e => (.failed e, u)) := by
  rw [streamRef, hcur]
  simp only [hi, hon, htranslate, decide_false, Bool.not_true, Bool.or_self, if_false, Bool.false_eq_true]
  cases out <;> rfl

theorem prefetchRef_of_translated : prefetchRef s sid = (match out with
    | .psid p => (.sid p, u)
    | .ignored => (.ignored, u)
    | .failed e => (.failed e, u)) := by
  rw [prefetchRef, hcur]
  simp only [hi, hon, htranslate, decide_false, Bool.not_true, Bool.or_self, if_false, Bool.false_eq_true]
  cases out <;> rfl

/-- A command acts on the pSID, is IGNORED, or is a hypervisor-serviced error, as the translation says (R755, R2003, R2006). -/
theorem onStream_of_translated (ssid : Option (BitVec 20)) (eff : State → BitVec 32 → State) :
    (onStream s sid ssid eff).state = (match out with
      | .psid p => (if sidInRange u i p && (ssid.map (ssidInRange u)).getD true then eff u p else u).consume
      | .ignored => u.consume
      | .failed e => takeHsError u e) := by
  obtain ⟨hucur, -⟩ := kept_vsidTranslate htranslate
  rw [onStream, streamRef_of_translated hcur hi hon htranslate]
  cases out with
  | psid p => simp only [CmdOut.state, atsSec_of_dcmdq (hucur.trans hcur) hi]
  | ignored => rfl
  | failed e => rfl

end Translated

/-- Settles O28: without a translation there is no stream, and else what the translation gives decides. -/
theorem virtualStreamOperand : Obligations.VirtualStreamOperand := by
  unfold Obligations.VirtualStreamOperand
  constructor
  · intro s i n ssec g ssv ssid sid size addr prg resp k stride ns hcur hnone
    refine ⟨exec_atcInv_of_no_vsid hcur hnone _ _ _ _ _ _, exec_priResp_of_no_vsid hcur hnone _ _ _ _ _, fun hssec => ?_⟩
    obtain ⟨j, htarget⟩ := targetSec_isSome (s := s) (ssec := ssec) (by rwa [hcur])
    exact exec_prefetch_of_no_vsid hcur hnone htarget _ _ _ _ _ _ _
  · intro s u i n g ssv ssid sid size addr prg resp k stride ns out hcur hi hon htranslate
    obtain ⟨hucur, huids⟩ := kept_vsidTranslate htranslate
    have hsec : atsSec u = i := atsSec_of_dcmdq (hucur.trans hcur) hi
    have htarget := targetSec_false_of_dcmdq hcur hi
    refine ⟨fun hlegal hused hsize => ?_, fun hlegal hused c hc => ?_, fun hen => ⟨?_, ?_⟩, fun hen => ⟨?_, ?_⟩⟩
    · rw [exec_atcInv_of_legal hlegal hsize, hused, finish, if_neg Bool.false_ne_true,
        onStream_of_translated hcur hi hon htranslate]
      cases out with
      | psid p => dsimp only; rw [huids, apply_ite State.consume]
      | ignored => rfl
      | failed e => rfl
    · rw [exec_priResp_of_legal hlegal hc, hused, finish, if_neg Bool.false_ne_true,
        onStream_of_translated hcur hi hon htranslate]
      cases out with
      | psid p => dsimp only; rw [huids, hsec, apply_ite State.consume]
      | ignored => rfl
      | failed e => rfl
    · simp only [exec, execPrefetchConfig, htarget, hen, prefetchRef_of_translated hcur hi hon htranslate]
      cases out <;> rfl
    · simp only [exec, execPrefetchAddr, htarget, hen, prefetchRef_of_translated hcur hi hon htranslate]
      cases out <;> rfl
    · exact exec_prefetchConfig_of_disabled htarget _ _ _ hen
    · exact exec_prefetchAddr_of_disabled htarget _ _ _ _ _ _ _ hen

end Sys2Proof.Proofs
end

section
/-! O30 to O33: the fault response commands (44_cmd_fault_sync.md R2050 to R2055). -/

namespace Sys2Proof.Proofs

open Sys2Proof.Machine Sys2Proof.Safety Sys2Proof.Laws

/-! ## Consumption, seen without what an action may change

`f` drops something that is neither a register of a Command queue nor what gives its size; then RD moves past the command
whatever the dropped parts hold. -/

/-- `f` drops outputs, and nothing that the consumption of a command reads. -/
structure SparesQueues (f : State → State) : Prop where
  cur : ∀ s, (f s).cur = s.cur
  ids : ∀ s, (f s).ids = s.ids
  regs : ∀ s q, (f s).queueRegs q = s.queueRegs q
  cons : ∀ s q g, (f s).setCons q g = f (s.setCons q g)
  send : ∀ s o, f (s.send o) = f s

section Consumption

variable {f : State → State} (hf : SparesQueues f)

include hf

theorem advanced_of_sparesQueues (s : State) : (f s).advanced = f s.advanced := by
  rw [State.advanced, State.advanced, hf.cur, hf.regs]
  cases s.queueRegs s.cur with
  | none => rfl
  | some r =>
    simp only [cmdqLog2, hf.ids]
    exact hf.cons _ _ _

/-- A command consumed after an action: beside what the action changes, RD of the queue moves. -/
theorem consume_of_sparesQueues {s t : State} (h : f t = f s) : f t.consume = f s.advanced := by
  have hadvanced : f t.advanced = f s.advanced := by
    rw [← advanced_of_sparesQueues hf, h, advanced_of_sparesQueues hf]
  rcases consume_eq t with e | e
  · rw [e, hadvanced]
  · rw [e, hf.send, hadvanced]

end Consumption

theorem sparesQueues_sansClient : SparesQueues State.sansClient where
  cur _ := rfl
  ids _ := rfl
  regs s q := by
    rcases q with i | ⟨i, n⟩ | ⟨i, n⟩ <;> cases i <;> rfl
  cons s q g := by
    rcases q with i | ⟨i, n⟩ | ⟨i, n⟩ <;> cases i <;> rfl
  send _ _ := rfl

/-- A state without what the fetching of configuration changes, and without its stalled transactions. -/
def sansFetchStalls (s : State) : State := ({ s with stalls := [] } : State).sansFetch

theorem sparesQueues_sansFetchStalls : SparesQueues sansFetchStalls where
  cur _ := rfl
  ids _ := rfl
  regs s q := by
    rcases q with i | ⟨i, n⟩ | ⟨i, n⟩ <;> cases i <;> rfl
  cons s q g := by
    rcases q with i | ⟨i, n⟩ | ⟨i, n⟩ <;> cases i <;> rfl
  send _ _ := rfl

theorem sansClient_consume_of_takes {s t : State} (h : Takes s t) : t.consume.sansClient = s.advanced.sansClient :=
  consume_of_sparesQueues sparesQueues_sansClient h.only.same

/-! ## CMD_RESUME -/

theorem exec_resume_of_legal {s : State} {ssec : Bool} {i : Sec} (htarget : targetSec s ssec = some i)
    (hlegal : stallIll s = false) (ac ab : Bool) (sid : BitVec 32) (stag : BitVec 16) :
    exec (.resume ssec ac ab sid stag) s = .next (resumeStall s i sid stag ac ab).consume := by
  simp only [exec, execResume, htarget, hlegal]
  rfl

/-- The stalled transaction that CMD_RESUME names: StreamID, SSec and STAG (R2050). -/
def named (i : Sec) (sid : BitVec 32) (stag : BitVec 16) (x : Stall) : Bool := x.recorded && x.of i sid && x.stag == stag

theorem resumeStall_of_named {s : State} {i : Sec} {sid : BitVec 32} {stag : BitVec 16} {x : Stall}
    (h : s.stalls.find? (named i sid stag) = some x) (ac ab : Bool) :
    resumeStall s i sid stag ac ab = resumeAccess { s with stalls := s.stalls.erase x } x.what ac ab := by
  have hfind : s.stalls.find? (fun x => x.recorded && x.of i sid && x.stag == stag) = some x := h
  rw [resumeStall, hfind]

theorem resumeAccess_terminates (s : State) (w : Stalled) (ab : Bool) :
    resumeAccess s w false ab = endStall s w (if ab = true ∨ s.ids.termModel = true then .abort else .razWi) := by
  simp only [resumeAccess, if_false, Bool.false_eq_true, Bool.or_eq_true]

/-- Settles O30: the stall is taken from the list and its access ended; a client's access ends with its response alone. -/
theorem resumeTerminates : Obligations.ResumeTerminates := by
  unfold Obligations.ResumeTerminates
  intro s ssec ab i sid stag x htarget hlegal hx
  have hexec := exec_resume_of_legal htarget hlegal false ab sid stag
  rw [resumeStall_of_named hx, resumeAccess_terminates] at hexec
  refine ⟨fun q hq => ?_, hexec⟩
  rw [hq] at hexec
  let u := ({ s with stalls := s.stalls.erase x } : State).send
    (.response q.tag (if ab = true ∨ s.ids.termModel = true then .abort else .razWi))
  have hregs : SameRegisters s u := { sameRegisters_refl s with }
  have hrest := sameRest_consume u
  exact ⟨u.consume, hexec, sameRegisters_consume hregs rfl, sameMemory_consume u, consume_caches u,
    { hrest with stalls := rfl }, hrest.stalls, outputs_consume_congr { hregs with } rfl rfl⟩

theorem arrive_arrive (d : Ids) (t : Txn) : (t.arrive d).arrive d = t.arrive d := by
  simp only [Txn.arrive, Txn.mk.injEq, and_self, and_true, true_and]
  cases t.pm <;> cases d.gdi <;> cases t.sec == .ns <;> rfl

theorem processTxn_arrive (s : State) (t : Txn) : processTxn s (t.arrive s.ids) = processTxn s t := by
  rw [processTxn, arrive_arrive, processTxn]

/-- A transaction that is retried is processed as one that arrives; the retry differs in what is counted alone (R2050). -/
theorem retryAccess_txn (s : State) (t : Txn) :
    ∃ l, retryAccess s (.txn t) = { processTxn s t with pmuLog := l } ∧ (s.impl.pmcgRetryCounts = false → l = s.pmuLog) := by
  unfold retryAccess
  dsimp only
  split
  · next h =>
    unfold takeTxn noteRequest
    dsimp only
    rw [processTxn_arrive]
    exact ⟨_, rfl, fun hnot => by simp [hnot] at h⟩
  · exact ⟨_, rfl, fun _ => rfl⟩

theorem sameRegisters_pmuLog (s : State) (l : List PmuOcc) : SameRegisters s { s with pmuLog := l } := by
  constructor <;> rfl

/-- The state after a stalled access is retried, but for what is counted. -/
def retried (s : State) (x : Stall) : State :=
  match x.what with
  | .txn q => processTxn { s with stalls := s.stalls.erase x } q
  | .dcmdq _ _ _ => { s with stalls := s.stalls.erase x }

theorem resumeAccess_retries (s : State) (x : Stall) (ab : Bool) :
    ∃ l, resumeAccess { s with stalls := s.stalls.erase x } x.what true ab = { retried s x with pmuLog := l } ∧
      (s.impl.pmcgRetryCounts = false → l = s.pmuLog) := by
  unfold retried resumeAccess
  rw [if_pos rfl]
  cases x.what with
  | txn q => exact retryAccess_txn _ q
  | dcmdq j n qsid => exact ⟨_, rfl, fun _ => rfl⟩

theorem takes_resumeAccess_retry (s : State) (x : Stall) (ab : Bool) :
    Takes s (resumeAccess { s with stalls := s.stalls.erase x } x.what true ab) :=
  (takes_dropStalls s _ (List.erase_sublist ..)).trans (takes_retryAccess _ _)

/-- Settles O31: the retry is an action of the client, after which the command is consumed. -/
theorem resumeRetries : Obligations.ResumeRetries := by
  unfold Obligations.ResumeRetries
  intro s ssec ab i sid stag x htarget hlegal hx
  have hexec := exec_resume_of_legal htarget hlegal true ab sid stag
  rw [resumeStall_of_named hx] at hexec
  have htakes := takes_resumeAccess_retry s x ab
  obtain ⟨l, hl, huncounted⟩ := resumeAccess_retries s x ab
  rw [hl] at hexec htakes
  let v : State := { retried s x with pmuLog := l }
  exact ⟨_, hexec, sansClient_consume_of_takes htakes, retried s x, rfl, sameMemory_consume v, consume_caches v,
    consume_stalls v, outputs_consume_congr (sameRegisters_pmuLog _ l) rfl rfl,
    fun hnot => (sameRest_consume v).pmuLog.trans (huncounted hnot)⟩

theorem takes_endStall_txn (s : State) (q : Txn) (r : Response) : Takes s (endStall s (.txn q) r) := takes_respond _ _ _

theorem takes_resumeAccess_txn (s : State) (q : Txn) (ac ab : Bool) : Takes s (resumeAccess s (.txn q) ac ab) :=
  .ite (takes_retryAccess _ _) (takes_endStall_txn _ _ _)

/-- A stall of the stream whose record is not visible yet (R2052). -/
def unrecordedOf (i : Sec) (sid : BitVec 32) (x : Stall) : Bool := !x.recorded && x.of i sid

theorem resumeStall_of_none {s : State} {i : Sec} {sid : BitVec 32} {stag : BitVec 16}
    (h : s.stalls.find? (named i sid stag) = none) (ac ab : Bool) :
    resumeStall s i sid stag ac ab = match s.stalls.find? (unrecordedOf i sid) with
      | none => s
      | some x =>
        if (Config.freeValue s.free).getLsbD 0 then
          resumeAccess { s with stalls := s.stalls.erase x, free := s.free + 1 } x.what ac ab
        else { s with free := s.free + 1 } := by
  have hfind : s.stalls.find? (fun x => x.recorded && x.of i sid && x.stag == stag) = none := h
  rw [resumeStall, hfind]
  rfl

/-- A command that names no stalled transaction is an action of a client at most, if what it may end is one. -/
theorem takes_resumeStall_of_none {s : State} {i : Sec} {sid : BitVec 32} {stag : BitVec 16}
    (h : s.stalls.find? (named i sid stag) = none) (ac ab : Bool)
    (hclients : ∀ x ∈ s.stalls, x.recorded = false → ∃ q, x.what = .txn q) : Takes s (resumeStall s i sid stag ac ab) := by
  rw [resumeStall_of_none h]
  cases hfind : s.stalls.find? (unrecordedOf i sid) with
  | none => exact .refl s
  | some x =>
    have hunrecorded : x.recorded = false ∧ x.of i sid = true := by
      simpa [unrecordedOf] using List.find?_some hfind
    obtain ⟨q, hq⟩ := hclients x (List.mem_of_find?_eq_some hfind) hunrecorded.1
    have hfree : Takes s { s with free := s.free + 1 } := .of_lookup (only_takeFree s)
    dsimp only
    rw [hq]
    refine .ite ?_ hfree
    have herase := takes_dropStalls { s with free := s.free + 1 } (s.stalls.erase x) (List.erase_sublist ..)
    exact (hfree.trans herase).trans (takes_resumeAccess_txn _ q ac ab)

/-- Settles O32: only a stall without a visible record may be resumed, as a free value says; without one nothing happens. -/
theorem resumeOfNothing : Obligations.ResumeOfNothing := by
  unfold Obligations.ResumeOfNothing
  intro s ssec ac ab i sid stag htarget hlegal hnone
  have hfind : s.stalls.find? (named i sid stag) = none := by
    rw [List.find?_eq_none]
    intro x hx
    have hnamed := hnone x hx
    simpa [named, and_assoc] using hnamed
  have hexec := exec_resume_of_legal htarget hlegal ac ab sid stag
  refine ⟨⟨_, hexec, fun hclients => sansClient_consume_of_takes (takes_resumeStall_of_none hfind ac ab hclients)⟩,
    fun hrecorded => ?_⟩
  have hno : s.stalls.find? (unrecordedOf i sid) = none := by
    rw [List.find?_eq_none]
    intro x hx hunrecorded
    rw [unrecordedOf, Bool.and_eq_true, Bool.not_eq_true'] at hunrecorded
    obtain ⟨hnot, hof⟩ := hunrecorded
    rw [hrecorded x hx hof] at hnot
    cases hnot
  rw [resumeStall_of_none hfind, hno] at hexec
  exact ⟨hexec, onlyCaches_consume s s.caches s.free, consume_caches s⟩

/-! ## CMD_STALL_TERM -/

theorem exec_stallTerm_of_legal {s : State} {ssec : Bool} {i : Sec} (htarget : targetSec s ssec = some i)
    (hlegal : stallIll s = false) (sid : BitVec 32) {b : Bool} {u : State} (hste : steTerminates s i sid = (b, u)) :
    exec (.stallTerm ssec sid) s = .next (if b || (Config.freeValue u.free).getLsbD 0 then
      termStalls (if b then u else { u with free := u.free + 1 }) i sid else { u with free := u.free + 1 }).consume := by
  simp only [exec, execStallTerm, htarget, hlegal, command, hste]
  cases b with
  | true => rfl
  | false =>
    simp only [State.takeFree, Bool.false_or]
    rfl

theorem stalls_of_only_lookup {s t : State} (h : Only State.sansLookup s t) : t.stalls = s.stalls :=
  (congrArg State.stalls h.same : t.sansLookup.stalls = s.sansLookup.stalls)

theorem stalls_reportDcmdqPage (s : State) (i : Sec) (n : Nat) : (reportDcmdqPage s i n).stalls = s.stalls := by
  simp only [reportDcmdqPage]
  split
  · rfl
  · rw [stalls_of_only_lookup (only_raiseGerror _ _ _), State.setIface_stalls]

theorem stalls_endStall (s : State) (w : Stalled) (r : Response) : (endStall s w r).stalls = s.stalls := by
  cases w with
  | txn t => rfl
  | dcmdq i n q =>
    simp only [endStall]
    split
    · rw [hsErrorOf, stalls_reportDcmdqPage, State.setCons_stalls]
    · rfl

/-- The end of stalled accesses, one after the other, with an abort. -/
def abortAll (l : List Stall) (s : State) : State := l.foldl (fun s x => endStall s x.what .abort) s

theorem stalls_abortAll (l : List Stall) (s : State) : (abortAll l s).stalls = s.stalls := by
  induction l generalizing s with
  | nil => rfl
  | cons x l ih => exact (ih _).trans (stalls_endStall _ _ _)

/-- The responses of the client transactions of a list. -/
def abortResponses (l : List Stall) : List Output := l.filterMap fun x =>
  match x.what with
  | .txn q => some (.response q.tag .abort)
  | .dcmdq _ _ _ => none

theorem foldl_send (l : List Output) (s : State) : l.foldl State.send s = { s with outputs := s.outputs ++ l } := by
  induction l generalizing s with
  | nil => simp
  | cons o l ih => simp [ih, State.send]

/-- Of client transactions the responses are all that their end changes. -/
theorem abortAll_of_clients {l : List Stall} (h : ∀ x ∈ l, ∃ q, x.what = .txn q) (s : State) :
    abortAll l s = { s with outputs := s.outputs ++ abortResponses l } := by
  rw [← foldl_send]
  induction l generalizing s with
  | nil => rfl
  | cons x l ih =>
    obtain ⟨q, hq⟩ := h x List.mem_cons_self
    have hhead : abortResponses (x :: l) = .response q.tag .abort :: abortResponses l := by
      simp [abortResponses, hq]
    rw [hhead, List.foldl_cons, ← ih fun y hy => h y (List.mem_cons_of_mem x hy), abortAll, List.foldl_cons, hq]
    rfl

theorem fetch_steTerminates (s : State) (i : Sec) (sid : BitVec 32) : Only State.sansFetch s (steTerminates s i sid).2 := by
  unfold steTerminates
  split
  · exact .refl s
  · have h := fetch_lookupSte s i sid true
    split <;> (rename_i e; rw [e] at h; exact h)

theorem stalls_of_only_fetch {s u : State} (h : Only State.sansFetch s u) : u.stalls = s.stalls :=
  (congrArg State.stalls h.same : u.sansFetch.stalls = s.sansFetch.stalls)

theorem sansFetchStalls_of_only_fetch {s u : State} (h : Only State.sansFetch s u) : sansFetchStalls u = sansFetchStalls s :=
  (congrArg (fun v : State => { v with stalls := [] }) h.same :)

theorem termStalls_eq {s u : State} (h : u.stalls = s.stalls) (i : Sec) (sid : BitVec 32) :
    termStalls u i sid = abortAll (s.stalls.filter (·.of i sid))
      { u with stalls := s.stalls.filter fun x => !x.of i sid } := by
  rw [termStalls, h]
  rfl

/-- The stalled transactions of a stream are ended: those of other streams are left, and if all of the stream are of clients,
only their responses are sent besides. -/
theorem consume_termStalls {s u : State} (hu : Only State.sansFetch s u) (i : Sec) (sid : BitVec 32) :
    (termStalls u i sid).consume.stalls = s.stalls.filter (fun x => !x.of i sid) ∧
      ((∀ x ∈ s.stalls, x.of i sid = true → ∃ q, x.what = .txn q) →
        sansFetchStalls (termStalls u i sid).consume = sansFetchStalls s.advanced ∧
        (termStalls u i sid).consume.outputs =
          ((abortResponses (s.stalls.filter (·.of i sid))).foldl State.send u).consume.outputs) := by
  rw [termStalls_eq (stalls_of_only_fetch hu)]
  refine ⟨(consume_stalls _).trans (stalls_abortAll _ _), fun hclients => ?_⟩
  have hends : ∀ x ∈ s.stalls.filter (·.of i sid), ∃ q, x.what = .txn q := fun x hx => by
    obtain ⟨hmem, hof⟩ := List.mem_filter.mp hx
    exact hclients x hmem hof
  rw [abortAll_of_clients hends, foldl_send]
  refine ⟨consume_of_sparesQueues sparesQueues_sansFetchStalls (sansFetchStalls_of_only_fetch hu :),
    outputs_consume_congr ?_ rfl rfl⟩
  constructor <;> rfl

/-- Settles O33: the stream's stalls end where new transactions are terminated; elsewhere a free value decides. -/
theorem stallTerm : Obligations.StallTerm := by
  unfold Obligations.StallTerm
  intro s u ssec i sid htarget hlegal
  refine ⟨fun hste => ?_, fun hste => ?_⟩
  all_goals
    have hexec := exec_stallTerm_of_legal htarget hlegal sid hste
    have hu : Only State.sansFetch s u := only_snd (fetch_steTerminates s i sid) hste
  · obtain ⟨hstalls, hclients⟩ := consume_termStalls hu i sid
    exact ⟨_, hexec, hstalls, congrArg State.consume (termStalls_eq (stalls_of_only_fetch hu) i sid), hclients⟩
  · have hv : Only State.sansFetch s { u with free := u.free + 1 } := hu.trans (fetch_takeFree u)
    rw [Bool.false_or] at hexec
    cases hfree : (Config.freeValue u.free).getLsbD 0 with
    | true =>
      rw [hfree] at hexec
      obtain ⟨hstalls, hclients⟩ := consume_termStalls hv i sid
      exact ⟨_, hexec, .inr hstalls, fun h => (hclients h).1⟩
    | false =>
      rw [hfree] at hexec
      exact ⟨_, hexec, .inl ((consume_stalls _).trans (stalls_of_only_fetch hv)),
        fun _ => consume_of_sparesQueues sparesQueues_sansFetchStalls (sansFetchStalls_of_only_fetch hv)⟩

end Sys2Proof.Proofs
end

section
/-! O34 to O37: CMD_SYNC (44_cmd_fault_sync.md R2060 to R2069). -/

namespace Sys2Proof.Proofs

open Sys2Proof.Machine Sys2Proof.Safety Sys2Proof.Laws

/-! ## What holds a CMD_SYNC back -/

section Held

variable {s : State} {cs msh : BitVec 2} {attr : BitVec 4} {data : BitVec 32} {addr : BitVec 54} {ns : Bool}

theorem exec_sync_of_pending (hcs : cs ≠ 3) (h : msiPending s = true) :
    exec (.sync cs msh attr data addr ns) s = .next (takeHsError (clearMsiPending s) .msiAbt) := by
  simp only [exec, execSync, hcs, h, if_false, if_true]
  rfl

theorem exec_sync_of_timedOut (hcs : cs ≠ 3) (hpending : msiPending s = false)
    (h : ∃ a ∈ s.atcInvs, a.queue = s.cur ∧ a.timedOut = true) :
    exec (.sync cs msh attr data addr ns) s = .next (takeCmdError
      { s with atcInvs := s.atcInvs.filter fun a => !(a.queue == s.cur && a.timedOut) } .atcInvSync) := by
  have hany : (s.atcInvs.any fun a => a.queue == s.cur && a.timedOut) = true := by simpa using h
  simp only [exec, execSync, hcs, hpending, hany, if_false, if_true, Bool.false_eq_true]
  rfl

theorem exec_sync_of_outstanding (hcs : cs ≠ 3) (hpending : msiPending s = false)
    (hout : ∃ a ∈ s.atcInvs, a.queue = s.cur) (h : ∀ a ∈ s.atcInvs, a.queue = s.cur → a.timedOut = false) :
    exec (.sync cs msh attr data addr ns) s = .next s := by
  have hlate : (s.atcInvs.any fun a => a.queue == s.cur && a.timedOut) = false := by simpa using h
  have hany : (s.atcInvs.any fun a => a.queue == s.cur) = true := by simpa using hout
  simp only [exec, execSync, hcs, hpending, hlate, hany, if_false, if_true, Bool.false_eq_true]
  rfl

/-- Settles O37: the invalidations of the queue hold the command back, or end it where one timed out. -/
theorem syncAndAtcInv : Obligations.SyncAndAtcInv :=
  fun _ _ _ _ _ _ _ hcs hpending hout =>
    ⟨exec_sync_of_outstanding hcs hpending hout, exec_sync_of_timedOut hcs hpending⟩

/-- Nothing holds a CMD_SYNC back: its completion is signalled. -/
theorem exec_sync_of_free (hcs : cs ≠ 3) (hpending : msiPending s = false) (hnone : ∀ a ∈ s.atcInvs, a.queue ≠ s.cur) :
    exec (.sync cs msh attr data addr ns) s =
      finish (syncSignal s cs.toNat (msiAddrOf s.ids addr) data (msiAttrs attr msh.toNat) ns) := by
  have hany : (s.atcInvs.any fun a => a.queue == s.cur) = false := by simpa using hnone
  have hlate : (s.atcInvs.any fun a => a.queue == s.cur && a.timedOut) = false := by
    rw [List.any_eq_false] at hany ⊢
    exact fun a ha h => hany a ha ((Bool.and_eq_true _ _).mp h).1
  simp only [exec, execSync, hcs, hpending, hlate, hany, if_false, Bool.false_eq_true]

end Held

/-! ## Completion without an interrupt -/

theorem sameRegisters_send (s : State) (o : Output) : SameRegisters s (s.send o) := { sameRegisters_refl s with }

/-- A command that sends one thing at most and is consumed. -/
theorem consume_ite_send (s : State) (b : Bool) (o : Output) :
    SameRegisters s.advanced (if b then s.send o else s).consume ∧ SameMemory s (if b then s.send o else s).consume ∧
      SameRest s (if b then s.send o else s).consume ∧ (if b then s.send o else s).consume.caches = s.caches := by
  cases b with
  | true =>
    exact ⟨sameRegisters_consume (sameRegisters_send s o) rfl, sameMemory_consume (s.send o), sameRest_consume_send s o,
      consume_caches _⟩
  | false =>
    exact ⟨sameRegisters_consume (sameRegisters_refl s) rfl, sameMemory_consume s, sameRest_consume s, consume_caches s⟩

theorem exec_sync_none {s : State} (hpending : msiPending s = false) (hnone : ∀ a ∈ s.atcInvs, a.queue ≠ s.cur)
    (msh : BitVec 2) (attr : BitVec 4) (data : BitVec 32) (addr : BitVec 54) (ns : Bool) :
    exec (.sync 0 msh attr data addr ns) s = .next s.consume := by
  rw [exec_sync_of_free (by decide) hpending hnone]
  rfl

theorem exec_sync_sev {s : State} (hpending : msiPending s = false) (hnone : ∀ a ∈ s.atcInvs, a.queue ≠ s.cur)
    (msh : BitVec 2) (attr : BitVec 4) (data : BitVec 32) (addr : BitVec 54) (ns : Bool) :
    exec (.sync 2 msh attr data addr ns) s = .next (if s.ids.sev then s.send .sev else s).consume := by
  rw [exec_sync_of_free (by decide) hpending hnone]
  rfl

/-- Settles O34: SIG_NONE is consumed as it stands, SIG_SEV after the event it sends. -/
theorem syncCompletes : Obligations.SyncCompletes := by
  unfold Obligations.SyncCompletes
  intro s msh attr data addr ns hnone hpending
  obtain ⟨hregs, hmem, hrest, hcaches⟩ := consume_ite_send s s.ids.sev .sev
  exact ⟨⟨_, exec_sync_none hpending hnone _ _ _ _ _, onlyCaches_consume s s.caches s.free, consume_caches s⟩,
    _, exec_sync_sev hpending hnone _ _ _ _ _, hregs, hmem, hrest, hcaches, rfl⟩

/-! ## SIG_IRQ on a queue that is no DCMDQ -/

theorem exec_sync_irq {s : State} (hdirect : s.cur.isDirect = false) (hnone : ∀ a ∈ s.atcInvs, a.queue ≠ s.cur)
    (msh : BitVec 2) (attr : BitVec 4) (data : BitVec 32) (addr : BitVec 54) (ns : Bool) :
    exec (.sync 1 msh attr data addr ns) s =
      .next (syncIrq s s.cur.sec (msiAddrOf s.ids addr) data (msiAttrs attr msh.toNat) ns).consume := by
  have hpending : msiPending s = false := by
    unfold msiPending
    cases hcur : s.cur with
    | main i => rfl
    | ecmdq i n => rfl
    | dcmdq i n => rw [hcur] at hdirect; cases hdirect
  rw [exec_sync_of_free (by decide) hpending hnone]
  cases hcur : s.cur with
  | main i => simp [syncSignal, hcur, finish, CmdOut.state]
  | ecmdq i n => simp [syncSignal, hcur, finish, CmdOut.state]
  | dcmdq i n => rw [hcur] at hdirect; cases hdirect

/-- The MSI of a CMD_SYNC, where one is sent. -/
def syncMsi (s : State) (i : Sec) (addr : DWord) (data : BitVec 32) (attrs : Attrs) (ns : Bool) : State :=
  if s.ids.msi i && addr != 0 then
    match sendMsi s (s.ownAcc i .msiCmdq) (syncPas i ns) addr data attrs .own .msiCmdq with
    | (false, s) => s
    | (true, s) => raiseGerror s i .msiCmdq
  else s

/-- The wired interrupt follows the MSI. -/
theorem syncIrq_eq (s : State) (i : Sec) (addr : DWord) (data : BitVec 32) (attrs : Attrs) (ns : Bool) :
    syncIrq s i addr data attrs ns =
      (if (syncMsi s i addr data attrs ns).impl.wiredInterrupts then (syncMsi s i addr data attrs ns).send (.wire (.cmdq i))
       else syncMsi s i addr data attrs ns) := rfl

theorem only_syncMsi (s : State) (i : Sec) (addr : DWord) (data : BitVec 32) (attrs : Attrs) (ns : Bool) :
    Only State.sansLookup s (syncMsi s i addr data attrs ns) := by
  unfold syncMsi
  split
  · have h := only_sendMsi s (s.ownAcc i .msiCmdq) (syncPas i ns) addr data attrs .own .msiCmdq
    split <;> (rename_i e; rw [e] at h)
    · exact h
    · exact h.trans (only_raiseGerror _ _ _)
  · exact .refl s

theorem sends_consume (s : State) : Sends s s.consume := by
  have hadvanced : Sends s s.advanced := by
    unfold State.advanced
    split
    · exact .refl s
    · exact .of_eq (State.setCons_outputs _ _ _)
  rcases consume_eq s with e | e
  · rw [e]
    exact hadvanced
  · rw [e]
    exact hadvanced.trans (sends_send _ _)

/-! ## A global error raised before a command is consumed -/

/-- What a change of CONS of a Command queue does to its interface. -/
def consSet (q : QueueId) (f : BitVec 32 → BitVec 32) (r : Iface) : Iface :=
  match q with
  | .main _ => { r with cmdq := { r.cmdq with cons := f r.cmdq.cons } }
  | .ecmdq _ n => { r with ecmdqs := r.ecmdqs.modify n fun e => { e with cons := f e.cons } }
  | .dcmdq _ n => { r with ecmdqs := r.ecmdqs.modify n fun e => { e with cons := f e.cons } }

theorem iface_setCons (s : State) (q : QueueId) (f : BitVec 32 → BitVec 32) (j : Sec) :
    (s.setCons q f).iface j = if j = q.sec then consSet q f (s.iface j) else s.iface j := by
  have hset : s.setCons q f = s.setIface q.sec (consSet q f) := by cases q <;> rfl
  rw [hset]
  split
  · next h => rw [h, State.setIface_iface_same]
  · next h => exact State.setIface_iface_other s _ h

theorem consSet_gerror (q : QueueId) (f : BitVec 32 → BitVec 32) (r : Iface) (v : BitVec 32) :
    consSet q f { r with gerror := v } = { consSet q f r with gerror := v } := by
  cases q <;> rfl

/-- A change of CONS leaves the error flags, and the GERROR interrupt and its enable, as they were. -/
theorem setCons_keeps_gerror (s : State) (q : QueueId) (f : BitVec 32 → BitVec 32) (j : Sec) :
    ((s.setCons q f).iface j).gerror = (s.iface j).gerror ∧ ((s.setCons q f).iface j).gerrorn = (s.iface j).gerrorn ∧
      ((s.setCons q f).iface j).gerrorIrq = (s.iface j).gerrorIrq ∧
      ((s.setCons q f).iface j).irqCtrlAck = (s.iface j).irqCtrlAck := by
  rw [iface_setCons]
  split
  · cases q <;> exact ⟨rfl, rfl, rfl, rfl⟩
  · exact ⟨rfl, rfl, rfl, rfl⟩

theorem byteAt_setCons (s : State) (q : QueueId) (f : BitVec 32 → BitVec 32) (pas : Pas) (a : DWord) :
    (s.setCons q f).byteAt pas a = s.byteAt pas a := by
  rw [State.byteAt, State.setCons_mem, State.byteAt]

theorem gerrActive_setCons (s : State) (q : QueueId) (f : BitVec 32 → BitVec 32) (i : Sec) (e : GErr) :
    gerrActive ((s.setCons q f).iface i) e = gerrActive (s.iface i) e := by
  obtain ⟨hgerror, hgerrorn, -, -⟩ := setCons_keeps_gerror s q f i
  rw [gerrActive, gerrActive, hgerror, hgerrorn]

theorem gerrActive_consume (s : State) (i : Sec) (e : GErr) :
    gerrActive (s.consume.iface i) e = gerrActive (s.iface i) e := by
  have hadvanced : gerrActive (s.advanced.iface i) e = gerrActive (s.iface i) e := by
    unfold State.advanced
    split
    · rfl
    · exact gerrActive_setCons _ _ _ _ _
  rcases consume_eq s with h | h
  · rw [h, hadvanced]
  · rw [h, State.send_iface, hadvanced]

section OnlyGerror

variable {s t : State} {i : Sec} {e : GErr}

/-- `OnlyGerror` from a state that differs in no register, byte of memory or cache but the GPT's. -/
theorem onlyGerror_after {u : State} (h : Quiet s u) (hl : u.sansLookup = s.sansLookup) (hmem : u.mem = s.mem)
    (k : OnlyGerror u t i e) : OnlyGerror s t i e where
  rest := k.rest.trans hl
  others j hj := (k.others j hj).trans (h.iface j)
  iface := by rw [k.iface, h.iface]
  flags n hn hmsi := by rw [k.flags n hn hmsi, h.iface]
  memory hm pas x hx := by
    have haddr : gerrorMsiAddr u i = gerrorMsiAddr s i := by simp [gerrorMsiAddr, State.truncOas, h.iface, h.ids]
    rw [k.memory (by rwa [MemoryCanonical, hmem]) pas x (by rwa [h.iface, haddr]), State.byteAt, hmem, State.byteAt]
  silent hs := by
    have hquiet : SameMemory u t := k.silent (by rwa [GerrorMsi, h.iface, h.ids])
    intro pas a
    rw [hquiet, State.byteAt, hmem, State.byteAt]
  caches := k.caches.trans h.caches

theorem onlyGerror_send (h : OnlyGerror s t i e) (o : Output) : OnlyGerror s (t.send o) i e where
  rest := h.rest
  others j hj := by rw [State.send_iface, h.others j hj]
  iface := by rw [State.send_iface, ← h.iface]
  flags n hn hmsi := by rw [State.send_iface, h.flags n hn hmsi]
  memory := h.memory
  silent := h.silent
  caches := h.caches

theorem onlyGerror_setCons (h : OnlyGerror s t i e) (q : QueueId) (f : BitVec 32 → BitVec 32) :
    OnlyGerror (s.setCons q f) (t.setCons q f) i e := by
  obtain ⟨hgerror, hgerrorn, hirq, hack⟩ := setCons_keeps_gerror s q f i
  obtain ⟨hgerror', -, -, -⟩ := setCons_keeps_gerror t q f i
  refine ⟨?_, fun j hj => ?_, ?_, fun n hn hmsi => ?_, fun hm pas x hx => ?_, fun hs pas x => ?_, ?_⟩
  · rw [← setCons_sansLookup, h.rest, setCons_sansLookup]
  · rw [iface_setCons, iface_setCons, h.others j hj]
  · rw [hgerror', iface_setCons, iface_setCons, h.iface]
    split
    · exact consSet_gerror _ _ _ _
    · rfl
  · rw [hgerror', hgerror, h.flags n hn hmsi]
  · have haddr : gerrorMsiAddr (s.setCons q f) i = gerrorMsiAddr s i := by
      simp [gerrorMsiAddr, State.truncOas, hirq]
    rw [byteAt_setCons, byteAt_setCons]
    exact h.memory (by simpa [MemoryCanonical] using hm) pas x (by rwa [hirq, haddr] at hx)
  · rw [byteAt_setCons, byteAt_setCons]
    rw [GerrorMsi, hirq, hack, gerrActive_setCons, State.setCons_ids] at hs
    exact h.silent hs pas x
  · rw [State.setCons_caches, State.setCons_caches, h.caches]

theorem onlyGerror_consume (h : OnlyGerror s t i e) : OnlyGerror s.advanced t.consume i e := by
  have hcur : t.cur = s.cur := (congrArg State.cur h.rest : t.sansLookup.cur = s.sansLookup.cur)
  have hids : t.ids = s.ids := (congrArg State.ids h.rest : t.sansLookup.ids = s.sansLookup.ids)
  have hregs : t.queueRegs s.cur = s.queueRegs s.cur := by rw [← queueRegs_sansLookup, h.rest, queueRegs_sansLookup]
  have hadvanced : OnlyGerror s.advanced t.advanced i e := by
    rw [State.advanced, State.advanced, hcur, hregs]
    cases s.queueRegs s.cur with
    | none => exact h
    | some r =>
      simp only [cmdqLog2, hids]
      exact onlyGerror_setCons h _ _
  rcases consume_eq t with hc | hc
  · rw [hc]
    exact hadvanced
  · rw [hc]
    exact onlyGerror_send hadvanced _

end OnlyGerror

/-! ## The MSI of a CMD_SYNC -/

/-- A state without what the fetching of configuration changes, and without memory. -/
def sansFetchMem (s : State) : State := ({ s with mem := [] } : State).sansFetch

theorem sparesQueues_sansFetchMem : SparesQueues sansFetchMem where
  cur _ := rfl
  ids _ := rfl
  regs s q := by
    rcases q with i | ⟨i, n⟩ | ⟨i, n⟩ <;> cases i <;> rfl
  cons s q g := by
    rcases q with i | ⟨i, n⟩ | ⟨i, n⟩ <;> cases i <;> rfl
  send _ _ := rfl

theorem sansFetchMem_of_only_fetch {s t : State} (h : Only State.sansFetch s t) : sansFetchMem t = sansFetchMem s :=
  (congrArg (fun v : State => { v with mem := [] }) h.same :)

/-- A write that the SMMU makes changes memory, and else what the fetching of configuration changes. -/
theorem sansFetchMem_smmuWrite (s : State) (o : AccFrom) (pas : Pas) (a : DWord) (bs : List Byte) (c : FarCode) :
    sansFetchMem (smmuWrite s o pas a bs c).2 = sansFetchMem s := by
  have h := fetch_smmuAccess s o pas a bs.length true c true
  unfold smmuWrite
  split <;> (rename_i e; rw [e] at h)
  · exact sansFetchMem_of_only_fetch h
  · exact (sansFetchMem_of_only_fetch h :)

theorem sansFetch_of_sansFetchMem {s t : State} (h : sansFetchMem t = sansFetchMem s) :
    t.sansFetch = ({ s with mem := t.mem } : State).sansFetch :=
  (congrArg (fun v : State => { v with mem := t.mem }) h :)

section SyncMsi

variable {s : State} {i : Sec} {addr : DWord} {data : BitVec 32} {attrs : Attrs} {ns : Bool}

theorem syncMsi_of_none (h : s.ids.msi i = false ∨ addr = 0) : syncMsi s i addr data attrs ns = s := by
  rw [syncMsi, if_neg (by rcases h with h | h <;> simp [h])]

variable (hmsi : s.ids.msi i = true) (haddr : addr ≠ 0) {u : State}

include hmsi haddr

theorem syncMsi_of_written
    (hw : smmuWrite s { s.ownAcc i .msiCmdq with type := attrs.mt } (syncPas i ns) (s.truncOas addr)
      (natBytes 4 data.toNat) .msiCmdq = (none, u)) :
    syncMsi s i addr data attrs ns = u.send (.msi (syncPas i ns) (s.truncOas addr) data attrs .own) := by
  rw [syncMsi, if_pos (by simpa [hmsi] using haddr), sendMsi]
  simp only [hw]

theorem syncMsi_of_aborted {e : MemErr}
    (hw : smmuWrite s { s.ownAcc i .msiCmdq with type := attrs.mt } (syncPas i ns) (s.truncOas addr)
      (natBytes 4 data.toNat) .msiCmdq = (some e, u)) :
    syncMsi s i addr data attrs ns = raiseGerror u i .msiCmdq := by
  rw [syncMsi, if_pos (by simpa [hmsi] using haddr), sendMsi]
  simp only [hw]

end SyncMsi

/-- Memory after a write that the SMMU made. -/
theorem mem_of_smmuWrite {s u : State} {o : AccFrom} {pas : Pas} {a : DWord} {bs : List Byte} {c : FarCode}
    {r : Option MemErr} (h : smmuWrite s o pas a bs c = (r, u)) :
    u.mem = if r = none then s.mem.store pas a bs else s.mem := by
  have hmem := (quiet_smmuWrite s o pas a bs c).2
  rwa [h] at hmem

theorem onlyGerror_of_aborted {s u : State} {o : AccFrom} {pas : Pas} {a : DWord} {bs : List Byte} {c : FarCode}
    {x : MemErr} (h : smmuWrite s o pas a bs c = (some x, u)) (i : Sec) (e : GErr) :
    OnlyGerror s (raiseGerror u i e) i e := by
  have hquiet := (quiet_smmuWrite s o pas a bs c).1
  rw [h] at hquiet
  exact onlyGerror_after hquiet (only_snd (only_smmuWrite s o pas a bs c true) h).same (mem_of_smmuWrite h)
    (onlyGerror_raiseGerror u i e)

theorem ids_of_only_lookup {s t : State} (h : Only State.sansLookup s t) : t.ids = s.ids :=
  (congrArg State.ids h.same : t.sansLookup.ids = s.sansLookup.ids)

theorem impl_of_only_lookup {s t : State} (h : Only State.sansLookup s t) : t.impl = s.impl :=
  (congrArg State.impl h.same : t.sansLookup.impl = s.sansLookup.impl)

theorem only_ite_send (s : State) (b : Bool) (o : Output) : Only State.sansLookup s (if b then s.send o else s) :=
  .ite (only_send s o) (.refl s)

theorem sends_ite_send (s : State) (b : Bool) (o : Output) : Sends s (if b then s.send o else s) := by
  cases b with
  | true => exact sends_send s o
  | false => exact .refl s

theorem ite_send_mem (s : State) (b : Bool) (o : Output) : (if b then s.send o else s).mem = s.mem := by
  cases b <;> rfl

theorem sansFetchMem_ite_send (s : State) (b : Bool) (o : Output) :
    sansFetchMem (if b then s.send o else s) = sansFetchMem s := by
  cases b <;> rfl

theorem gerrActive_ite_send (s : State) (b : Bool) (o : Output) (i : Sec) (e : GErr) :
    gerrActive ((if b then s.send o else s).iface i) e = gerrActive (s.iface i) e := by
  cases b with
  | true => rw [if_pos rfl, State.send_iface]
  | false => rfl

theorem onlyGerror_ite_send {s t : State} {i : Sec} {e : GErr} (h : OnlyGerror s t i e) (b : Bool) (o : Output) :
    OnlyGerror s (if b then t.send o else t) i e := by
  cases b with
  | true => exact onlyGerror_send h o
  | false => exact h

/-- Settles O35: the MSI, then the wired interrupt, then the consumption. -/
theorem syncInterrupt : Obligations.SyncInterrupt := by
  unfold Obligations.SyncInterrupt
  intro s msh attr data addr ns hdirect hnone
  have hexec := exec_sync_irq hdirect hnone msh attr data addr ns
  have hmsi := only_syncMsi s s.cur.sec (msiAddrOf s.ids addr) data (msiAttrs attr msh.toNat) ns
  rw [syncIrq_eq, impl_of_only_lookup hmsi] at hexec
  refine ⟨_, hexec, sansLookup_consume_of_only (hmsi.trans (only_ite_send _ _ _)), fun hwired => ?_, fun hsilent => ?_,
    fun hsupported haddr a o ha ho => ⟨fun u hw => ?_, fun u e hw => ?_⟩⟩
  · rw [if_pos hwired]
    exact (sends_consume _).mem (List.mem_append_right _ List.mem_cons_self)
  · rw [syncMsi_of_none hsilent]
    obtain ⟨hregs, hmem, hrest, hcaches⟩ := consume_ite_send s s.impl.wiredInterrupts (.wire (.cmdq s.cur.sec))
    exact ⟨hregs, hmem, hrest, hcaches, rfl⟩
  · subst ha ho
    rw [syncMsi_of_written hsupported haddr hw]
    have hwrite := sansFetchMem_smmuWrite s { s.ownAcc s.cur.sec .msiCmdq with type := (msiAttrs attr msh.toNat).mt }
      (syncPas s.cur.sec ns) (s.truncOas (msiAddrOf s.ids addr)) (natBytes 4 data.toNat) .msiCmdq
    rw [hw] at hwrite
    refine ⟨?_, sansFetch_of_sansFetchMem (consume_of_sparesQueues sparesQueues_sansFetchMem ?_),
      ((sends_ite_send _ _ _).trans (sends_consume _)).mem (List.mem_append_right _ List.mem_cons_self)⟩
    · rw [consume_mem, ite_send_mem]
      exact mem_of_smmuWrite hw
    · rw [sansFetchMem_ite_send]
      exact hwrite
  · subst ha ho
    rw [syncMsi_of_aborted hsupported haddr hw]
    have hids := ids_of_only_lookup (only_snd (only_smmuWrite _ _ _ _ _ _ _) hw)
    refine ⟨?_, onlyGerror_consume (onlyGerror_ite_send (onlyGerror_of_aborted hw _ _) _ _)⟩
    rw [gerrActive_consume, gerrActive_ite_send]
    exact gerrActive_raiseGerror (by rw [hids]; exact hsupported)

/-! ## SIG_IRQ on a DCMDQ -/

theorem takes_dcmdqFailed (s : State) (i : Sec) (n : Nat) (ev : EvTxn) (why : Stop) :
    Takes s (dcmdqFailed s i n ev why).2 := by
  unfold dcmdqFailed
  split
  case h_6 => exact takes_emitFor _ _ _
  case h_7 =>
    dsimp only
    split
    · exact takes_stallAccess _ _ _ _
    · exact .ite (.refl s) (takes_emitEvent _ _ _)
  all_goals exact .refl s

/-- The translation of an access of a DCMDQ changes no register that software configures, and no queue. -/
theorem takes_dcmdqTranslate (s : State) (i : Sec) (n : Nat) (a : DWord) (w : Bool) (x : Attrs) :
    Takes s (dcmdqTranslate s i n a w x).2 := by
  simp only [dcmdqTranslate]
  split
  · split
    · exact .refl s
    · exact .of_lookup (only_gbpMpam s i)
  · split
    · next h => exact takes_run (xonly_dcmdqPath _ _ _) h
    · next h => exact (takes_run (xonly_dcmdqPath _ _ _) h).trans (takes_dcmdqFailed _ _ _ _ _)

section Direct

variable {s u : State} {i : Sec} {n : Nat} {addr : DWord} {data : BitVec 32} {attrs : Attrs}

theorem syncDirect_of_none (h : s.ids.msi i = false ∨ addr = 0) : syncDirect s i n addr data attrs = .consumed s := by
  rw [syncDirect, if_pos (by rcases h with h | h <;> simp [h])]

/-- An MSI of a CMD_SYNC on a DCMDQ, by what its address translates to (R2069). -/
def directMsi (u : State) (i : Sec) (n : Nat) (data : BitVec 32) : DcmdqOut → CmdOut
  | .failed => .hsError .ipa u
  | .stalled => .waiting u
  | .done pa pas a o =>
    let r := sendMsi u o pas pa data a (.dcmdq i (qsidOf u.ids i n)) .msiCmdq
    .consumed (if r.1 then r.2.setEcmdq i n fun e => { e with msiAborted := true } else r.2)

theorem syncDirect_of_msi {out : DcmdqOut} (hmsi : s.ids.msi i = true) (haddr : addr ≠ 0)
    (h : dcmdqTranslate s i n addr true attrs = (out, u)) :
    syncDirect s i n addr data attrs = directMsi u i n data out := by
  rw [syncDirect, if_neg (by simpa [hmsi] using haddr), h]
  cases out with
  | failed => rfl
  | stalled => rfl
  | done pa pas a o =>
    dsimp only [directMsi]
    rcases sendMsi u o pas pa data a (.dcmdq i (qsidOf u.ids i n)) .msiCmdq with ⟨b, v⟩
    cases b <;> rfl

end Direct

/-- Settles O36: an aborted MSI is reported first; else the translation of the MSI address decides. -/
theorem syncOnDcmdq : Obligations.SyncOnDcmdq := by
  unfold Obligations.SyncOnDcmdq
  intro s i n msh attr data addr ns hcur hnone
  have hexec (hpending : msiPending s = false) : exec (.sync 1 msh attr data addr ns) s =
      finish (syncDirect s i n (msiAddrOf s.ids addr) data (msiAttrs attr msh.toNat)) := by
    rw [exec_sync_of_free (by decide) hpending hnone]
    simp [syncSignal, hcur]
  refine ⟨fun hpending cs hcs => ?_, fun hpending h => ?_, fun hpending hmsi haddr u => ⟨fun h => ?_, fun h => ?_, ?_⟩⟩
  · rw [exec_sync_of_pending hcs hpending, clearMsiPending, hcur]
  · rw [hexec hpending, syncDirect_of_none h]
    exact ⟨_, rfl, onlyCaches_consume s s.caches s.free, consume_caches s⟩
  · rw [hexec hpending, syncDirect_of_msi hmsi haddr h]
    rfl
  · have htakes := takes_dcmdqTranslate s i n (msiAddrOf s.ids addr) true (msiAttrs attr msh.toNat)
    rw [h] at htakes
    rw [hexec hpending, syncDirect_of_msi hmsi haddr h]
    exact ⟨rfl, htakes.only.same⟩
  · intro pa pas a o h v
    rw [hexec hpending, syncDirect_of_msi hmsi haddr h]
    constructor <;> (intro hsend; simp only [directMsi, hsend]; rfl)

end Sys2Proof.Proofs
end

section
/-! O57: what is recorded in the output queues (60_exceptions.md R2160 to R2164; 26_ats_pri.md R1731 to R1740). -/

namespace Sys2Proof.Proofs

open Sys2Proof.Machine Sys2Proof.Safety Sys2Proof.Laws

/-! ## Interrupts and the bytes of their MSIs -/

theorem outsideMsi_congr {s t : State} {i : Sec} {x : IrqSrc} (hcfg : x.cfg (t.iface i) = x.cfg (s.iface i))
    (hids : t.ids = s.ids) (pas : Pas) (a : DWord) : OutsideMsi t i x pas a ↔ OutsideMsi s i x pas a := by
  simp only [OutsideMsi, State.truncOas, hcfg, hids]

theorem outsideMsi_of_quiet {s t : State} {i : Sec} {x : IrqSrc} (h : Quiet s t) (pas : Pas) (a : DWord) :
    OutsideMsi t i x pas a ↔ OutsideMsi s i x pas a :=
  outsideMsi_congr (by rw [h.iface i]) h.ids pas a

theorem iface_raiseIrq (s : State) (i : Sec) (x : IrqSrc) :
    (raiseIrq s i x).iface i = { s.iface i with gerror := ((raiseIrq s i x).iface i).gerror } := by
  obtain ⟨-, hiface, -⟩ := raiseIrq_frame s i x
  exact hiface

/-- A byte that an interrupt, if it is raised, does not write. -/
theorem byteAt_ite_raiseIrq {s : State} {i : Sec} {x : IrqSrc} (b : Bool) (hmem : MemoryCanonical s) {pas : Pas} {a : DWord}
    (hx : OutsideMsi s i x pas a) (hg : OutsideMsi s i .gerror pas a) :
    (if b then raiseIrq s i x else s).byteAt pas a = s.byteAt pas a := by
  obtain ⟨-, -, hbytes⟩ := raiseIrq_frame s i x
  cases b with
  | true => exact hbytes hmem pas a hx hg
  | false => rfl

/-! ## What recording an event changes in the interfaces -/

/-- From `s` to `t` no interface but that of `i` changes, and in this one GERROR and the PROD register of the Event queue
only. -/
structure EventFrame (i : Sec) (s t : State) : Prop where
  others : ∀ j, j ≠ i → t.iface j = s.iface j
  iface : t.iface i =
    { s.iface i with
      gerror := (t.iface i).gerror, eventq := { (s.iface i).eventq with prod := (t.iface i).eventq.prod } }

section EventFrame

variable {i : Sec} {s t u : State}

theorem EventFrame.trans (h : EventFrame i s t) (k : EventFrame i t u) : EventFrame i s u :=
  ⟨fun j hj => (k.others j hj).trans (h.others j hj), by rw [k.iface, h.iface]⟩

theorem EventFrame.of_iface (h : ∀ j, t.iface j = s.iface j) : EventFrame i s t := ⟨fun j _ => h j, by rw [h]⟩

theorem EventFrame.refl (i : Sec) (s : State) : EventFrame i s s := .of_iface fun _ => rfl

theorem quiet_of_smmuWrite {o : AccFrom} {pas : Pas} {a : DWord} {bs : List Byte} {c : FarCode} {r : Option MemErr}
    (h : smmuWrite s o pas a bs c = (r, u)) : Quiet s u := by
  have hquiet := (quiet_smmuWrite s o pas a bs c).1
  rwa [h] at hquiet

theorem eventFrame_smmuWrite {o : AccFrom} {pas : Pas} {a : DWord} {bs : List Byte} {c : FarCode} {r : Option MemErr}
    (h : smmuWrite s o pas a bs c = (r, u)) : EventFrame i s u :=
  .of_iface (quiet_of_smmuWrite h).iface

theorem eventFrame_raiseGerror (i : Sec) (s : State) (e : GErr) : EventFrame i s (raiseGerror s i e) := by
  have honly := onlyGerror_raiseGerror s i e
  exact ⟨honly.others, by rw [honly.iface]⟩

theorem eventFrame_ite_raiseIrq (i : Sec) (s : State) (x : IrqSrc) (b : Bool) :
    EventFrame i s (if b then raiseIrq s i x else s) := by
  obtain ⟨hothers, hiface, -⟩ := raiseIrq_frame s i x
  cases b with
  | true => exact ⟨hothers, by rw [if_pos rfl, hiface]⟩
  | false => exact .refl i s

theorem eventFrame_setEventqProd (i : Sec) (s : State) (f : BitVec 32 → BitVec 32) : EventFrame i s (s.setEventqProd i f) :=
  ⟨fun _ hj => State.setIface_iface_other s _ hj, by simp [State.setEventqProd]⟩

theorem eventFrame_eventqAdvance (i : Sec) (s : State) (b : Bool) : EventFrame i s (eventqAdvance s i b) :=
  (eventFrame_setEventqProd i s _).trans (eventFrame_ite_raiseIrq i _ .eventq b)

theorem eventFrame_eventqOverflow (i : Sec) (s : State) : EventFrame i s (eventqOverflow s i) := by
  unfold eventqOverflow
  dsimp only
  split
  · exact eventFrame_setEventqProd i s _
  · exact .refl i s

theorem eventFrame_writeRecord (i : Sec) (s : State) (rec : BitVec 256) : EventFrame i s (writeRecord s i rec).2 := by
  unfold writeRecord
  dsimp only
  split
  · rename_i v hwrite
    have hv := eventFrame_smmuWrite (i := i) hwrite
    split
    · exact hv.trans (eventFrame_raiseGerror i v _)
    · exact (hv.trans (eventFrame_eventqAdvance i v _)).trans (eventFrame_raiseGerror i _ _)
  · rename_i v hwrite
    exact (eventFrame_smmuWrite hwrite).trans (eventFrame_eventqAdvance i v _)

theorem eventFrame_recordEvent (i : Sec) (s : State) (rec : BitVec 256) : EventFrame i s (recordEvent s i rec) := by
  unfold recordEvent
  split
  · exact eventFrame_writeRecord i s rec
  · exact eventFrame_eventqOverflow i s

theorem eventFrame_emitEvent (s : State) (ev : EvTxn) (e : Event) : EventFrame ev.sec s (emitEvent s ev e) :=
  have hrecord : EventFrame ev.sec s (s.recordOf ev e).2 := .of_iface fun _ => rfl
  hrecord.trans (eventFrame_recordEvent ev.sec _ _)

end EventFrame

/-! ## A record in the Event queue -/

/-- The Event queue holds no record. -/
def eventqEmpty (s : State) (i : Sec) : Bool := queueEmpty (s.iface i).eventq.prod (s.iface i).eventq.cons (eventqLog2 s i)

/-- The entry that PROD of the Event queue points at. -/
def eventqEntry (s : State) (i : Sec) : DWord :=
  s.entryAt (s.iface i).eventq.base (eventqLog2 s i) 5 (s.iface i).eventq.prod

/-- The Event queue past a record. -/
def eventqPast (s : State) (i : Sec) : QueueRegs :=
  { (s.iface i).eventq with prod := indexAdvance (s.iface i).eventq.prod (eventqLog2 s i) }

section Record

variable {s u : State} {i : Sec} {rec : BitVec 256}

theorem eventqPast_congr (hiface : u.iface i = s.iface i) (hids : u.ids = s.ids) : eventqPast u i = eventqPast s i := by
  simp only [eventqPast, eventqLog2, hiface, hids]

theorem eventqAdvance_eventq (s : State) (i : Sec) (b : Bool) : ((eventqAdvance s i b).iface i).eventq = eventqPast s i := by
  have hset : ((s.setEventqProd i (indexAdvance · (eventqLog2 s i))).iface i).eventq = eventqPast s i := by
    simp [State.setEventqProd, eventqPast]
  have hirq := iface_raiseIrq (s.setEventqProd i (indexAdvance · (eventqLog2 s i))) i .eventq
  cases b with
  | true => exact (congrArg Iface.eventq hirq).trans hset
  | false => exact hset

theorem byteAt_eventqAdvance (b : Bool) (hmem : MemoryCanonical s) {pas : Pas} {a : DWord}
    (he : OutsideMsi s i .eventq pas a) (hg : OutsideMsi s i .gerror pas a) :
    (eventqAdvance s i b).byteAt pas a = s.byteAt pas a := by
  have hset := only_setEventqProd s i (indexAdvance · (eventqLog2 s i))
  have hids : (s.setEventqProd i (indexAdvance · (eventqLog2 s i))).ids = s.ids := ids_of_sansRecord hset.same
  have hcfg : ∀ x, (x = .eventq ∨ x = .gerror) →
      IrqSrc.cfg ((s.setEventqProd i (indexAdvance · (eventqLog2 s i))).iface i) x = IrqSrc.cfg (s.iface i) x := by
    rintro x (rfl | rfl) <;> simp [State.setEventqProd, IrqSrc.cfg]
  have hirq := byteAt_ite_raiseIrq b (hset.memory hmem)
    ((outsideMsi_congr (hcfg _ (.inl rfl)) hids pas a).mpr he) ((outsideMsi_congr (hcfg _ (.inr rfl)) hids pas a).mpr hg)
  refine hirq.trans ?_
  cases i <;> rfl

/-- The write of a record. -/
def storeRecord (s : State) (i : Sec) (rec : BitVec 256) : Option MemErr × State :=
  smmuWrite s (s.ownAcc i .eventq) i.pas (eventqEntry s i) (natBytes 32 rec.toNat) .eventq

theorem recordEvent_of_written (hw : s.eventqWritable i = true) (h : storeRecord s i rec = (none, u)) :
    recordEvent s i rec = eventqAdvance u i (eventqEmpty s i) := by
  unfold storeRecord eventqEntry eventqLog2 at h
  rw [recordEvent, if_pos hw, writeRecord, h]
  rfl

theorem recordEvent_of_aborted {e : MemErr} (hw : s.eventqWritable i = true) (h : storeRecord s i rec = (some e, u)) :
    recordEvent s i rec =
      if s.impl.eventqAbortSync then raiseGerror u i .eventqAbt
      else raiseGerror (eventqAdvance u i (eventqEmpty s i)) i .eventqAbt := by
  have himpl : u.impl = s.impl := impl_of_only_lookup (only_snd (only_smmuWrite _ _ _ _ _ _ _) h)
  unfold storeRecord eventqEntry eventqLog2 at h
  rw [recordEvent, if_pos hw, writeRecord, h]
  dsimp only
  rw [himpl]
  cases s.impl.eventqAbortSync <;> rfl

theorem quiet_storeRecord {r : Option MemErr} (h : storeRecord s i rec = (r, u)) : Quiet s u := quiet_of_smmuWrite h

/-- A record stored in a writable queue. -/
theorem written_record (hw : s.eventqWritable i = true) (h : storeRecord s i rec = (none, u)) :
    u.mem = s.mem.store i.pas (eventqEntry s i) (natBytes 32 rec.toNat) ∧
      ((recordEvent s i rec).iface i).eventq = eventqPast s i ∧
      (eventqEmpty s i = false → recordEvent s i rec = u.setEventqProd i (indexAdvance · (eventqLog2 s i))) ∧
      (MemoryCanonical s → ∀ pas a, OutsideMsi s i .eventq pas a → OutsideMsi s i .gerror pas a →
        (recordEvent s i rec).byteAt pas a = u.byteAt pas a) := by
  have hquiet := quiet_storeRecord h
  have hiface := hquiet.iface i
  have hids := hquiet.ids
  have hcanon := (only_snd (only_smmuWrite _ _ _ _ _ _ _) h).memory
  rw [recordEvent_of_written hw h]
  refine ⟨(mem_of_smmuWrite h).trans (if_pos rfl), ?_, fun hempty => ?_, fun hmem pas a he hg => ?_⟩
  · rw [eventqAdvance_eventq, eventqPast_congr hiface hids]
  · rw [hempty, eventqAdvance, if_neg (by decide), hiface, hids]
    rfl
  · exact byteAt_eventqAdvance _ (hcanon hmem) ((outsideMsi_of_quiet hquiet pas a).mpr he)
      ((outsideMsi_of_quiet hquiet pas a).mpr hg)

/-- The write of a record to a writable queue aborted. -/
theorem aborted_record {e : MemErr} (hw : s.eventqWritable i = true) (h : storeRecord s i rec = (some e, u)) :
    u.mem = s.mem ∧ gerrActive ((recordEvent s i rec).iface i) .eventqAbt = true ∧
      (s.impl.eventqAbortSync = true →
        ((recordEvent s i rec).iface i).eventq = (s.iface i).eventq ∧ OnlyGerror u (recordEvent s i rec) i .eventqAbt) ∧
      (s.impl.eventqAbortSync = false → ((recordEvent s i rec).iface i).eventq = eventqPast s i) := by
  have hquiet := quiet_storeRecord h
  have hiface := hquiet.iface i
  have hraised (t : State) : ((raiseGerror t i .eventqAbt).iface i).eventq = (t.iface i).eventq := by
    rw [(onlyGerror_raiseGerror t i .eventqAbt).iface]
  rw [recordEvent_of_aborted hw h]
  refine ⟨(mem_of_smmuWrite h).trans (if_neg (by simp)), ?_, fun hsync => ?_, fun hasync => ?_⟩
  · split <;> exact gerrActive_raiseGerror rfl
  · rw [if_pos hsync, hraised, hiface]
    exact ⟨rfl, onlyGerror_raiseGerror u i _⟩
  · rw [hasync, if_neg (by decide), hraised, eventqAdvance_eventq, eventqPast_congr hiface hquiet.ids]

theorem overflowed_toggle (q : QueueRegs) : overflowed { q with prod := toggleBit q.prod 31 } = !overflowed q := by
  simp only [overflowed, toggleBit_getLsbD, decide_true, and_self, Nat.reduceLT, Bool.xor_true, Bool.not_bne]

/-- A record that the queue does not take. -/
theorem discarded_record (hw : s.eventqWritable i = false) :
    if s.eventqEn i = true ∧ overflowed (s.iface i).eventq = false ∧
        queueFull (s.iface i).eventq.prod (s.iface i).eventq.cons (eventqLog2 s i) = true then
      recordEvent s i rec = s.setEventqProd i (toggleBit · 31) ∧ overflowed ((recordEvent s i rec).iface i).eventq = true
    else recordEvent s i rec = s := by
  have hrec : recordEvent s i rec =
      if s.eventqEn i && queueFull (s.iface i).eventq.prod (s.iface i).eventq.cons (eventqLog2 s i)
        && !overflowed (s.iface i).eventq then s.setEventqProd i (toggleBit · 31) else s := by
    rw [recordEvent, if_neg (by simp [hw])]
    rfl
  split
  · rename_i hover
    obtain ⟨hen, hack, hfull⟩ := hover
    rw [hrec, if_pos (by simp [hen, hack, hfull])]
    refine ⟨rfl, ?_⟩
    rw [State.setEventqProd, State.setIface_iface_same, overflowed_toggle, hack]
    rfl
  · rename_i hover
    rw [hrec, if_neg]
    simp only [Bool.and_eq_true, Bool.not_eq_true']
    rintro ⟨⟨hen, hfull⟩, hack⟩
    exact hover ⟨hen, hack, hfull⟩

end Record

/-! ## The entry of a Page Request -/

theorem extractLsb'_putField_same {w : Nat} (x : BitVec w) {lo k : Nat} (v : Nat) (h : lo + k ≤ w) :
    (putField x lo k v).extractLsb' lo k = BitVec.ofNat k v := by
  refine BitVec.eq_of_getLsbD_eq fun n hn => ?_
  rw [BitVec.getLsbD_extractLsb', putField_getLsbD, if_pos (by omega), BitVec.getLsbD_ofNat, Nat.add_sub_cancel_left]

theorem extractLsb'_putField_other {w : Nat} (x : BitVec w) {lo k a n : Nat} (v : Nat) (h : a + n ≤ lo ∨ lo + k ≤ a) :
    (putField x lo k v).extractLsb' a n = x.extractLsb' a n := by
  refine BitVec.eq_of_getLsbD_eq fun m hm => ?_
  rw [BitVec.getLsbD_extractLsb', BitVec.getLsbD_extractLsb', putField_getLsbD, if_neg (by omega)]

theorem extractLsb'_putBit {w : Nat} (x : BitVec w) {k a n : Nat} (b : Bool) (h : a + n ≤ k ∨ k < a) :
    (putBit x k b).extractLsb' a n = x.extractLsb' a n :=
  extractLsb'_putField_other x _ h

/-- Every field of the entry. -/
theorem priEntry_fields (d : Ids) (r : PriReq) (x : DWord) :
    (priEntry d r x).extractLsb' 0 32 = r.sid ∧ (∀ p, r.pasid d = some p → (priEntry d r x).extractLsb' 32 20 = p) ∧
    (priEntry d r x).getLsbD 63 = (r.pasid d).isSome ∧ (priEntry d r x).getLsbD 62 = r.last ∧
    (priEntry d r x).getLsbD 61 = r.uW ∧ (priEntry d r x).getLsbD 60 = r.uR ∧
    (priEntry d r x).getLsbD 59 = (r.uX && (r.pasid d).isSome) ∧ (priEntry d r x).getLsbD 58 = (r.priv && (r.pasid d).isSome) ∧
    (priEntry d r x).extractLsb' 64 9 = r.prgIndex ∧ (priEntry d r x).extractLsb' 76 52 = r.addr.extractLsb' 12 52 := by
  have hfields : (priEntry d r x).extractLsb' 0 32 = r.sid ∧
      (priEntry d r x).extractLsb' 32 20 = (r.pasid d).getD (x.extractLsb' 0 20) ∧
      (priEntry d r x).extractLsb' 64 9 = r.prgIndex ∧ (priEntry d r x).extractLsb' 76 52 = r.addr.extractLsb' 12 52 := by
    simp (disch := omega) only [priEntry, fieldNat, extractLsb'_putField_same, extractLsb'_putField_other,
      extractLsb'_putBit, BitVec.ofNat_toNat, BitVec.setWidth_eq, and_self]
  obtain ⟨hsid, hssid, hprg, haddr⟩ := hfields
  refine ⟨hsid, fun p hp => by rw [hssid, hp]; rfl, ?_, ?_, ?_, ?_, ?_, ?_, hprg, haddr⟩
  all_goals simp only [priEntry, putField_getLsbD, putBit_getLsbD, Nat.reduceLT, Nat.reduceLeDiff, Nat.reduceAdd,
    Nat.reduceEqDiff, and_self, and_false, false_and, if_true, if_false]

/-! ## A Page Request in the PRI queue -/

theorem priRefuse_eq_or_send (s : State) (r : PriReq) : priRefuse s r = s ∨ ∃ o, priRefuse s r = s.send o := by
  unfold priRefuse priRespond
  split
  · exact .inl rfl
  · exact .inr ⟨_, rfl⟩

theorem priRespond_iface (s : State) (r : PriReq) (p : Option (BitVec 20)) (c : PrgCode) (j : Sec) :
    (priRespond s r p c).iface j = s.iface j := by
  unfold priRespond
  split
  · rfl
  · exact State.send_iface _ _ _

/-- The PRI queue holds no request. -/
def priqEmpty (s : State) (i : Sec) : Bool := queueEmpty (s.iface i).priq.prod (s.iface i).priq.cons (priqLog2 s i)

/-- The entry that PROD of the PRI queue points at. -/
def priqEntry (s : State) (i : Sec) : DWord := s.entryAt (s.iface i).priq.base (priqLog2 s i) 4 (s.iface i).priq.prod

/-- PROD past a request. -/
def priqProdPast (s : State) (i : Sec) (p : BitVec 32) : BitVec 32 :=
  putField p 0 20 ((indexOf p (priqLog2 s i) + 1) % 2 ^ (priqLog2 s i + 1))

/-- The PRI queue past a request. -/
def priqPast (s : State) (i : Sec) : QueueRegs :=
  { (s.iface i).priq with prod := priqProdPast s i (s.iface i).priq.prod }

/-- A request raises the interrupt of its queue. -/
def priInterrupts (s : State) (r : PriReq) (empty : Bool) : Bool := if priLastOnly s r.sec then r.last else empty

section Request

variable {s u : State} {r : PriReq}

theorem priqPast_congr {i : Sec} (hiface : u.iface i = s.iface i) (hids : u.ids = s.ids) : priqPast u i = priqPast s i := by
  simp only [priqPast, priqProdPast, priqLog2, hiface, hids]

theorem priLastOnly_setPriqProd (s : State) (i : Sec) (f : BitVec 32 → BitVec 32) :
    priLastOnly (s.setPriqProd i f) i = priLastOnly s i := by
  simp [priLastOnly, State.setPriqProd]

theorem priAdvance_eq (s : State) (r : PriReq) (empty : Bool) :
    priAdvance s r empty =
      if priInterrupts s r empty then raiseIrq (s.setPriqProd r.sec (priqProdPast s r.sec)) r.sec .priq
      else s.setPriqProd r.sec (priqProdPast s r.sec) := by
  have hlast := priLastOnly_setPriqProd s r.sec (priqProdPast s r.sec)
  unfold priInterrupts
  rw [← hlast]
  rfl

theorem priAdvance_priq (s : State) (r : PriReq) (empty : Bool) :
    ((priAdvance s r empty).iface r.sec).priq = priqPast s r.sec := by
  have hset : ((s.setPriqProd r.sec (priqProdPast s r.sec)).iface r.sec).priq = priqPast s r.sec := by
    simp [State.setPriqProd, priqPast]
  have hirq := iface_raiseIrq (s.setPriqProd r.sec (priqProdPast s r.sec)) r.sec .priq
  rw [priAdvance_eq]
  split
  · exact (congrArg Iface.priq hirq).trans hset
  · exact hset

theorem setPriqProd_mem (s : State) (i : Sec) (f : BitVec 32 → BitVec 32) : (s.setPriqProd i f).mem = s.mem := by
  cases i <;> rfl

theorem byteAt_priAdvance (empty : Bool) (hmem : MemoryCanonical s) {pas : Pas} {a : DWord}
    (hp : OutsideMsi s r.sec .priq pas a) (hg : OutsideMsi s r.sec .gerror pas a) :
    (priAdvance s r empty).byteAt pas a = s.byteAt pas a := by
  have hset := takes_setPriqProd s r.sec (priqProdPast s r.sec)
  have hids : (s.setPriqProd r.sec (priqProdPast s r.sec)).ids = s.ids := by cases r.sec <;> rfl
  have hcfg : ∀ x, (x = .priq ∨ x = .gerror) →
      IrqSrc.cfg ((s.setPriqProd r.sec (priqProdPast s r.sec)).iface r.sec) x = IrqSrc.cfg (s.iface r.sec) x := by
    rintro x (rfl | rfl) <;> simp [State.setPriqProd, IrqSrc.cfg]
  rw [priAdvance_eq]
  refine (byteAt_ite_raiseIrq (priInterrupts s r empty) (hset.only.memory hmem)
    ((outsideMsi_congr (hcfg _ (.inl rfl)) hids pas a).mpr hp)
    ((outsideMsi_congr (hcfg _ (.inr rfl)) hids pas a).mpr hg)).trans ?_
  rw [State.byteAt, setPriqProd_mem, State.byteAt]

/-- The PRI queue of the stream's interface is on, without an unacknowledged abort. -/
def PriqOn (s : State) (i : Sec) : Prop :=
  i ≠ .s ∧ s.ids.priOf i = true ∧ s.priqEn i = true ∧ gerrActive (s.iface i) .priqAbt = false ∧ s.sfm = false

/-- The PRI queue takes no further request. -/
def PriqBlocked (s : State) (i : Sec) : Prop :=
  overflowed (s.iface i).priq = true ∨ queueFull (s.iface i).priq.prod (s.iface i).priq.cons (priqLog2 s i) = true ∨
    queueConsistent (s.iface i).priq.prod (s.iface i).priq.cons (priqLog2 s i) = false

theorem processPri_of_not_on (h : r.sec = .s ∨ s.ids.priOf r.sec = false ∨ s.priqEn r.sec = false ∨
    gerrActive (s.iface r.sec) .priqAbt = true ∨ s.sfm = true) : processPri s r = priRefuse s r := by
  rw [processPri, if_pos]
  simpa [or_assoc] using h

/-- The write of a request, which finds the UNKNOWN SubstreamID in a free value. -/
def storeRequest (s : State) (r : PriReq) : Option MemErr × State :=
  smmuWrite s.takeFree.2 (s.takeFree.2.ownAcc r.sec .priq) r.sec.pas (priqEntry s r.sec)
    (natBytes 16 (priEntry s.ids r s.takeFree.1).toNat) .priq

theorem not_refused (hon : PriqOn s r.sec) : ¬ (r.sec = .s || !s.ids.priOf r.sec || !s.priqEn r.sec ||
    gerrActive (s.iface r.sec) .priqAbt || s.sfm) = true := by
  obtain ⟨hsec, hpri, hen, hact, hsfm⟩ := hon
  simp [hsec, hpri, hen, hact, hsfm]

theorem processPri_of_open (hon : PriqOn s r.sec) (hopen : ¬ PriqBlocked s r.sec) :
    processPri s r = match storeRequest s r with
      | (some _, v) =>
        if v.impl.priqAbortSync then priRefuse (raiseGerror v r.sec .priqAbt) r
        else raiseGerror (priAdvance v r (priqEmpty s r.sec)) r.sec .priqAbt
      | (none, v) => priAdvance v r (priqEmpty s r.sec) := by
  have hfree : ¬ (overflowed (s.iface r.sec).priq ||
      (queueFull (s.iface r.sec).priq.prod (s.iface r.sec).priq.cons (priqLog2 s r.sec) ||
        !queueConsistent (s.iface r.sec).priq.prod (s.iface r.sec).priq.cons (priqLog2 s r.sec))) = true := by
    simpa [PriqBlocked] using hopen
  rw [processPri, if_neg (not_refused hon)]
  exact (if_neg hfree).trans rfl

theorem quiet_storeRequest {e : Option MemErr} (h : storeRequest s r = (e, u)) :
    Quiet s u ∧ u.impl = s.impl ∧ (MemoryCanonical s → MemoryCanonical u) := by
  have hfree : Quiet s s.takeFree.2 := ⟨⟨rfl, rfl, rfl⟩, rfl, rfl⟩
  have honly := (only_takeFree s).trans (only_snd (only_smmuWrite _ _ _ _ _ _ _) h)
  exact ⟨hfree.trans (quiet_of_smmuWrite h), impl_of_only_lookup honly, honly.memory⟩

/-- A request stored in its queue. -/
theorem written_request (hon : PriqOn s r.sec) (hopen : ¬ PriqBlocked s r.sec) (h : storeRequest s r = (none, u)) :
    u.mem = s.mem.store r.sec.pas (priqEntry s r.sec) (natBytes 16 (priEntry s.ids r s.takeFree.1).toNat) ∧
      processPri s r = priAdvance u r (priqEmpty s r.sec) ∧
      ((processPri s r).iface r.sec).priq = priqPast s r.sec ∧
      (priInterrupts s r (priqEmpty s r.sec) = false → (processPri s r).mem = u.mem) ∧
      (MemoryCanonical s → ∀ pas a, OutsideMsi s r.sec .priq pas a → OutsideMsi s r.sec .gerror pas a →
        (processPri s r).byteAt pas a = u.byteAt pas a) := by
  obtain ⟨hquiet, -, hcanon⟩ := quiet_storeRequest h
  have hiface := hquiet.iface r.sec
  have hprocess : processPri s r = priAdvance u r (priqEmpty s r.sec) := by rw [processPri_of_open hon hopen, h]
  rw [hprocess]
  refine ⟨(mem_of_smmuWrite h).trans (if_pos rfl), rfl, ?_, fun hirq => ?_, fun hmem pas a hp hg => ?_⟩
  · rw [priAdvance_priq, priqPast_congr hiface hquiet.ids]
  · have hlast : priLastOnly u r.sec = priLastOnly s r.sec := by rw [priLastOnly, hiface, priLastOnly]
    rw [priInterrupts, ← hlast] at hirq
    rw [priAdvance_eq, priInterrupts, hirq, if_neg (by decide), setPriqProd_mem]
  · exact byteAt_priAdvance _ (hcanon hmem) ((outsideMsi_of_quiet hquiet pas a).mpr hp)
      ((outsideMsi_of_quiet hquiet pas a).mpr hg)

/-- The write of a request aborted. -/
theorem aborted_request {e : MemErr} (hon : PriqOn s r.sec) (hopen : ¬ PriqBlocked s r.sec)
    (h : storeRequest s r = (some e, u)) :
    u.mem = s.mem ∧
      (gerrPresent s.ids r.sec .priqAbt = true → gerrActive ((processPri s r).iface r.sec) .priqAbt = true) ∧
      (s.impl.priqAbortSync = true → processPri s r = priRefuse (raiseGerror u r.sec .priqAbt) r ∧
        ((processPri s r).iface r.sec).priq = (s.iface r.sec).priq) ∧
      (s.impl.priqAbortSync = false →
        processPri s r = raiseGerror (priAdvance u r (priqEmpty s r.sec)) r.sec .priqAbt ∧
        ((processPri s r).iface r.sec).priq = priqPast s r.sec) := by
  obtain ⟨hquiet, himpl, -⟩ := quiet_storeRequest h
  have hiface := hquiet.iface r.sec
  have hraised (t : State) : ((raiseGerror t r.sec .priqAbt).iface r.sec).priq = (t.iface r.sec).priq := by
    rw [(onlyGerror_raiseGerror t r.sec .priqAbt).iface]
  have hprocess : processPri s r =
      if s.impl.priqAbortSync then priRefuse (raiseGerror u r.sec .priqAbt) r
      else raiseGerror (priAdvance u r (priqEmpty s r.sec)) r.sec .priqAbt := by
    rw [processPri_of_open hon hopen, h, ← himpl]
  have hids : (priAdvance u r (priqEmpty s r.sec)).ids = s.ids := by
    exact (congrArg State.ids (takes_priAdvance _ _ _).only.same : _ = u.sansClient.ids).trans hquiet.ids
  rw [hprocess]
  refine ⟨(mem_of_smmuWrite h).trans (if_neg (by simp)), fun hpresent => ?_, fun hsync => ?_, fun hasync => ?_⟩
  · split
    · rw [priRefuse, priRespond_iface]
      exact gerrActive_raiseGerror (by rwa [hquiet.ids])
    · exact gerrActive_raiseGerror (by rwa [hids])
  · rw [if_pos hsync, priRefuse, priRespond_iface, hraised, hiface]
    exact ⟨rfl, rfl⟩
  · rw [hasync, if_neg (by decide), hraised, priAdvance_priq, priqPast_congr hiface hquiet.ids]
    exact ⟨rfl, rfl⟩

/-! ## A Page Request that is discarded -/

/-- The queue's OVFLG toggled, unless an overflow is unacknowledged. -/
def priqOverflow (s : State) (i : Sec) : State :=
  if overflowed (s.iface i).priq then s else s.setPriqProd i (toggleBit · 31)

theorem processPri_of_blocked (hon : PriqOn s r.sec) (hblocked : PriqBlocked s r.sec) :
    processPri s r =
      if r.last && priLastOnly (priOverflowResponse (priqOverflow s r.sec) r) r.sec then
        raiseIrq (priOverflowResponse (priqOverflow s r.sec) r) r.sec .priq
      else priOverflowResponse (priqOverflow s r.sec) r := by
  have hfull : (overflowed (s.iface r.sec).priq ||
      (queueFull (s.iface r.sec).priq.prod (s.iface r.sec).priq.cons (priqLog2 s r.sec) ||
        !queueConsistent (s.iface r.sec).priq.prod (s.iface r.sec).priq.cons (priqLog2 s r.sec))) = true := by
    simpa [PriqBlocked] using hblocked
  rw [processPri, if_neg (not_refused hon)]
  exact (if_pos hfull).trans rfl

theorem priqOverflow_priq (s : State) (i : Sec) :
    ((priqOverflow s i).iface i).priq =
      if overflowed (s.iface i).priq then (s.iface i).priq
      else { (s.iface i).priq with prod := toggleBit (s.iface i).priq.prod 31 } := by
  unfold priqOverflow
  split
  · rfl
  · rw [State.setPriqProd, State.setIface_iface_same]

end Request

/-! ## What lookups and events of a stream leave in the output queues -/

/-- From `s` to `t` no PRI queue changes, and no Event queue but that of the interface of `i`. -/
structure LeavesQueues (i : Sec) (s t : State) : Prop where
  priq : ∀ j, (t.iface j).priq = (s.iface j).priq
  eventq : ∀ j, j ≠ i → (t.iface j).eventq = (s.iface j).eventq

section LeavesQueues

variable {i : Sec} {s t u : State}

theorem LeavesQueues.refl (i : Sec) (s : State) : LeavesQueues i s s := ⟨fun _ => rfl, fun _ _ => rfl⟩

theorem LeavesQueues.trans (h : LeavesQueues i s t) (k : LeavesQueues i t u) : LeavesQueues i s u :=
  ⟨fun j => (k.priq j).trans (h.priq j), fun j hj => (k.eventq j hj).trans (h.eventq j hj)⟩

theorem LeavesQueues.ite {c : Prop} [Decidable c] (h : LeavesQueues i s t) (k : LeavesQueues i s u) :
    LeavesQueues i s (if c then t else u) := by
  split
  · exact h
  · exact k

theorem LeavesQueues.of_frame (h : EventFrame i s t) : LeavesQueues i s t where
  priq j := by
    by_cases hj : j = i
    · rw [hj, h.iface]
    · rw [h.others j hj]
  eventq j hj := by rw [h.others j hj]

theorem iface_sansLookup (s : State) (j : Sec) : s.sansLookup.iface j = (s.iface j).sansLookup := by cases j <;> rfl

theorem LeavesQueues.of_lookup (i : Sec) (h : Only State.sansLookup s t) : LeavesQueues i s t := by
  have hiface (j : Sec) : (t.iface j).sansLookup = (s.iface j).sansLookup := by
    rw [← iface_sansLookup, ← iface_sansLookup, h.same]
  exact ⟨fun j => (congrArg Iface.priq (hiface j) : (t.iface j).sansLookup.priq = _),
    fun j _ => (congrArg Iface.eventq (hiface j) : (t.iface j).sansLookup.eventq = _)⟩

theorem LeavesQueues.of_run {α : Type} (i : Sec) {x : X α} (hx : XOnly State.sansLookup x) {r : Except Stop α}
    (h : X.run x s = (r, t)) : LeavesQueues i s t := .of_lookup i (only_run hx h)

theorem leavesQueues_emitEvent (s : State) {ev : EvTxn} (e : Event) (h : ev.sec = i) : LeavesQueues i s (emitEvent s ev e) :=
  h ▸ .of_frame (eventFrame_emitEvent s ev e)

theorem leavesQueues_emitFor (s : State) {ev : EvTxn} (e : Event) (h : ev.sec = i) : LeavesQueues i s (emitFor s ev e) :=
  .ite (.refl _ s) (leavesQueues_emitEvent s e h)

theorem xonly_fetchSteAndVms (c : Ctx) (b : Ste → Bool) : XOnly State.sansLookup (do
    let x ← fetchValidSte c
    if b x then discard (fetchVms c x)
    pure x : X Ste) := by
  refine xonly_bind (xonly_fetchValidSte c) fun x => ?_
  dsimp only
  split
  · exact xonly_bind (xonly_discard (xonly_fetchVms c x)) fun _ => xonly_pure x
  · exact xonly_pure x

theorem leavesQueues_priPpar (s : State) (r : PriReq) : LeavesQueues r.sec s (priPpar s r).2 := by
  unfold priPpar
  split
  · exact .refl _ s
  · dsimp only
    split
    · rename_i hrun
      exact .of_run _ (xonly_fetchSteAndVms _ _) hrun
    · rename_i hrun
      exact (LeavesQueues.of_run r.sec (xonly_fetchSteAndVms _ _) hrun).trans
        (.ite (leavesQueues_emitFor _ _ rfl) (.refl _ _))
    · rename_i hrun
      exact .of_run _ (xonly_fetchSteAndVms _ _) hrun

theorem leavesQueues_priRespond (s : State) (r : PriReq) (p : Option (BitVec 20)) (c : PrgCode) :
    LeavesQueues r.sec s (priRespond s r p c) := .of_lookup _ (only_priRespond s r p c)

theorem leavesQueues_priOverflowResponse (s : State) (r : PriReq) : LeavesQueues r.sec s (priOverflowResponse s r) := by
  have hppar := leavesQueues_priPpar s r
  unfold priOverflowResponse
  refine .ite (.refl _ s) ?_
  split
  · refine .ite ?_ (leavesQueues_priRespond _ _ _ _)
    split
    all_goals
      rename_i hp
      rw [hp] at hppar
      exact hppar.trans (leavesQueues_priRespond _ _ _ _)
  · refine .ite (leavesQueues_priRespond _ _ _ _) ?_
    split
    all_goals
      rename_i hp
      rw [hp] at hppar
      exact hppar.trans (leavesQueues_priRespond _ _ _ _)

end LeavesQueues

/-- The queue after a request that it does not take. -/
theorem discarded_request {s : State} {r : PriReq} (hon : PriqOn s r.sec) (hblocked : PriqBlocked s r.sec) :
    ((processPri s r).iface r.sec).priq =
        (if overflowed (s.iface r.sec).priq then (s.iface r.sec).priq
         else { (s.iface r.sec).priq with prod := toggleBit (s.iface r.sec).priq.prod 31 }) ∧
      (r.last = false → processPri s r = priqOverflow s r.sec) := by
  have hresponse := (leavesQueues_priOverflowResponse (priqOverflow s r.sec) r).priq r.sec
  rw [processPri_of_blocked hon hblocked, ← priqOverflow_priq, ← hresponse]
  refine ⟨?_, fun hlast => ?_⟩
  · split
    · rw [iface_raiseIrq _ r.sec .priq]
    · rfl
  · simp [hlast, priOverflowResponse]

/-- Settles O57: the entry's fields, a request by the state of its queue and the fate of its write, a record likewise. -/
theorem outputQueueRecording : Obligations.OutputQueueRecording := by
  unfold Obligations.OutputQueueRecording
  refine ⟨priEntry_fields, fun s r q n hq hn => ⟨fun hoff => ⟨processPri_of_not_on hoff, priRefuse_eq_or_send s r⟩,
    fun hsec hpri hen hact hsfm => ?_⟩, fun s u i rec q n hq hn => ?_⟩
  · have hon : PriqOn s r.sec := ⟨hsec, hpri, hen, hact, hsfm⟩
    subst hq hn
    refine ⟨fun hover hfull hcons x w v hfree e hwrite => ?_, fun hblocked => ?_⟩
    · cases hfree
      have hopen : ¬ PriqBlocked s r.sec := by simp [PriqBlocked, hover, priqLog2, hfull, hcons]
      cases e with
      | none => exact ⟨fun _ => written_request hon hopen hwrite, fun hne => absurd rfl hne⟩
      | some x => exact ⟨fun he => (nomatch he), fun _ => aborted_request hon hopen hwrite⟩
    · exact discarded_request hon hblocked
  · subst hq hn
    refine ⟨fun hw => ⟨fun hwrite => ?_, fun e hwrite => aborted_record hw hwrite⟩, discarded_record⟩
    obtain ⟨hmem, heventq, hquiet, hbytes⟩ := written_record hw hwrite
    exact ⟨hmem, by rw [heventq]; rfl, recordEvent_of_written hw hwrite, hquiet, hbytes⟩

end Sys2Proof.Proofs
end

section
/-! O20: the Event queues of the Security states are independent (60_exceptions.md R2165). -/

namespace Sys2Proof.Proofs

open Sys2Proof.Machine Sys2Proof.Safety Sys2Proof.Laws

/-! ## An event in its own queue -/

/-- An event whose record its queue takes. -/
theorem emitEvent_written {s u v : State} {ev : EvTxn} {e : Event} {rec : BitVec 256} (hrec : s.recordOf ev e = (rec, u))
    (hw : u.eventqWritable ev.sec = true) (h : storeRecord u ev.sec rec = (none, v)) :
    ((emitEvent s ev e).iface ev.sec).eventq = eventqPast s ev.sec := by
  have hemit : emitEvent s ev e = recordEvent u ev.sec rec := by rw [emitEvent, hrec]
  obtain ⟨-, heventq, -⟩ := written_record hw h
  rw [hemit, heventq]
  cases hrec
  rfl

/-! ## Transactions -/

section Transactions

variable {i : Sec}

theorem leavesQueues_send (i : Sec) (s : State) (o : Output) : LeavesQueues i s (s.send o) := .of_lookup i (only_send s o)

theorem leavesQueues_respond (i : Sec) (s : State) (n : Nat) (r : Response) : LeavesQueues i s (s.respond n r) :=
  leavesQueues_send i s _

/-- The record of a stalled access, and the access added to the stalled ones. -/
theorem eventFrame_stallAccess (s : State) (w : Stalled) (ev : EvTxn) (f : TrfInfo) :
    EventFrame w.sec s (stallAccess s w ev f) := by
  unfold stallAccess
  dsimp only
  split
  · have hrecord : EventFrame w.sec s (s.recordOf ev (.trf f (some (freshStag s)))).2 := .of_iface fun _ => rfl
    have hwrite := hrecord.trans (eventFrame_writeRecord w.sec _ (s.recordOf ev (.trf f (some (freshStag s)))).1)
    exact hwrite.trans (.of_iface fun j => by cases j <;> rfl)
  · exact .of_iface fun j => by cases j <;> rfl

theorem leavesQueues_endStopped (s : State) {t : Txn} {ev : EvTxn} (w : Stop) (ht : t.sec = i) (hev : ev.sec = i) :
    LeavesQueues i s (endStopped s t ev w) := by
  unfold endStopped
  refine .ite (leavesQueues_respond _ _ _ _) (.ite (leavesQueues_respond _ _ _ _) ?_)
  split
  · exact leavesQueues_respond _ _ _ _
  · exact (leavesQueues_emitFor s _ hev).trans (leavesQueues_respond _ _ _ _)
  · refine .ite (.of_frame (ht ▸ eventFrame_stallAccess s (.txn t) ev _)) ?_
    exact (LeavesQueues.ite (leavesQueues_emitEvent s _ hev) (.refl i s)).trans (leavesQueues_respond _ _ _ _)

theorem leavesQueues_outputTxn (i : Sec) (s : State) (t : Txn) (q : OutReq) : LeavesQueues i s (outputTxn s t q) :=
  .of_lookup i (only_outputTxn s t q)

theorem leavesQueues_unsupported {s u : State} {t : Txn} (h : unsupported s t = some u) (ht : t.sec = i) :
    LeavesQueues i s u := by
  unfold unsupported at h
  split at h
  · cases h
    exact leavesQueues_respond _ _ _ _
  · split at h
    · cases h
      exact leavesQueues_endStopped s _ ht ht
    · cases h

theorem leavesQueues_processOt (s : State) {t : Txn} (ht : t.sec = i) : LeavesQueues i s (processOt s t) := by
  unfold processOt
  split
  · rename_i hun
    exact leavesQueues_unsupported hun ht
  · refine .ite (.of_lookup i (only_bypassGlobal s t)) ?_
    dsimp only
    split
    · rename_i hconfig
      exact (LeavesQueues.of_run i (xonly_otConfig _) hconfig).trans (leavesQueues_endStopped _ _ ht ht)
    · rename_i hconfig
      refine (LeavesQueues.of_run i (xonly_otConfig _) hconfig).trans ?_
      split
      · rename_i hpath
        exact (LeavesQueues.of_run i (xonly_otPath _ _ _ _ _) hpath).trans (leavesQueues_endStopped _ _ ht ht)
      · rename_i hpath
        exact (LeavesQueues.of_run i (xonly_otPath _ _ _ _ _) hpath).trans (leavesQueues_outputTxn _ _ _ _)

theorem leavesQueues_endTt (s : State) {t : Txn} {ev : EvTxn} (w : Stop) (ht : t.sec = i) (hev : ev.sec = i) :
    LeavesQueues i s (endTt s t ev w) := by
  unfold endTt
  split
  · refine .ite (leavesQueues_endStopped s _ ht hev) ?_
    exact (LeavesQueues.ite (leavesQueues_emitEvent s _ hev) (.refl i s)).trans (leavesQueues_endStopped _ _ ht hev)
  · exact leavesQueues_endStopped s _ ht hev
  · exact leavesQueues_endStopped s _ ht hev

theorem leavesQueues_unsupportedTt {s u : State} {t : Txn} {ev : EvTxn} (h : unsupportedTt s t ev = some u) (ht : t.sec = i)
    (hev : ev.sec = i) : LeavesQueues i s u := by
  unfold unsupportedTt at h
  split at h
  · cases h
    exact leavesQueues_endStopped s _ ht hev
  · split at h
    · cases h
      exact leavesQueues_respond _ _ _ _
    · cases h

/-- The Security state of a Translated transaction's events is that of its stream. -/
theorem ttEv_sec (t : Txn) (b : Bool) :
    (if b then t.ev .none else { t.ev .none with ssid := none, ind := false, pnu := false }).sec = t.sec := by
  cases b <;> rfl

theorem leavesQueues_processTt (s : State) {t : Txn} (ht : t.sec = i) : LeavesQueues i s (processTt s t) := by
  have hev := (ttEv_sec t (s.ids.pasidTt && t.ssid.isSome)).trans ht
  unfold processTt
  dsimp only
  split
  · rename_i hun
    exact leavesQueues_unsupportedTt hun ht hev
  refine .ite (leavesQueues_endStopped s _ ht hev) (.ite ?_ ?_)
  · split
    · exact leavesQueues_endStopped s _ ht hev
    · exact (LeavesQueues.of_lookup i ((only_gbpMpam s t.sec).trans (only_noteMpam _ _))).trans (leavesQueues_outputTxn _ _ _ _)
  · split
    · rename_i hconfig
      exact (LeavesQueues.of_run i (xonly_otConfig _) hconfig).trans (leavesQueues_endTt _ _ ht hev)
    · rename_i hconfig
      refine (LeavesQueues.of_run i (xonly_otConfig _) hconfig).trans (.ite (leavesQueues_endStopped _ _ ht hev) ?_)
      split
      · rename_i hpath
        refine (LeavesQueues.of_run i (xonly_ttPath _ _ _ _ _ _) hpath).trans (leavesQueues_endTt _ _ ht ?_)
        simpa [Txn.ev, apply_ite Txn.sec] using ht
      · rename_i hpath
        exact (LeavesQueues.of_run i (xonly_ttPath _ _ _ _ _ _) hpath).trans (leavesQueues_outputTxn _ _ _ _)

theorem leavesQueues_processTxn (s : State) {t : Txn} (ht : t.sec = i) : LeavesQueues i s (processTxn s t) :=
  .ite (leavesQueues_respond _ _ _ _) (.ite (leavesQueues_processTt s ht) (leavesQueues_processOt s ht))

theorem leavesQueues_noteRequest (i : Sec) (s : State) (src : PmuSrc) (m : Option Mpam) (l : List Nat) :
    LeavesQueues i s (noteRequest s src m l) := .of_lookup i (.of_same rfl rfl rfl rfl rfl rfl)

theorem leavesQueues_takeTxn (s : State) (t : Txn) : LeavesQueues t.sec s (takeTxn s t) :=
  (leavesQueues_processTxn s (t := t.arrive s.ids) rfl).trans (leavesQueues_noteRequest _ _ _ _ _)

end Transactions

/-! ## Translation Requests -/

section TranslationRequests

variable {i : Sec}

theorem leavesQueues_denyTr (s : State) {r : AtsReq} (b : Bool) (hr : r.sec = i) : LeavesQueues i s (denyTr s r b) :=
  (LeavesQueues.ite (leavesQueues_emitEvent s _ hr) (.refl i s)).trans (leavesQueues_send _ _ _)

theorem leavesQueues_abortTr (s : State) (r : AtsReq) {ev : EvTxn} (e : Option Event) (hev : ev.sec = i) :
    LeavesQueues i s (abortTr s r ev e) := by
  unfold abortTr
  cases e with
  | none => exact leavesQueues_send i s _
  | some e => exact (LeavesQueues.ite (leavesQueues_emitFor s e hev) (.refl i s)).trans (leavesQueues_send _ _ _)

theorem leavesQueues_emptyTr (i : Sec) (s : State) (r : AtsReq) (e : Nat) (b : Bool) : LeavesQueues i s (emptyTr s r e b) :=
  leavesQueues_send i s _

/-- A request that is granted changes what a lookup changes, and is answered. -/
theorem leavesQueues_completeTr (i : Sec) (s : State) (r : AtsReq) (c : Ctx) (x : Ste) (eats : Nat) (ov : Overrides)
    (p : Path) : LeavesQueues i s (completeTr s r c x eats ov p) := by
  unfold completeTr
  dsimp only
  split
  · exact leavesQueues_emptyTr _ _ _ _ _
  · generalize hq : (if eats = 2 then ((some (trGrants s x r p).2.1, s) : Option Bool × State)
      else trGpc s r p.mpam p.pas p.addr (trGrants s x r p).2.1) = q
    have hgpc : LeavesQueues i s q.2 := by
      rw [← hq]
      split
      · exact .refl i s
      · exact .of_lookup i (only_trGpc _ _ _ _ _ _)
    refine .trans hgpc ?_
    split
    · exact leavesQueues_send _ _ _
    · split
      · exact leavesQueues_emptyTr _ _ _ _ _
      · dsimp only
        split
        · exact (LeavesQueues.of_lookup i (xonly_dptInsert _ _ _ _ _ _ _)).trans (leavesQueues_send _ _ _)
        · exact leavesQueues_send _ _ _

theorem leavesQueues_trAsSeen (s : State) {r : AtsReq} (hr : r.sec = i) : LeavesQueues i s (trAsSeen s r) := by
  unfold trAsSeen
  refine .ite (leavesQueues_denyTr s _ hr) ((LeavesQueues.of_lookup i (only_takeFree s)).trans ?_)
  generalize s.takeFree = p
  obtain ⟨u, s⟩ := p
  refine .ite (leavesQueues_abortTr s r none hr) ?_
  split
  · rename_i hconfig
    exact (LeavesQueues.of_run i (xonly_trConfig _) hconfig).trans (leavesQueues_abortTr _ _ _ hr)
  · rename_i hconfig
    exact (LeavesQueues.of_run i (xonly_trConfig _) hconfig).trans (leavesQueues_abortTr _ _ _ hr)
  · rename_i hconfig
    refine (LeavesQueues.of_run i (xonly_trConfig _) hconfig).trans
      (.ite (leavesQueues_denyTr _ _ hr) (.ite (leavesQueues_denyTr _ _ hr) ?_))
    dsimp only
    split
    · rename_i hpath
      exact (LeavesQueues.of_run i (xonly_pathThrough _ _) hpath).trans (leavesQueues_emptyTr _ _ _ _ _)
    · rename_i hpath
      exact (LeavesQueues.of_run i (xonly_pathThrough _ _) hpath).trans (leavesQueues_abortTr _ _ _ hr)
    · rename_i hpath
      exact (LeavesQueues.of_run i (xonly_pathThrough _ _) hpath).trans (leavesQueues_abortTr _ _ _ hr)
    · rename_i hpath
      exact (LeavesQueues.of_run i (xonly_pathThrough _ _) hpath).trans (leavesQueues_completeTr _ _ _ _ _ _ _ _)

theorem leavesQueues_takeTr (s : State) (r : AtsReq) : LeavesQueues r.sec s (takeTr s r) :=
  (LeavesQueues.ite (leavesQueues_send _ s _) (leavesQueues_trAsSeen s (r := r.arrive s.ids) rfl)).trans
    (leavesQueues_noteRequest _ _ _ _ _)

end TranslationRequests

/-! ## Page Requests and hints -/

/-- From `s` to `t` no Event queue but that of the interface of `i` changes. -/
def LeavesEventqs (i : Sec) (s t : State) : Prop := ∀ j, j ≠ i → (t.iface j).eventq = (s.iface j).eventq

section PageRequests

variable {i : Sec} {s t u : State}

theorem LeavesEventqs.trans (h : LeavesEventqs i s t) (k : LeavesEventqs i t u) : LeavesEventqs i s u :=
  fun j hj => (k j hj).trans (h j hj)

theorem LeavesEventqs.ite {c : Prop} [Decidable c] (h : LeavesEventqs i s t) (k : LeavesEventqs i s u) :
    LeavesEventqs i s (if c then t else u) := by
  split
  · exact h
  · exact k

theorem LeavesEventqs.of_lookup (i : Sec) (h : Only State.sansLookup s t) : LeavesEventqs i s t :=
  (LeavesQueues.of_lookup i h).eventq

theorem leavesEventqs_setPriqProd (s : State) (i : Sec) (f : BitVec 32 → BitVec 32) :
    LeavesEventqs i s (s.setPriqProd i f) := fun _ hj => by rw [State.setPriqProd, State.setIface_iface_other _ _ hj]

theorem leavesEventqs_raiseIrq (s : State) (i : Sec) (x : IrqSrc) : LeavesEventqs i s (raiseIrq s i x) :=
  .of_lookup i (only_raiseIrq s i x)

theorem leavesEventqs_priAdvance (s : State) (r : PriReq) (b : Bool) : LeavesEventqs r.sec s (priAdvance s r b) := by
  have hset := leavesEventqs_setPriqProd s r.sec (priqProdPast s r.sec)
  rw [priAdvance_eq]
  exact .ite (hset.trans (leavesEventqs_raiseIrq _ _ _)) hset

theorem leavesEventqs_priRefuse (s : State) (r : PriReq) : LeavesEventqs r.sec s (priRefuse s r) :=
  .of_lookup _ (only_priRespond s r _ _)

theorem leavesEventqs_processPri (s : State) (r : PriReq) : LeavesEventqs r.sec s (processPri s r) := by
  by_cases hon : PriqOn s r.sec
  · by_cases hblocked : PriqBlocked s r.sec
    · have hover : LeavesEventqs r.sec s (priqOverflow s r.sec) :=
        .ite (fun _ _ => rfl) (leavesEventqs_setPriqProd s r.sec _)
      have hresponse := hover.trans (leavesQueues_priOverflowResponse (priqOverflow s r.sec) r).eventq
      rw [processPri_of_blocked hon hblocked]
      exact .ite (hresponse.trans (leavesEventqs_raiseIrq _ _ _)) hresponse
    · rw [processPri_of_open hon hblocked]
      split
      all_goals
        rename_i u hwrite
        have hu : LeavesEventqs r.sec s u := fun j _ => by rw [(quiet_storeRequest hwrite).1.iface j]
        refine hu.trans ?_
      · exact .ite ((LeavesEventqs.of_lookup _ (only_raiseGerror _ _ _)).trans (leavesEventqs_priRefuse _ _))
          ((leavesEventqs_priAdvance _ _ _).trans (.of_lookup _ (only_raiseGerror _ _ _)))
      · exact leavesEventqs_priAdvance _ _ _
  · rw [processPri_of_not_on]
    · exact leavesEventqs_priRefuse s r
    · by_contra hoff
      simp only [not_or, Bool.not_eq_false, Bool.not_eq_true] at hoff
      exact hon hoff

theorem leavesQueues_processPageHint (s : State) (r : PageHint) : LeavesQueues r.sec s (processPageHint s r) :=
  .ite (.refl _ s) (leavesQueues_emitEvent s _ rfl)

end PageRequests

/-! ## Counting -/

section Counting

variable {i : Sec} {s : State}

theorem LeavesQueues.of_iface {t : State} (h : ∀ j, t.iface j = s.iface j) : LeavesQueues i s t := .of_frame (.of_iface h)

theorem LeavesQueues.foldl {α : Type} (g : State → α → State) (hg : ∀ s a, LeavesQueues i s (g s a)) (l : List α) (s : State) :
    LeavesQueues i s (l.foldl g s) := by
  induction l generalizing s with
  | nil => exact .refl i s
  | cons a l ih => exact (hg s a).trans (ih (g s a))

theorem leavesQueues_setPmcg (i : Sec) (s : State) (n : Nat) (f : Pmcg → Pmcg) : LeavesQueues i s (s.setPmcg n f) :=
  .of_iface fun j => by cases j <;> rfl

theorem leavesQueues_pmcgInterrupt (i : Sec) (s : State) (n : Nat) : LeavesQueues i s (pmcgInterrupt s n) := by
  unfold pmcgInterrupt
  split
  · exact .refl i s
  · rename_i p hp
    refine .ite (.refl i s) ?_
    dsimp only
    have hwire : LeavesQueues i s (if s.impl.wiredInterrupts || !p.msi then s.send (.wire (.pmcg n)) else s) :=
      .of_lookup i (only_ite_send _ _ _)
    generalize (if s.impl.wiredInterrupts || !p.msi then s.send (.wire (.pmcg n)) else s) = u at hwire ⊢
    refine hwire.trans (.ite ?_ (.refl i _))
    split
    · rename_i hmsi
      exact .of_lookup i (only_snd (only_sendMsi _ _ _ _ _ _ _ _) hmsi)
    · rename_i hmsi
      exact (LeavesQueues.of_lookup i (only_snd (only_sendMsi _ _ _ _ _ _ _ _) hmsi)).trans
        (.ite (.refl i _) (leavesQueues_setPmcg _ _ _ _))

theorem leavesQueues_overflowEffects (i : Sec) (s : State) (n k : Nat) : LeavesQueues i s (overflowEffects s n k) := by
  unfold overflowEffects
  split
  · exact .refl i s
  · rename_i p hp
    have hcapture : LeavesQueues i s (if (p.counter k).evtyper.getLsbD 31 then s.setPmcg n Pmcg.doCapture else s) :=
      .ite (leavesQueues_setPmcg _ _ _ _) (.refl i s)
    exact hcapture.trans (.ite (leavesQueues_pmcgInterrupt _ _ _) (.refl i _))

theorem leavesQueues_countOne (i : Sec) (s : State) (n k : Nat) : LeavesQueues i s (countOne s n k) := by
  unfold countOne
  split
  · exact .refl i s
  · refine (leavesQueues_setPmcg i s n _).trans (.ite ?_ (.refl i _))
    exact (leavesQueues_setPmcg _ _ _ _).trans (leavesQueues_overflowEffects _ _ _ _)

theorem leavesQueues_countGroup (i : Sec) (s : State) (o : PmuOcc) (n : Nat) : LeavesQueues i s (countGroup s o n) := by
  unfold countGroup
  split
  · exact .refl i s
  · exact .foldl _ (fun _ _ => leavesQueues_countOne _ _ _ _) _ _

theorem leavesQueues_countLog (i : Sec) (s : State) : LeavesQueues i s (countLog s) := by
  have hcleared : LeavesQueues i s { s with pmuLog := [] } := .of_iface fun j => by cases j <;> rfl
  have hocc (t : State) (o : PmuOcc) : LeavesQueues i t (countOcc t o) :=
    .foldl _ (fun _ _ => leavesQueues_countGroup _ _ _ _) _ _
  exact hcleared.trans (.foldl _ hocc _ _)

end Counting

/-- Settles O20: an event is recorded in the queue of its own Security state, and everything else that a stream's input does
leaves the Event queues alone. -/
theorem eventQueuesAreIndependent : Obligations.EventQueuesAreIndependent := by
  unfold Obligations.EventQueuesAreIndependent
  refine ⟨fun s ev e => ⟨(eventFrame_emitEvent s ev e).others, fun r u v hrec hw hwrite => ?_⟩,
    fun s w ev f => (eventFrame_stallAccess s w ev f).others, fun s t x rest j hnext hclient hstep => ?_⟩
  · refine emitEvent_written (v := v) hrec hw ?_
    cases hrec
    exact hwrite
  · have htaken : ∃ i, j ≠ i ∧ LeavesEventqs i (taking s rest) (takeInput (taking s rest) x) := by
      obtain ⟨q, rfl, hq⟩ | ⟨q, rfl, hq⟩ | ⟨q, rfl, hq⟩ | ⟨q, rfl, hq⟩ := hclient
      · exact ⟨q.sec, hq.symm, (leavesQueues_takeTxn _ q).eventq⟩
      · exact ⟨q.sec, hq.symm, (leavesQueues_takeTr _ q).eventq⟩
      · exact ⟨q.sec, hq.symm, leavesEventqs_processPri _ q⟩
      · exact ⟨q.sec, hq.symm, (leavesQueues_processPageHint _ q).eventq⟩
    rw [step_of_nextInput hnext] at hstep
    obtain rfl : countLog (takeInput (taking s rest) x) = t := by simpa [counted] using hstep
    obtain ⟨i, hj, hleaves⟩ := htaken
    have hcounted := hleaves.trans (leavesQueues_countLog i _).eventq
    refine (hcounted j hj).trans ?_
    cases j <;> rfl

end Sys2Proof.Proofs
end

section
/-! O46: acknowledging an error restarts its queue (60_exceptions.md R2172; 27_queues.md R723, R742). -/

namespace Sys2Proof.Proofs

open Sys2Proof.Machine Sys2Proof.Safety Sys2Proof.Laws

/-! ## A write of 32 bits -/

theorem reaches_own_pas (i : Sec) : reaches i i.pas = true := by cases i <;> rfl

/-- An access of 32 bits to a register's low half, from the PA space of its interface. -/
theorem processRegWrite_word {s : State} {off w : Nat} {x : RegTarget} (hplace : regAt s.ids off = some ⟨off, w, x⟩)
    (halign : off % 4 = 0) (v : DWord) :
    processRegWrite s x.sec.pas off 4 v = writeTarget s x (mergeBits (targetValue s x) v (maskAt 64 0 32)) := by
  have hlegal : accessLegal off 4 w = true := by simp [accessLegal, halign]
  rw [processRegWrite, hplace]
  dsimp only
  rw [if_neg (by simp), writeAccess, hplace]
  dsimp only
  rw [if_pos (by rw [reaches_own_pas, hlegal]; rfl), writePart, if_neg (by decide), if_pos rfl]

/-! ## GERRORN -/

theorem mem_foldl_or {α : Type} (l : List α) (g : α → DWord) {m : DWord} {n : Nat}
    (h : m.getLsbD n = true ∨ ∃ e ∈ l, (g e).getLsbD n = true) : (l.foldl (fun m e => m ||| g e) m).getLsbD n = true := by
  induction l generalizing m with
  | nil => simpa using h
  | cons e l ih =>
    refine ih ?_
    rw [BitVec.getLsbD_or, Bool.or_eq_true]
    obtain h | ⟨x, hx, h⟩ := h
    · exact .inl (.inl h)
    · obtain rfl | hx := List.mem_cons.mp hx
      · exact .inl (.inr h)
      · exact .inr ⟨x, hx, h⟩

theorem gerrMask_of_present {d : Ids} {i : Sec} {e : GErr} (h : gerrPresent d i e = true) :
    (gerrMask d i).getLsbD (gerrBit e) = true := by
  refine mem_foldl_or _ _ (.inr ⟨e, by cases e <;> simp, ?_⟩)
  have hbit := gerrBit_lt e
  rw [maskIf_getLsbD, h, Bool.true_and, decide_eq_true_eq]
  omega

/-- Where only flags that are present are one, writing GERROR to the flags of GERRORN makes the two equal. -/
theorem mergeBits_gerrMask {s : State} (herrors : ErrorsPresent s) (i : Sec) (v : DWord)
    (hv : ∀ n < 32, v.getLsbD n = (s.iface i).gerror.getLsbD n) :
    (mergeBits ((s.iface i).gerrorn.setWidth 64) v (gerrMask s.ids i)).setWidth 32 = (s.iface i).gerror := by
  refine BitVec.eq_of_getLsbD_eq fun n hn => ?_
  rw [BitVec.getLsbD_setWidth, decide_eq_true hn, Bool.true_and, mergeBits_getLsbD]
  split
  · exact hv n hn
  · rename_i hmask
    have habsent : ¬ ((s.iface i).gerror.getLsbD n = true ∨ (s.iface i).gerrorn.getLsbD n = true) := fun hset => by
      obtain ⟨e, rfl, hpresent⟩ := herrors i n hset
      exact hmask (gerrMask_of_present hpresent)
    obtain ⟨herr, hack⟩ := not_or.mp habsent
    rw [BitVec.getLsbD_setWidth, (Bool.not_eq_true _).mp hack, (Bool.not_eq_true _).mp herr, Bool.and_false]

theorem writeReg_gerrorn (s : State) (i : Sec) (v : DWord) :
    writeReg s i .gerrorn v = s.setIface i fun r =>
      { r with gerrorn := (mergeBits ((s.iface i).gerrorn.setWidth 64) v (gerrMask s.ids i)).setWidth 32 } := rfl

/-- Every error of an interface acknowledged. -/
theorem acknowledge_gerror {s : State} {i : Sec} {off : Nat} (herrors : ErrorsPresent s)
    (hplace : regAt s.ids off = some ⟨off, 4, .iface i .gerrorn⟩) (halign : off % 4 = 0) :
    processRegWrite s i.pas off 4 ((s.iface i).gerror.setWidth 64) =
      s.setIface i fun r => { r with gerrorn := (s.iface i).gerror } := by
  refine (processRegWrite_word hplace halign _).trans ?_
  rw [writeTarget, writeReg_gerrorn, mergeBits_gerrMask herrors]
  intro n hn
  rw [mergeBits_getLsbD, maskAt_getLsbD, if_pos (by simp; omega), BitVec.getLsbD_setWidth, decide_eq_true (by omega),
    Bool.true_and]

theorem canProgress_main_of_acknowledged {s : State} {i : Sec} (hsfm : s.sfm = false) (hpresent : s.ids.present i = true)
    (hen : s.cmdqEn i = true) (hcommand : s.hasCommand (s.iface i).cmdq = true) :
    (s.setIface i fun r => { r with gerrorn := (s.iface i).gerror }).canProgress (.main i) = true := by
  have hcmd : (s.setIface i fun r => { r with gerrorn := (s.iface i).gerror }).hasCommand (s.iface i).cmdq = true := by
    simpa [State.hasCommand, cmdqLog2] using hcommand
  have hack : (s.iface i).cr0ack.getLsbD 3 = true := hen
  simp [State.canProgress, State.cmdqEn, gerrActive, hsfm, hpresent, hack, hcmd]

/-! ## PROD of an ECMDQ or DCMDQ -/

/-- The bits of a merge of 32-bit writes. -/
theorem merged_word_getLsbD {old v mask : DWord} {n : Nat} (hn : n < 32) :
    (mergeBits old (mergeBits old v (maskAt 64 0 32)) mask).getLsbD n = if mask.getLsbD n then v.getLsbD n else old.getLsbD n := by
  have hlow : (maskAt 64 0 32).getLsbD n = true := by
    rw [maskAt_getLsbD, decide_eq_true_eq]
    omega
  rw [mergeBits_getLsbD, mergeBits_getLsbD, if_pos hlow]

/-- A write that differs from the register in one bit, which it may change. -/
theorem merged_toggle {p : BitVec 32} {mask : DWord} {k : Nat} (hk : mask.getLsbD k = true) :
    (mergeBits (p.setWidth 64) (mergeBits (p.setWidth 64) ((toggleBit p k).setWidth 64) (maskAt 64 0 32)) mask).setWidth 32 =
      toggleBit p k := by
  refine BitVec.eq_of_getLsbD_eq fun n hn => ?_
  rw [BitVec.getLsbD_setWidth, decide_eq_true hn, Bool.true_and, merged_word_getLsbD hn]
  split
  · rw [BitVec.getLsbD_setWidth, decide_eq_true (by omega), Bool.true_and]
  · rename_i hmask
    have hother : n ≠ k := fun he => hmask (he ▸ hk)
    rw [BitVec.getLsbD_setWidth, decide_eq_true (by omega), Bool.true_and, toggleBit_other _ _ _ hother]

section Prod

variable {s : State} {i : Sec} {n off k : Nat} {q : Ecmdq}

theorem ecmdqAt_of_takeFree (hq : s.ecmdqAt i n = some q) : s.takeFree.2.ecmdqAt i n = some q := by
  rwa [State.ecmdqAt, State.takeFree_iface]

theorem processRegWrite_ecmdqProd (hq : s.ecmdqAt i n = some q) (hplace : regAt s.ids off = some ⟨off, 4, .ecmdq i n 1⟩)
    (halign : off % 4 = 0) (v : DWord) :
    processRegWrite s i.pas off 4 v = s.takeFree.2.setEcmdq i n fun e => e.store s.ids s.takeFree.1 1
      (mergeBits (q.prod.setWidth 64) (mergeBits (q.prod.setWidth 64) v (maskAt 64 0 32)) (ecmdqWritable s.ids i q 1)) := by
  refine (processRegWrite_word hplace halign v).trans ?_
  simp only [writeTarget, targetValue, hq, Option.map_some, Option.getD_some, ecmdqValue]
  rfl

/-- ECMDQ_PRODn written with one bit toggled that the write may change and is not EN. -/
theorem toggle_ecmdqProd (hq : s.ecmdqAt i n = some q) (hen : q.enabled = true)
    (hplace : regAt s.ids off = some ⟨off, 4, .ecmdq i n 1⟩) (halign : off % 4 = 0)
    (hk : (ecmdqWritable s.ids i q 1).getLsbD k = true) :
    ∃ f, processRegWrite s i.pas off 4 ((toggleBit q.prod k).setWidth 64) = s.takeFree.2.setEcmdq i n f ∧
      (s.takeFree.2.setEcmdq i n f).ecmdqAt i n = some { q with prod := toggleBit q.prod k } := by
  have hbit : q.prod.getLsbD 31 = true := ((Bool.and_eq_true _ _).mp hen).1
  refine ⟨_, processRegWrite_ecmdqProd hq hplace halign _, ?_⟩
  rw [ecmdqAt_setEcmdq _ (ecmdqAt_of_takeFree hq), Ecmdq.store, merged_toggle hk, hbit]
  simp

theorem enabled_toggle (hk : k ≠ 31) : ({ q with prod := toggleBit q.prod k } : Ecmdq).enabled = q.enabled := by
  simp only [Ecmdq.enabled, toggleBit_other _ _ _ hk.symm]

theorem processRegWrite_dcmdqProd (hq : s.ecmdqAt i n = some q) (hactive : q.dcActive = true)
    (hplace : regAt s.ids off = some ⟨off, 4, .dcmdq i n 1⟩) (halign : off % 4 = 0) (v : DWord) :
    processRegWrite s i.pas off 4 v = s.takeFree.2.setEcmdq i n fun e => e.storeDirect s.ids s.takeFree.1 1
      (mergeBits (dcmdqValue s.ids q 1) (mergeBits (dcmdqValue s.ids q 1) v (maskAt 64 0 32)) (dcmdqWritable q 1)) := by
  refine (processRegWrite_word hplace halign v).trans ?_
  simp only [writeTarget, targetValue, hq, Option.map_some, Option.getD_some, hactive, if_true]
  rfl

theorem dcmdqWritable_prod (hdc : q.dcEnabled = true) (n : Nat) :
    (dcmdqWritable q 1).getLsbD n = decide (n = 31 ∨ n = 23 ∨ n < 20) := by
  have hack : (q.dcEn == q.dcEnAck) = true := by
    simp only [Ecmdq.dcEnabled, Bool.and_eq_true] at hdc
    obtain ⟨⟨-, hdcEn⟩, hdcEnAck⟩ := hdc
    rw [hdcEn, hdcEnAck]
    rfl
  simp only [dcmdqWritable, hack, if_true, BitVec.getLsbD_or, maskAt_getLsbD]
  rw [← Bool.decide_or, ← Bool.decide_or, decide_eq_decide]
  omega

/-- DCMDQ_PRODn written with ERRACK toggled. -/
theorem toggle_dcmdqProd (hq : s.ecmdqAt i n = some q) (hdc : q.dcEnabled = true)
    (hplace : regAt s.ids off = some ⟨off, 4, .dcmdq i n 1⟩) (halign : off % 4 = 0) :
    ∃ f, processRegWrite s i.pas off 4 ((toggleBit q.prod 23).setWidth 64) = s.takeFree.2.setEcmdq i n f ∧
      (s.takeFree.2.setEcmdq i n f).ecmdqAt i n = some { q with prod := toggleBit q.prod 23 } := by
  have hfields := hdc
  simp only [Ecmdq.dcEnabled, Ecmdq.dcActive, Ecmdq.enabled, Bool.and_eq_true] at hfields
  obtain ⟨⟨⟨⟨hen, henAck⟩, hdirect⟩, hdcEn⟩, hdcEnAck⟩ := hfields
  have hactive : q.dcActive = true := by simp [Ecmdq.dcActive, Ecmdq.enabled, hen, henAck, hdirect]
  -- the bits of PROD that the write changes, and EN
  have hwritten (m : Nat) (hm : m = 31 ∨ m = 23 ∨ m < 20) :
      (mergeBits (dcmdqValue s.ids q 1) (mergeBits (dcmdqValue s.ids q 1) ((toggleBit q.prod 23).setWidth 64) (maskAt 64 0 32))
        (dcmdqWritable q 1)).getLsbD m = (toggleBit q.prod 23).getLsbD m := by
    rw [merged_word_getLsbD (by omega), dcmdqWritable_prod hdc, decide_eq_true hm, if_pos rfl, BitVec.getLsbD_setWidth,
      decide_eq_true (by omega), Bool.true_and]
  refine ⟨_, processRegWrite_dcmdqProd hq hactive hplace halign _, ?_⟩
  rw [ecmdqAt_setEcmdq _ (ecmdqAt_of_takeFree hq), Ecmdq.storeDirect, hwritten 31 (.inl rfl), toggleBit_other _ _ _ (by decide),
    hen]
  have hprod : mergeBits q.prod ((mergeBits (dcmdqValue s.ids q 1) (mergeBits (dcmdqValue s.ids q 1)
      ((toggleBit q.prod 23).setWidth 64) (maskAt 64 0 32)) (dcmdqWritable q 1)).setWidth 32) (maskAt 32 23 1 ||| maskAt 32 0 20) =
      toggleBit q.prod 23 := by
    refine BitVec.eq_of_getLsbD_eq fun m hm => ?_
    simp only [mergeBits_getLsbD (n := m) q.prod, BitVec.getLsbD_or, maskAt_getLsbD, Bool.or_eq_true, decide_eq_true_eq]
    split
    · rw [BitVec.getLsbD_setWidth, decide_eq_true hm, Bool.true_and, hwritten m (by omega)]
    · rw [toggleBit_other _ _ _ (by omega)]
  rw [hprod]
  simp [hdcEn]

/-! ## Progress after the acknowledge -/

theorem errActive_toggle : ({ q with prod := toggleBit q.prod 23 } : Ecmdq).errActive = !q.errActive := by
  simp only [Ecmdq.errActive, toggleBit_getLsbD, decide_true, and_self, Nat.reduceLT, Bool.xor_true, Bool.bne_not]

theorem hsErrActive_toggle : ({ q with prod := toggleBit q.prod 22 } : Ecmdq).hsErrActive = !q.hsErrActive := by
  simp only [Ecmdq.hsErrActive, toggleBit_getLsbD, decide_true, and_self, Nat.reduceLT, Bool.xor_true, Bool.bne_not]

theorem errActive_toggle_other (hk : k ≠ 23) : ({ q with prod := toggleBit q.prod k } : Ecmdq).errActive = q.errActive := by
  simp only [Ecmdq.errActive, toggleBit_other _ _ _ hk.symm]

theorem hsErrActive_toggle_other (hk : k ≠ 22) :
    ({ q with prod := toggleBit q.prod k } : Ecmdq).hsErrActive = q.hsErrActive := by
  simp only [Ecmdq.hsErrActive, toggleBit_other _ _ _ hk.symm]

theorem hasCommand_setEcmdq (f : Ecmdq → Ecmdq) (r : QueueRegs) :
    (s.takeFree.2.setEcmdq i n f).hasCommand r = s.hasCommand r := by
  simp [State.hasCommand, cmdqLog2]

theorem canProgress_ecmdq_of {f : Ecmdq → Ecmdq} (hq : (s.takeFree.2.setEcmdq i n f).ecmdqAt i n = some q)
    (hsfm : s.sfm = false) (hids : s.ids.ecmdq i = true ∨ s.ids.recmdq i = true) (hen : q.enabled = true)
    (hdirect : q.direct = false) (herr : q.errActive = false) (hcommand : s.hasCommand ⟨q.base, q.prod, q.cons⟩ = true) :
    (s.takeFree.2.setEcmdq i n f).canProgress (.ecmdq i n) = true := by
  simp [State.canProgress, hq, hasCommand_setEcmdq, hsfm, hids, hen, hdirect, herr, hcommand]

theorem canProgress_dcmdq_of {f : Ecmdq → Ecmdq} (hq : (s.takeFree.2.setEcmdq i n f).ecmdqAt i n = some q)
    (hsfm : s.sfm = false) (hids : s.ids.dcmdq i = true) (hdc : q.dcEnabled = true) (herr : q.errActive = false)
    (hhs : q.hsErrActive = false) (hstalled : s.directStalled i n = false)
    (hcommand : s.hasCommand ⟨q.base, q.prod, q.cons⟩ = true) :
    (s.takeFree.2.setEcmdq i n f).canProgress (.dcmdq i n) = true := by
  have hstalls : (s.takeFree.2.setEcmdq i n f).directStalled i n = false := by
    simpa [State.directStalled] using hstalled
  simp [State.canProgress, hq, hasCommand_setEcmdq, hsfm, hids, hdc, herr, hhs, hstalls, hcommand]

theorem dcEnabled_toggle (hk : k ≠ 31) : ({ q with prod := toggleBit q.prod k } : Ecmdq).dcEnabled = q.dcEnabled := by
  simp only [Ecmdq.dcEnabled, Ecmdq.dcActive, enabled_toggle hk, Ecmdq.direct]

/-- The error of an ECMDQ acknowledged. -/
theorem acknowledge_ecmdq (hq : s.ecmdqAt i n = some q) (hen : q.enabled = true) (hdirect : q.direct = false)
    (hplace : regAt s.ids off = some ⟨off, 4, .ecmdq i n 1⟩) (halign : off % 4 = 0) (herr : q.errActive = true) :
    (processRegWrite s i.pas off 4 ((toggleBit q.prod 23).setWidth 64)).ecmdqAt i n =
        some { q with prod := toggleBit q.prod 23 } ∧
      (s.sfm = false → s.ids.ecmdq i = true ∨ s.ids.recmdq i = true →
        s.hasCommand ⟨q.base, toggleBit q.prod 23, q.cons⟩ = true →
        (processRegWrite s i.pas off 4 ((toggleBit q.prod 23).setWidth 64)).canProgress (.ecmdq i n) = true) := by
  have hwritable : (ecmdqWritable s.ids i q 1).getLsbD 23 = true := by
    simp [ecmdqWritable, hen, Ecmdq.driven, Ecmdq.dcActive, hdirect, maskIf_getLsbD]
  obtain ⟨f, hwrite, hnew⟩ := toggle_ecmdqProd hq hen hplace halign hwritable
  rw [hwrite]
  exact ⟨hnew, fun hsfm hids hcommand => canProgress_ecmdq_of hnew hsfm hids ((enabled_toggle (by decide)).trans hen) hdirect
    (by rw [errActive_toggle, herr]; rfl) hcommand⟩

/-- A command error of a DCMDQ acknowledged in DCMDQ_PRODn, or a hypervisor-serviced one in ECMDQ_PRODn. -/
theorem acknowledge_dcmdq (hq : s.ecmdqAt i n = some q) (hdc : q.dcEnabled = true) (hids : s.ids.dcmdq i = true)
    (halign : off % 4 = 0) (hstalled : s.directStalled i n = false) (hsfm : s.sfm = false)
    (hwhich : (k = 23 ∧ regAt s.ids off = some ⟨off, 4, .dcmdq i n 1⟩ ∧ q.errActive = true ∧ q.hsErrActive = false) ∨
      (k = 22 ∧ regAt s.ids off = some ⟨off, 4, .ecmdq i n 1⟩ ∧ q.errActive = false ∧ q.hsErrActive = true))
    (hcommand : s.hasCommand ⟨q.base, toggleBit q.prod k, q.cons⟩ = true) :
    (processRegWrite s i.pas off 4 ((toggleBit q.prod k).setWidth 64)).ecmdqAt i n =
        some { q with prod := toggleBit q.prod k } ∧
      (processRegWrite s i.pas off 4 ((toggleBit q.prod k).setWidth 64)).canProgress (.dcmdq i n) = true := by
  obtain ⟨rfl, hplace, herr, hhs⟩ | ⟨rfl, hplace, herr, hhs⟩ := hwhich
  · obtain ⟨f, hwrite, hnew⟩ := toggle_dcmdqProd hq hdc hplace halign
    rw [hwrite]
    exact ⟨hnew, canProgress_dcmdq_of hnew hsfm hids ((dcEnabled_toggle (by decide)).trans hdc)
      (by rw [errActive_toggle, herr]; rfl) ((hsErrActive_toggle_other (by decide)).trans hhs) hstalled hcommand⟩
  · have hen : q.enabled = true := by
      simp only [Ecmdq.dcEnabled, Ecmdq.dcActive, Bool.and_eq_true] at hdc
      obtain ⟨⟨⟨hen, -⟩, -⟩, -⟩ := hdc
      exact hen
    have hwritable : (ecmdqWritable s.ids i q 1).getLsbD 22 = true := by
      simp [ecmdqWritable, hen, hids, maskIf_getLsbD]
    obtain ⟨f, hwrite, hnew⟩ := toggle_ecmdqProd hq hen hplace halign hwritable
    rw [hwrite]
    exact ⟨hnew, canProgress_dcmdq_of hnew hsfm hids ((dcEnabled_toggle (by decide)).trans hdc)
      ((errActive_toggle_other (by decide)).trans herr) (by rw [hsErrActive_toggle, hhs]; rfl) hstalled hcommand⟩

end Prod

theorem regAt_gerrorn (d : Ids) : regAt d 0x64 = some ⟨0x64, 4, .iface .ns .gerrorn⟩ := rfl

/-- Settles O46: each acknowledge writes what makes the two flags of the error equal, and changes nothing else of the queue. -/
theorem acknowledgeRestartsTheQueue : Obligations.AcknowledgeRestartsTheQueue := by
  unfold Obligations.AcknowledgeRestartsTheQueue
  refine ⟨fun s herrors hsfm hen hcommand => ?_, fun s i off herrors hplace halign => ?_,
    fun s i n off q hq hen hdirect hplace halign herr => acknowledge_ecmdq hq hen hdirect hplace halign herr,
    fun s i n off k q hq _ hdc hids halign hstalled hsfm hwhich hcommand =>
      acknowledge_dcmdq hq hdc hids halign hstalled hsfm hwhich hcommand⟩
  · have hwrite : processRegWrite s .ns 0x64 4 (s.ns.gerror.setWidth 64) = _ :=
      acknowledge_gerror herrors (regAt_gerrorn s.ids) (by decide)
    rw [hwrite]
    exact ⟨rfl, canProgress_main_of_acknowledged hsfm rfl hen hcommand⟩
  · rw [acknowledge_gerror herrors hplace halign, State.setIface_iface_same]
    exact ⟨rfl, canProgress_main_of_acknowledged⟩

end Sys2Proof.Proofs
end

section
/-! O60: the ATOS registers and the completion of their operation (45_atos.md R2100 to R2106, R2122, R2133). -/

namespace Sys2Proof.Proofs

open Sys2Proof.Machine Sys2Proof.Safety Sys2Proof.Laws

/-! ## Writes -/

theorem atosRegs_setAtos (s : State) (g : AtosGroup) (f : AtosRegs → AtosRegs) :
    (s.setAtos g f).atosRegs g = f (s.atosRegs g) := by
  cases g <;> rfl

theorem writeAtos_of_run {s : State} {g : AtosGroup} (h : (s.atosRegs g).run = true) (k : Nat) (v : DWord) :
    writeAtos s g k v = s := if_pos h

section Idle

variable {s : State} {g : AtosGroup} (h : (s.atosRegs g).run = false)

include h

theorem writeAtos_ctrl (v : DWord) :
    writeAtos s g 0 v =
      if v.getLsbD 0 && (s.iface g.sec).cr0.getLsbD 0 && (s.iface g.sec).cr0ack.getLsbD 0 then
        s.setAtos g fun a => { a with ctrl := 1 }
      else s := if_neg (by simp [h])

/-- A write of a register other than CTRL leaves CTRL. -/
theorem writeAtos_other {k : Nat} (hk : k ≠ 0) (v : DWord) :
    ((writeAtos s g k v).atosRegs g).ctrl = (s.atosRegs g).ctrl := by
  have hidle : ¬ (s.atosRegs g).run = true := by simp [h]
  match k, hk with
  | 1, _ =>
    have hwrite : writeAtos s g 1 v = s.setAtos g fun a => { a with sid := v &&& atosMask s.ids g 1 } := if_neg hidle
    rw [hwrite, atosRegs_setAtos]
  | 2, _ =>
    have hwrite : writeAtos s g 2 v = s.setAtos g fun a => { a with addr := v &&& atosMask s.ids g 2 } := if_neg hidle
    rw [hwrite, atosRegs_setAtos]
  | k + 3, _ =>
    have hwrite : writeAtos s g (k + 3) v = s := if_neg hidle
    rw [hwrite]

/-- What sets RUN. -/
theorem run_writeAtos_iff (k : Nat) (v : DWord) :
    ((writeAtos s g k v).atosRegs g).run = true ↔
      k = 0 ∧ v.getLsbD 0 = true ∧ (s.iface g.sec).cr0.getLsbD 0 = true ∧ (s.iface g.sec).cr0ack.getLsbD 0 = true := by
  by_cases hk : k = 0
  · subst hk
    rw [writeAtos_ctrl h]
    split
    · rename_i hset
      simp only [Bool.and_eq_true, and_assoc] at hset
      simp [atosRegs_setAtos, AtosRegs.run, hset]
    · rename_i hset
      simp only [Bool.and_eq_true, and_assoc] at hset
      simp only [h, true_and, hset, Bool.false_eq_true]
  · rw [AtosRegs.run, writeAtos_other h hk, ← AtosRegs.run, h]
    simp [hk]

end Idle

/-! ## The completion -/

theorem atosRegs_atosInhibit (s t : State) (g : AtosGroup) : (atosInhibit s t).atosRegs g = t.atosRegs g := by
  cases g <;> rfl

theorem atosRegs_of_only_lookup {s t : State} (h : Only State.sansLookup s t) (g : AtosGroup) :
    t.atosRegs g = s.atosRegs g := by
  have hsans (u : State) : u.sansLookup.atosRegs g = u.atosRegs g := by cases g <;> rfl
  rw [← hsans, h.same, hsans]

section Completion

variable {s : State} {g : AtosGroup} {q : AtosReq}

theorem atosResult_of_invReq (h : atosInvReq s.ids g q = true) :
    atosResult s g q = (parFail (g.sec == .s) s.ids q .invReq, s) := by
  simp only [atosResult, h, if_true]

theorem atosResult_of_off (h : atosInvReq s.ids g q = false) (hoff : s.smmuEn g.sec = false ∨ s.smmuEn q.sec = false) :
    atosResult s g q = (parFail (g.sec == .s) s.ids q .internal, s) := by
  have hcond : (!s.smmuEn g.sec || !s.smmuEn q.sec) = true := by simpa using hoff
  simp only [atosResult, h, hcond, if_true, Bool.false_eq_true, if_false]

/-- The PAR value of what a lookup found. -/
def atosPar (d : Ids) (g : AtosGroup) (q : AtosReq) : Except Stop (AtosOk ⊕ AtosFail) → BitVec 64
  | .ok (.inl ok) => parOk (g.sec == .s) d ok
  | .ok (.inr w) => parFail (g.sec == .s) d q w
  | .error e => parFail (g.sec == .s) d q (.stop e)

/-- The lookup of a request. -/
def atosRun (s : State) (g : AtosGroup) (q : AtosReq) : Except Stop (AtosOk ⊕ AtosFail) × State :=
  X.run (atosLookup g q { ev := ⟨q.sec, q.sid, q.ssid, q.addr, q.read, q.ind, q.priv, q.ind, q.priv, false⟩
                          inhibit := q.httui }) s

theorem atosResult_of_on (h : atosInvReq s.ids g q = false) (hg : s.smmuEn g.sec = true) (hq : s.smmuEn q.sec = true) :
    atosResult s g q = (atosPar s.ids g q (atosRun s g q).1,
      if q.httui then atosInhibit s (atosRun s g q).2 else (atosRun s g q).2) := by
  simp only [atosResult, h, hg, hq, Bool.not_true, Bool.or_self, Bool.false_eq_true, if_false]
  unfold atosRun
  generalize X.run _ s = p
  obtain ⟨r, t⟩ := p
  match r with
  | .ok (.inl _) => rfl
  | .ok (.inr _) => rfl
  | .error _ => rfl

theorem atosRegs_atosResult (s : State) (g : AtosGroup) (q : AtosReq) : (atosResult s g q).2.atosRegs g = s.atosRegs g := by
  by_cases hinv : atosInvReq s.ids g q = true
  · rw [atosResult_of_invReq hinv]
  · rw [Bool.not_eq_true] at hinv
    by_cases hon : s.smmuEn g.sec = true ∧ s.smmuEn q.sec = true
    · have hlookup : Only State.sansLookup s (atosRun s g q).2 := xonly_atosLookup _ _ _ s
      obtain ⟨hg, hq⟩ := hon
      rw [atosResult_of_on hinv hg hq]
      dsimp only
      split
      · rw [atosRegs_atosInhibit, atosRegs_of_only_lookup hlookup]
      · rw [atosRegs_of_only_lookup hlookup]
    · rw [atosResult_of_off hinv (by simpa only [not_and_or, Bool.not_eq_true] using hon)]

/-- PAR is the result, RUN is clear, SID and ADDR stay. -/
theorem atosRegs_runAtos (s : State) (g : AtosGroup) :
    (runAtos s g).atosRegs g =
      { s.atosRegs g with par := (atosResult s g (atosRequest s.ids g (s.atosRegs g))).1, ctrl := 0 } := by
  have hrun : runAtos s g = (atosResult s g (atosRequest s.ids g (s.atosRegs g))).2.setAtos g fun r =>
      { r with par := (atosResult s g (atosRequest s.ids g (s.atosRegs g))).1, ctrl := 0 } := rfl
  rw [hrun, atosRegs_setAtos, atosRegs_atosResult]

end Completion

/-! ## PAR -/

theorem fieldNat_putField_other {w : Nat} (x : BitVec w) {lo k a n : Nat} (v : Nat) (h : a + n ≤ lo ∨ lo + k ≤ a) :
    fieldNat (putField x lo k v) a n = fieldNat x a n := by
  rw [fieldNat, extractLsb'_putField_other x v h, fieldNat]

theorem fieldNat_putBit {w : Nat} (x : BitVec w) {k a n : Nat} (b : Bool) (h : a + n ≤ k ∨ k < a) :
    fieldNat (putBit x k b) a n = fieldNat x a n := by
  rw [fieldNat, extractLsb'_putBit x b h, fieldNat]

/-- A failure has FAULT one. -/
theorem parFail_fault (secure : Bool) (d : Ids) (q : AtosReq) (w : AtosFail) : (parFail secure d q w).getLsbD 0 = true := by
  simp only [parFail, putField_getLsbD, putBit_getLsbD, Nat.reduceLT, Nat.reduceLeDiff, Nat.reduceEqDiff, and_false,
    false_and, if_false]
  rfl

/-- A failure has its code in FAULTCODE. -/
theorem parFail_code (secure : Bool) (d : Ids) {q : AtosReq} {w : AtosFail} (h : (parFields q w).1 < 2 ^ 8) :
    fieldNat (parFail secure d q w) 4 8 = (parFields q w).1 := by
  simp only [parFail]
  rw [fieldNat_putBit _ _ (by omega), fieldNat_putField_other _ _ (by omega), fieldNat_putField _ (by omega) h]

theorem trfKind_number_lt (k : TrfKind) : k.number < 2 ^ 8 := by cases k <;> decide

theorem parFields_trf {q : AtosReq} {f : TrfInfo} (a b c : Bool) (h : f.s2 = false ∨ q.type = 2) :
    (parFields q (.stop (.trf f a b c))).1 = f.kind.number := by
  cases hs2 : f.s2 with
  | false => simp [parFields, hs2]
  | true =>
    have htype : q.type = 2 := h.resolve_left (by simp [hs2])
    simp [parFields, hs2, htype]

/-- Alignment below an address field leaves it. -/
theorem fieldNat_alignDown (x : DWord) {k lo n : Nat} (hk : k ≤ lo) (hn : lo + n ≤ 64) :
    fieldNat (alignDown x k) lo n = fieldNat x lo n := by
  refine congrArg BitVec.toNat (BitVec.eq_of_getLsbD_eq fun m hm => ?_)
  rw [BitVec.getLsbD_extractLsb', BitVec.getLsbD_extractLsb', alignDown, BitVec.getLsbD_ofNat, Nat.testBit_mul_two_pow,
    Nat.testBit_div_two_pow, Nat.sub_add_cancel (by omega), decide_eq_true (show lo + m < 64 by omega),
    decide_eq_true (show k ≤ lo + m by omega), BitVec.testBit_toNat, Bool.true_and, Bool.true_and]

/-- The fields of a success. -/
theorem parOk_fields (secure : Bool) (d : Ids) (ok : AtosOk) :
    (parOk secure d ok).getLsbD 0 = false ∧ fieldNat (parOk secure d ok) 8 2 = ok.sh % 4 ∧
      (parOk secure d ok).extractLsb' 56 8 = ok.attr ∧ (parOk secure d ok).getLsbD 11 = decide (12 < ok.sizeLog2) ∧
      (ok.sizeLog2 ≤ 12 → fieldNat (parOk secure d ok) 12 44 = fieldNat ok.addr 12 44 % 2 ^ (d.oas - 12)) := by
  refine ⟨?_, ?_, ?_, ?_, fun hsize => ?_⟩
  · simp [parOk, putField_getLsbD, putBit_getLsbD, -BitVec.getLsbD_eq_getElem]
  · rw [parOk, fieldNat_putField_other _ _ (by omega), fieldNat, extractLsb'_putField_same _ _ (by omega),
      BitVec.toNat_ofNat]
  · rw [parOk, extractLsb'_putField_same _ _ (by omega), BitVec.ofNat_toNat, BitVec.setWidth_eq]
  · simp [parOk, putField_getLsbD, putBit_getLsbD, -BitVec.getLsbD_eq_getElem]
  · have hbig : decide (12 < ok.sizeLog2) = false := decide_eq_false (by omega)
    have hfield : fieldNat ok.addr 12 44 % 2 ^ (d.oas - 12) < 2 ^ 44 :=
      (Nat.mod_le _ _).trans_lt (fieldNat_lt _ _ _)
    have hzero : alignDown ok.addr ok.sizeLog2 ||| (0 : DWord) = alignDown ok.addr ok.sizeLog2 := BitVec.or_zero
    simp only [parOk, hbig, Bool.false_eq_true, if_false, hzero]
    rw [fieldNat_putField_other _ _ (by omega), fieldNat_putField_other _ _ (by omega), fieldNat_putBit _ _ (by omega),
      fieldNat_putBit _ _ (by omega), fieldNat_alignDown _ hsize (by omega), fieldNat_putField _ (by omega) hfield]

/-- With SMMUEN zero the operation fails, and changes PAR and CTRL only. -/
theorem runAtos_of_off {s : State} {g : AtosGroup} (hoff : s.smmuEn g.sec = false) :
    ∃ w, runAtos s g = s.setAtos g fun r =>
      { r with par := parFail (g.sec == .s) s.ids (atosRequest s.ids g (s.atosRegs g)) w, ctrl := 0 } := by
  cases hinv : atosInvReq s.ids g (atosRequest s.ids g (s.atosRegs g)) with
  | true => exact ⟨.invReq, by rw [runAtos, atosResult_of_invReq hinv]⟩
  | false => exact ⟨.internal, by rw [runAtos, atosResult_of_off hinv (.inl hoff)]⟩

theorem setAtos_keeps (s : State) (g : AtosGroup) (f : AtosRegs → AtosRegs) :
    (s.setAtos g f).mem = s.mem ∧ (s.setAtos g f).caches = s.caches := by
  cases g <;> exact ⟨rfl, rfl⟩

/-- Settles O60: PAR is the value that `atosResult` gives, by what holds the lookup back or what it finds. -/
theorem atosOperation : Obligations.AtosOperation := by
  unfold Obligations.AtosOperation
  intro s g k v
  rw [atosRegs_runAtos]
  refine ⟨fun h => writeAtos_of_run h k v, fun h => run_writeAtos_iff h k v, run_of_ctrl_zero rfl, rfl, rfl, fun hoff => ?_, ?_⟩
  · obtain ⟨w, hrun⟩ := runAtos_of_off hoff
    obtain ⟨hmem, hcaches⟩ := setAtos_keeps s g fun r =>
      { r with par := parFail (g.sec == .s) s.ids (atosRequest s.ids g (s.atosRegs g)) w, ctrl := 0 }
    rw [← atosRegs_runAtos, hrun, atosRegs_setAtos]
    exact ⟨parFail_fault _ _ _ _, Quiet.sameMemory hmem, hcaches⟩
  · rintro q par rfl rfl
    refine ⟨fun hinv => ?_, fun hinv hg hq r u hrun => ?_⟩
    · rw [atosResult_of_invReq hinv]
      exact ⟨parFail_fault _ _ _ _, parFail_code _ _ (by simp [parFields])⟩
    · have hresult := atosResult_of_on hinv hg hq
      have hr : atosRun s g (atosRequest s.ids g (s.atosRegs g)) = (r, u) := hrun
      rw [hr] at hresult
      rw [hresult]
      dsimp only
      refine ⟨?_, ?_, ?_⟩
      · rintro ok rfl
        exact parOk_fields _ _ ok
      · rintro rfl
        exact ⟨parFail_fault _ _ _ _, parFail_code _ _ (by simp [parFields])⟩
      · rintro f a b c rfl
        refine ⟨parFail_fault _ _ _ _, fun htype => ?_⟩
        have hcode := parFields_trf a b c htype
        rw [← hcode]
        exact parFail_code _ _ (hcode ▸ trfKind_number_lt _)

end Sys2Proof.Proofs
end
